-- ==== Sys2Proof/Word.lean ====
section
/-! DEFINITION. The word types of the NG-8160 model and the two shapes of sparse data it is built from. -/

namespace Sys2Proof

/-- A byte of memory (00 R12). -/
abbrev Byte := BitVec 8

/-- A 32-bit word register (02 Table 2-1). -/
abbrev Word := BitVec 32

/-- A mask of the 32 lanes of a core (02 R57). -/
abbrev Mask := BitVec 32

/-- One 128-byte line; byte `i` is bits `[8i+7:8i]` (00 R12, 04). -/
abbrev Line := BitVec 1024

/-- A byte mask of one line. -/
abbrev LineMask := BitVec 128

/-- Memory as listed bytes: addresses strictly rising, no byte equal to the unlisted value 0. -/
abbrev Mem := List Host.Cell

/-- A sparse map by number: keys strictly rising. -/
abbrev Tab (α : Type) := List (Nat × α)

end Sys2Proof
end

