-- ==== Sys2Proof/Syntax.lean ====
section
/-! DEFINITION. The commands of the block: one constructor of `Instr` for each row of the command table. -/

namespace Sys2Proof

/-- A core instruction at issue: the core, the number of its strand, and the 64-bit instruction word fetched at that
strand's program counter (02 R58, R80). -/
structure Issue where
  core : Nat
  strand : Nat
  word : BitVec 64
  deriving DecidableEq, Repr

/-- A command of a ring: function, ring, the command's count in the ring, and its index inside a BATCH
(0 outside a batch; the k-th command of a batch, from 0, has inner `k + 1`) (07 R265, R272). -/
structure CmdId where
  fn : Nat
  ring : Nat
  count : Nat
  inner : Nat
  deriving DecidableEq, Repr

/-- The events that reset the whole part (15 R496). -/
inductive ResetCause where
  | powerUp | perst | hotReset | linkDown
  deriving DecidableEq, Repr

/-- The phase-locked loops of MGT_CLOCK_STATUS (01 Table 1-10). -/
inductive Pll where
  | array | sys | mem | pcie | disp0 | disp1
  deriving DecidableEq, Repr

/-- What an error-correcting code finds in a word it reads (04 R179, R180, 17 R545). -/
inductive Ecc where
  | clean | corrected | uncorrectable
  deriving DecidableEq, Repr

/-- A failed host read (05 R192): the fill of a line that waits at its slice, or a host line (PA[47:7]) whose reads the host refuses from
now on, or no longer refuses. -/
inductive HostReader where
  | fill (line : Nat)
  | refuse (line : Nat)
  | accept (line : Nat)
  deriving DecidableEq, Repr

/-- The configuration-space registers whose writes act on the device (10 R369, R378, 17 R536, R539). -/
inductive CfgReg where
  | busMaster | msixEnable | functionMask | numVfs | vfEnable | powerState
  deriving DecidableEq, Repr

/-- Where a register write lands: an offset of the function's BAR0 with the access's width in bytes, a register of its
configuration space, or BAR0 with a poisoned TLP (17 R537). -/
inductive RegTarget where
  | bar0 (offset width : Nat)
  | config (reg : CfgReg)
  | poisoned
  deriving DecidableEq, Repr

/-- A register write from the host or firmware, through function `fn` (00 R15-R18). -/
structure RegWrite where
  fn : Nat
  target : RegTarget
  value : Nat
  deriving DecidableEq, Repr

/-- What a panel sends back after a DCS packet (14 R482): read data, or an error report. -/
inductive PanelReply where
  | data (bytes : List Byte)
  | ack
  | error (report : Nat)
  deriving DecidableEq, Repr

/-- The outcome of built-in self-test (15 R500): the units that pass. -/
structure SelfTest where
  clusters : BitVec 64
  cores : List (BitVec 16)
  slices : BitVec 64
  banks : BitVec 16
  csi : BitVec 8
  dsi : BitVec 2
  deriving DecidableEq, Repr

/-- The strap pins sampled as the part leaves reset (15 R498, 17 Table 17-5, 17-7). -/
structure Straps where
  smbAddr : Bool
  outerOff : Bool
  memSel : BitVec 3
  deriving DecidableEq, Repr

/-- The commands of the block, one constructor for each row of the table. -/
inductive Instr where
  /-- FULL_RESET (R496). Power-up, PERST_N assertion, PCIe hot reset or link down resets the whole part, restarts the timestamp and samples the straps. -/
  | fullReset (cause : ResetCause)
  /-- TIMESTAMP_WRAP (R28). The 64-bit timestamp passes its maximum, becomes zero and starts a new epoch at once. -/
  | timestampWrap
  /-- EPOCH_BOUNDARY (R47). The timestamp reaches a multiple of 125,000 and the management plane performs the boundary actions in order. -/
  | epochBoundary (powerMw : Nat)
  /-- DIVIDER_SWITCH_DONE (R39). The a-clock divider switch completes within 4 a-cycles of the new frequency and SWITCHING clears. -/
  | dividerSwitchDone
  /-- PLL_LOSS_OF_LOCK (R53). A PLL loses lock; the management plane raises the chip-wide fault of its kind and runs its domains from bypass. -/
  | pllLossOfLock (pll : Pll)
  /-- PLL_RELOCK (R497). A PLL that lost lock locks again and its domains leave bypass. -/
  | pllRelock (pll : Pll)
  /-- PLL_FAIL (R497). A PLL has not relocked within 10 ms and the part records a FATAL PLL_FAIL. -/
  | pllFail (pll : Pll)
  /-- JOB_FAULT (R372). A job fault reaches the management plane, is recorded or suppressed, and starts a data-plane reset. -/
  | jobFault (k : Nat)
  /-- DATA_PLANE_RESET (R505). The data plane stops, HIF_DP_STATUS enters RESET, FAULT_N is asserted and DP_RESET messages are sent. -/
  | dataPlaneReset
  /-- DP_QUIESCE (R505). Accepted DRAM writes are acknowledged, after which the reset effects on rings, tallies, orders, mint and ledger are applied. -/
  | dpQuiesce
  /-- DP_CLEAR (R505). Zeroing of purses, register files, matrix slots and tile memory and invalidation of unpinned ways completes. -/
  | dpClear
  /-- DP_CHECK (R506). The rerun self-test of the faulting cluster ends and a failing cluster is removed from the floor plan. -/
  | dpCheck (coresOk : BitVec 16) (clusterOk : Bool)
  /-- DP_RELEASE (R505). The data plane is released: STATE RUNNING, FAULT_N released, pending point and budgets applied, hot-set reload begun. -/
  | dpRelease
  /-- NOP (R86). The core issues NOP, which has no effect. -/
  | nop (i : Issue)
  /-- MOVI (R86). The core writes IMM32 to DST. -/
  | movi (i : Issue)
  /-- MOV (R86). The core copies source A to DST. -/
  | mov (i : Issue)
  /-- IADD (R85). The core adds A and B with wrap-around. -/
  | iadd (i : Issue)
  /-- ISUB (R85). The core subtracts B from A with wrap-around. -/
  | isub (i : Issue)
  /-- IMUL (R86). The core writes the low half of A times B. -/
  | imul (i : Issue)
  /-- IMULH (R86). The core writes the high half of A times B, signed or unsigned by TYPE. -/
  | imulh (i : Issue)
  /-- IMAD (R86). The core writes the low half of A times B plus C. -/
  | imad (i : Issue)
  /-- IMIN (R86). The core writes the minimum of A and B by TYPE. -/
  | imin (i : Issue)
  /-- IMAX (R86). The core writes the maximum of A and B by TYPE. -/
  | imax (i : Issue)
  /-- AND (R86). The core writes the bitwise AND of A and B. -/
  | andOp (i : Issue)
  /-- OR (R86). The core writes the bitwise OR of A and B. -/
  | orOp (i : Issue)
  /-- XOR (R86). The core writes the bitwise XOR of A and B. -/
  | xorOp (i : Issue)
  /-- SHL (R85). The core shifts A left by B modulo the width. -/
  | shl (i : Issue)
  /-- SHR (R83). The core shifts A right, logically or arithmetically by MOD[0]. -/
  | shr (i : Issue)
  /-- ROT (R85). The core rotates A left by B modulo the width. -/
  | rot (i : Issue)
  /-- POPC (R86). The core counts the 1 bits of A. -/
  | popc (i : Issue)
  /-- CLZ (R86). The core counts the leading zeros of A. -/
  | clz (i : Issue)
  /-- BREV (R86). The core reverses the bits of A. -/
  | brev (i : Issue)
  /-- BFX (R583). The core extracts a bit field, zero- or sign-extended by TYPE. -/
  | bfx (i : Issue)
  /-- BFI (R583). The core inserts bits of A into C at the given position and length. -/
  | bfi (i : Issue)
  /-- FADD (R84). The core adds floating-point operands under IEEE 754 rules. -/
  | fadd (i : Issue)
  /-- FSUB (R84). The core subtracts floating-point operands under IEEE 754 rules. -/
  | fsub (i : Issue)
  /-- FMUL (R84). The core multiplies floating-point operands under IEEE 754 rules. -/
  | fmul (i : Issue)
  /-- FFMA (R84). The core computes A times B plus C with one rounding. -/
  | ffma (i : Issue)
  /-- FMIN (R84). The core writes minimumNumber of A and B. -/
  | fmin (i : Issue)
  /-- FMAX (R84). The core writes maximumNumber of A and B. -/
  | fmax (i : Issue)
  /-- FRCP (R86). The core computes 1 / A within 2 ulp. -/
  | frcp (i : Issue)
  /-- FRSQ (R86). The core computes 1 / sqrt(A) within 2 ulp. -/
  | frsq (i : Issue)
  /-- FSQRT (R86). The core computes sqrt(A) within 1 ulp. -/
  | fsqrt (i : Issue)
  /-- FEXP2 (R86). The core computes 2^A within 2 ulp. -/
  | fexp2 (i : Issue)
  /-- FLOG2 (R86). The core computes log2 A within 2 ulp. -/
  | flog2 (i : Issue)
  /-- FSIN (R86). The core computes the sine of A in radians. -/
  | fsin (i : Issue)
  /-- FCOS (R86). The core computes the cosine of A in radians. -/
  | fcos (i : Issue)
  /-- CMP (R86). The core writes a predicate from the comparison of A and B and optionally its inverse. -/
  | cmp (i : Issue)
  /-- SEL (R86). The core selects A or B by predicate C. -/
  | sel (i : Issue)
  /-- CVT (R584). The core converts between TYPEs with the given rounding and saturation. -/
  | cvt (i : Issue)
  /-- PLOP (R86). The core computes a three-input predicate function from a truth table. -/
  | plop (i : Issue)
  /-- SHFL (R66). The core shuffles values among the active lanes of the issuing group. -/
  | shfl (i : Issue)
  /-- VOTE (R66). The core votes over a predicate among the active lanes of the issuing group. -/
  | vote (i : Issue)
  /-- MOVS (R65). The core writes a uniform register from each group's lowest active lane. -/
  | movs (i : Issue)
  /-- BRA (R60). The core branches and splits the strand, or masks lanes inside a matrix region, when outcomes differ. -/
  | bra (i : Issue)
  /-- BRX (R60). The core branches indirectly, splitting the strand into one per distinct target. -/
  | brx (i : Issue)
  /-- CALL (R60). The core writes the return address and branches, splitting divergent lanes. -/
  | call (i : Issue)
  /-- RET (R60). The core returns to the address in the named pair, splitting per distinct address. -/
  | ret (i : Issue)
  /-- JOIN (R63). A strand reaches a JOIN and merges with eligible strands, or resolves the divergence stack in a matrix region. -/
  | join (i : Issue)
  /-- JOIN_WINDOW_EXPIRY (R63). A strand's 64 a-cycle JOIN window expires and it continues alone. -/
  | joinWindowExpiry (core strand : Nat)
  /-- EXIT (R70). Threads exit, releasing interlocks and unwinding the divergence stack in a matrix region. -/
  | exit (i : Issue)
  /-- GSYNC (R67). A group's threads block until all have reached GSYNC, then continue as one strand. -/
  | gsync (i : Issue)
  /-- MXBEGIN (R69). A group synchronises and requests a matrix slot to enter a matrix region. -/
  | mxbegin (i : Issue)
  /-- MX_SLOT_BIND (R100). A waiting group is bound to a freed matrix slot and its matrix-region flag is set. -/
  | mxSlotBind (core : Nat)
  /-- MXEND (R101). A group leaves its matrix region once its pending matrix instructions complete, releasing its slot. -/
  | mxend (i : Issue)
  /-- LCK_ACQ (R93). Each active lane attempts to acquire a lock word by compare with zero. -/
  | lckAcq (i : Issue)
  /-- LCK_RETRY (R94). The lock back-off of a failed strand expires and it repeats the acquire attempt. -/
  | lckRetry (core strand : Nat)
  /-- LCK_TRY (R93). Each active lane makes one acquire attempt and writes success to a predicate. -/
  | lckTry (i : Issue)
  /-- LCK_REL (R93). Each active lane releases its lock by writing zero with release ordering. -/
  | lckRel (i : Issue)
  /-- CORE_WATCHDOG (R97). A group's count of a-cycles without retirement reaches 2,000,000 and the job fault CORE_WATCHDOG is raised. -/
  | coreWatchdog (core group : Nat)
  /-- LD (R587). Each active lane loads data from memory into registers. -/
  | ld (i : Issue)
  /-- ST (R587). Each active lane stores register data to memory. -/
  | st (i : Issue)
  /-- ATOM (R171). Each active lane performs an atomic operation at the purse, tile memory or home slice. -/
  | atom (i : Issue)
  /-- FENCE (R170). The group's threads apply an acquire or release ordering point at the named scope. -/
  | fence (i : Issue)
  /-- CFLUSH (R172). The line holding each lane's address is written back within the named scope. -/
  | cflush (i : Issue)
  /-- CINV (R172). Copies of the line holding each lane's address are discarded within the named scope. -/
  | cinv (i : Issue)
  /-- MEMORY_RESPONSE (R177). Data or an acknowledgement returns to a core for an outstanding memory instruction. -/
  | memoryResponse (core line : Nat) (ecc : Ecc)
  /-- DIR_READ_MISS (R163). A core read miss reaches the home directory, which supplies data or forwards to the owner. -/
  | dirReadMiss (core line : Nat)
  /-- DIR_WRITE_MISS (R163). A core write miss or upgrade reaches the directory, which invalidates sharers and grants M. -/
  | dirWriteMiss (core line : Nat)
  /-- DIR_WT_STORE (R163). A WT or UC store or device-scope atomic reaches the directory, which invalidates all copies and performs it at the slice. -/
  | dirWtStore (core k : Nat)
  /-- PURSE_EVICT (R163). A purse evicts an E or M line with a notice or write-back to the slice. -/
  | purseEvict (core line : Nat)
  /-- NON_CORE_READ (R163). A non-core read reaches the directory and an owner's copy is forwarded. -/
  | nonCoreRead (req line : Nat)
  /-- NON_CORE_WRITE (R163). A non-core write reaches the directory, invalidates purse copies and is written. -/
  | nonCoreWrite (req line : Nat) (mask : BitVec 128) (data : BitVec 1024)
  /-- DIR_ACK (R163). The last acknowledgement of a directory transaction arrives and the entry leaves B. -/
  | dirAck (line : Nat)
  /-- VAULT_FILL (R152). A fill returns to a slice's miss register, allocating a victim and applying merged stores. -/
  | vaultFill (line : Nat) (ecc : Ecc)
  /-- NEXT_LINE_PREFETCH (R154). A next-line prefetch reaches its target slice and is filled or dropped. -/
  | nextLinePrefetch (k : Nat)
  /-- SLICE_SCRUB (R181). Every 91 f-cycles a slice scrubs one line, correcting or poisoning it. -/
  | sliceScrub (slice : Nat) (ecc : Ecc)
  /-- MLD (R128). The group loads a fragment register and optionally its scale row, raw or converting. -/
  | mld (i : Issue)
  /-- MST (R129). The group stores accumulator or fragment rows, raw or converted. -/
  | mst (i : Issue)
  /-- MMA (R130). The group multiplies two fragments and accumulates into an accumulator tile. -/
  | mma (i : Issue)
  /-- MZERO (R131). The group zeroes the active rows of an accumulator tile and sets its tag. -/
  | mzero (i : Issue)
  /-- MX_PIPE_START (R138). A queued matrix instruction starts on its transfer or multiply pipe and leaves the queue. -/
  | mxPipeStart (core k : Nat)
  /-- SEND (R212). Each active lane sends a message to a core's receive channel, consuming credits. -/
  | send (i : Issue)
  /-- CREDIT_REQUEST (R215). A credit request reaches a receive channel, which grants credits or records it pending. -/
  | creditRequest (k : Nat)
  /-- CREDIT_GRANT (R214). Granted credits reach the sending core's credit cache. -/
  | creditGrant (k : Nat)
  /-- MESSAGE_ARRIVAL (R217). A message is enqueued in its destination channel. -/
  | messageArrival (k : Nat)
  /-- RECV (R218). Each active lane dequeues a message from a receive channel. -/
  | recv (i : Issue)
  /-- TSIG (R230). Each group present performs SET or ADD on a tally. -/
  | tsig (i : Issue)
  /-- TWAIT (R231). Each group present waits for a tally to reach a target. -/
  | twait (i : Issue)
  /-- TWAIT_TIMEOUT (R231). A TWAIT timeout expires and the wait completes with result 0. -/
  | twaitTimeout (core strand group : Nat)
  /-- TREAD (R232). Each active lane reads a tally's value or status word. -/
  | tread (i : Issue)
  /-- TALLY_OPERATION (R223). A SET, ADD, REARM or READ from any source is performed at the tally block in its total order. -/
  | tallyOperation (k : Nat)
  /-- TALLY_WAKE (R235). A tally wake reaches a waiting core, teller or front end and completes its wait. -/
  | tallyWake (k : Nat)
  /-- TLY_SET (R237). A host write to TLY_SET_n performs SET on the tally. -/
  | tlySet (f n v : Nat)
  /-- TLY_ADD (R237). A host write to TLY_ADD_n performs ADD on the tally. -/
  | tlyAdd (f n v : Nat)
  /-- TLY_REARM (R222). A host write to TLY_REARM_n re-arms the tally, clearing LOST and STALE. -/
  | tlyRearm (f n v : Nat)
  /-- MALLOC (R204). Active lanes request objects from a mint pool. -/
  | malloc (i : Issue)
  /-- MFREE (R204). A lane returns an object to a mint pool. -/
  | mfree (i : Issue)
  /-- MINT_CALL (R202). The mint serves one call of a pool, updating its bitmap in DRAM before answering. -/
  | mintCall (k : Nat)
  /-- HOST_READ_ERROR (R192). A host read completes with UR or CA or times out and is treated as a HOST_ERROR translation failure. -/
  | hostReadError (a : HostReader)
  /-- FAULT_RECORD_CLEAR (R198). Writing 1 to VALID of a fault record clears VALID and MORE and re-arms capture. -/
  | faultRecordClear (f n v : Nat)
  /-- MMU_INV_RANGE (R196). MMU_INV_CTRL GO with MODE range invalidates PAGES pages of a context. -/
  | mmuInvRange (f v : Nat)
  /-- MMU_INV_CONTEXT (R196). MMU_INV_CTRL GO with MODE context invalidates every translation of a context. -/
  | mmuInvContext (f v : Nat)
  /-- MMU_INV_ALL (R196). MMU_INV_CTRL GO with MODE all invalidates every context. -/
  | mmuInvAll (f v : Nat)
  /-- INVALIDATION_COMPLETE (R194). An invalidation's TLB drop and outstanding accesses complete and BUSY clears. -/
  | invalidationComplete (k : Nat)
  /-- MAINT_FLUSH (R175). VLT_MAINT_CTRL GO with OP FLUSH starts a system-scope flush over a range. -/
  | maintFlush (f v : Nat)
  /-- MAINT_INVALIDATE (R175). VLT_MAINT_CTRL GO with OP INVALIDATE starts a system-scope invalidate over a range. -/
  | maintInvalidate (f v : Nat)
  /-- MAINT_FLUSH_INV (R175). VLT_MAINT_CTRL GO with OP FLUSH_INV flushes then invalidates a range. -/
  | maintFlushInv (f v : Nat)
  /-- MAINT_FILL (R175). VLT_MAINT_CTRL GO with OP FILL reads a range as allocating reads of a requester. -/
  | maintFill (f v : Nat)
  /-- MAINT_LINE (R176). A maintenance operation processes its next line atomically and finishes at the last line or a fault. -/
  | maintLine (k : Nat)
  /-- REGISTER_WRITE (R15). A write to a register with no behaviour of its own updates its writable fields under the access codes. -/
  | registerWrite (w : RegWrite)
  /-- HIF_WIN_WRITE (R244). A write to HIF_WIN sets the BAR2 window, discarded when the context is not owned. -/
  | hifWinWrite (f v : Nat)
  /-- TAG_WRITE (R246). A write to a tag entry sets its context, discarded when invalid or not owned. -/
  | tagWrite (f i v : Nat)
  /-- BAR2_READ (R242). A host read through BAR2 is translated and served at device scope. -/
  | bar2Read (f off n : Nat)
  /-- BAR2_WRITE (R174). A host write through BAR2 is translated and performed in arrival order at device scope. -/
  | bar2Write (f off : Nat) (data : List (BitVec 8)) (poisoned : Bool)
  /-- RING_ENABLE (R250). EN set to 1 checks the configuration, clears counters and zeroes a device-written ring. -/
  | ringEnable (f r : Nat) (v : Nat)
  /-- RING_IDLE (R250). Zeroing of a device-written ring completes and the ring enters IDLE. -/
  | ringIdle (f r : Nat)
  /-- RING_DISABLE (R251). EN cleared stops the ring starting commands; it drains. -/
  | ringDisable (f r : Nat) (v : Nat)
  /-- RING_DRAINED (R251). The last started command of a draining ring completes and the ring becomes DISABLED. -/
  | ringDrained (f r : Nat)
  /-- DOORBELL (R254). A doorbell write publishes commands up to TAIL or puts the ring in ERROR. -/
  | doorbell (f r : Nat) (v : Nat)
  /-- COMMAND_FETCH (R588). The front end issues the read of newly published commands or of a device-written ring slot. -/
  | commandFetch (f r : Nat)
  /-- SLOT_READ (R258). A device-written ring slot is read; a non-empty slot's command is copied and the slot and HEAD updated. -/
  | slotRead (f r : Nat)
  /-- COMMAND_START (R247). An arrived command's tag is resolved and the command starts in ring order. -/
  | commandStart (f r : Nat)
  /-- COMMAND_COMPLETE (R266). A command's effects are performed and its receipt, signal, counters and interrupt follow. -/
  | commandComplete (x : CmdId)
  /-- WAIT (R270). The WAIT command holds the ring until a tally reaches its target. -/
  | wait (x : CmdId)
  /-- WAIT_TIMEOUT (R270). A front-end WAIT reaches its TMO-th epoch boundary and completes with TIMEOUT. -/
  | waitTimeout (x : CmdId)
  /-- REARM (R271). The REARM command re-arms a tally. -/
  | rearm (x : CmdId)
  /-- BATCH (R272). The BATCH command executes an array of commands in place of itself. -/
  | batch (x : CmdId)
  /-- ENQ (R274). The ENQ command copies a command into a device-written ring and signals its doorbell tally. -/
  | enq (x : CmdId)
  /-- COPY (R275). The COPY command copies bytes from SRC to DST. -/
  | copy (x : CmdId)
  /-- FILL (R275). The FILL command writes a repeated pattern over a range. -/
  | fill (x : CmdId)
  /-- MAINT (R278). The MAINT command performs a range maintenance operation. -/
  | maint (x : CmdId)
  /-- TLB_INV (R279). The TLB_INV command invalidates a range, a context or the function's contexts. -/
  | tlbInv (x : CmdId)
  /-- MINT_LOAD (R201). The MINT_LOAD command loads the partition's eight mint pools. -/
  | mintLoad (x : CmdId)
  /-- SO_INSTALL (R302). The command installs a standing order from its descriptor. -/
  | soInstall (x : CmdId)
  /-- SO_REMOVE (R303). The command removes an idle standing order. -/
  | soRemove (x : CmdId)
  /-- SO_PATCH (R304). The command writes draft words and optionally seals. -/
  | soPatch (x : CmdId)
  /-- SO_SEAL (R305). The command optionally loads the draft and seals a new generation. -/
  | soSeal (x : CmdId)
  /-- SO_RUN (R306). The command queues a start request and completes when its activation ends. -/
  | soRun (x : CmdId)
  /-- SO_ARM (R307). The command arms the order on a trigger tally. -/
  | soArm (x : CmdId)
  /-- SO_DISARM (R308). The command disarms the order and withdraws a queued triggered request. -/
  | soDisarm (x : CmdId)
  /-- SO_CANCEL (R309). The command cancels running activations of the order. -/
  | soCancel (x : CmdId)
  /-- TRIGGER (R307). The trigger tally reaches the threshold and the teller queues a start request. -/
  | trigger (o : Nat)
  /-- ACTIVATION_START (R293). A queued request starts an activation, binding the current generation, SEQ and stamp. -/
  | activationStart (o : Nat)
  /-- NODE_START (R294). A ready node of an activation starts at the home teller. -/
  | nodeStart (o seq n : Nat)
  /-- GROUP_DISPATCH (R291). A target teller hands the next group of a launch to a core that has room. -/
  | groupDispatch (l core : Nat)
  /-- LAUNCH_COMPLETE (R295). The last target cluster's completion report reaches the home teller and the LAUNCH node completes. -/
  | launchComplete (l : Nat)
  /-- SIGNAL_COMPLETE (R295). The tally block has performed a SIGNAL node's operation and the node completes. -/
  | signalComplete (o seq n : Nat)
  /-- WAIT_NODE_TIMEOUT (R295). A WAIT node reaches its TMO-th boundary and the activation aborts with WAIT_TIMEOUT. -/
  | waitNodeTimeout (o seq : Nat)
  /-- ACTIVATION_END (R311). An activation ends COMPLETED or ABORTED: REFS drops, the record is written and DONE advances. -/
  | activationEnd (o seq : Nat)
  /-- LAUNCH_OVERRUN (R366). A launch still runs at its (R+1)-th boundary and raises LAUNCH_OVERRUN. -/
  | launchOverrun (l : Nat)
  /-- LDG_STREAM (R323). The command creates, modifies or drops a ledger stream. -/
  | ldgStream (x : CmdId)
  /-- LDG_EVICT (R342). The command evicts a stream's entries in a block range. -/
  | ldgEvict (x : CmdId)
  /-- LDG_MIGRATE (R343). The command moves one block to new storage. -/
  | ldgMigrate (x : CmdId)
  /-- MIGRATION_COPY_COMPLETE (R343). A migration copy completes and the entry switches to its new storage. -/
  | migrationCopyComplete (k : Nat)
  /-- LDG_TRANSFER (R344). The command exports entries to memory or imports them. -/
  | ldgTransfer (x : CmdId)
  /-- LDG_RELEASE (R338). The command releases one or all completed query slots of the partition. -/
  | ldgRelease (x : CmdId)
  /-- LDG_RECONCILE (R346). The command rebuilds ledger pool bitmaps from the partition's entries. -/
  | ldgReconcile (x : CmdId)
  /-- LINS_RESERVE (R325). A lane reserves a ledger entry and its storage. -/
  | linsReserve (i : Issue)
  /-- LINS_COMMIT (R326). A lane commits a reserved entry with its sketch. -/
  | linsCommit (i : Issue)
  /-- LINS_ABANDON (R326). A lane abandons a reserved entry. -/
  | linsAbandon (i : Issue)
  /-- LEVC (R341). A lane evicts a ledger entry. -/
  | levc (i : Issue)
  /-- LQRY_QUERY (R333). The group submits a query descriptor and holds a query slot. -/
  | lqryQuery (i : Issue)
  /-- LQRY_RELEASE (R337). The group releases a completed query slot and its leases. -/
  | lqryRelease (i : Issue)
  /-- LQRY_PRUNE (R350). The group applies a merge record, releasing dropped items' leases. -/
  | lqryPrune (i : Issue)
  /-- QUERY_JOIN (R330). An accepted query joins the sweep when a place is free. -/
  | queryJoin (q : Nat)
  /-- SWEEP_END (R334). A query's sweep ends; leases are taken, results written and prefetches issued. -/
  | sweepEnd (q : Nat)
  /-- QUERY_COMPLETE (R336). A query's result writes, and fills if required, complete and its tally is signalled. -/
  | queryComplete (q : Nat)
  /-- RND_PASS (R381). The command starts a render pass from its descriptor. -/
  | rndPass (x : CmdId)
  /-- INCREMENTAL_FLUSH (R389). The tiler receives the empty answer and ends the round as an incremental flush or stops with NO_HEAP. -/
  | incrementalFlush (p : Nat)
  /-- TILE_HANDOUT (R392). The next tile of a round is handed to the lowest free core of the target set. -/
  | tileHandout (p : Nat)
  /-- TILE_STORED (R394). A tile's store is acknowledged and its core becomes free. -/
  | tileStored (p core : Nat)
  /-- ROUND_END (R389). Every tile of a round is stored; the round's chunks are returned and the next round or the pass completion follows. -/
  | roundEnd (p : Nat)
  /-- GROUP_CLOSE_TIMEOUT (R396). 64 g-cycles pass with no new quad and the open fragment group closes. -/
  | groupCloseTimeout (core : Nat)
  /-- ILKB (R399). A lane requests its pixel's interlock. -/
  | ilkb (i : Issue)
  /-- ILK_GRANT (R399). An earlier fragment releases and the waiting lane is granted its interlock. -/
  | ilkGrant (core strand : Nat)
  /-- ILKE (R399). A lane releases its pixel's interlock. -/
  | ilke (i : Issue)
  /-- RAYQ (R419). Active lanes hand rays to the cluster's ray unit. -/
  | rayq (i : Issue)
  /-- RAY_ACCEPT (R421). The ray unit accepts a lane's query when it has room and the QID is free. -/
  | rayAccept (core strand : Nat)
  /-- RAY_LINE_ARRIVAL (R428). A node, packet or brick line arrives and the ray's traversal proceeds. -/
  | rayLineArrival (k : Nat)
  /-- HIT_RECORD_WRITE (R423). A finished query writes its hit record into local store. -/
  | hitRecordWrite (k : Nat)
  /-- RAYW (R424). The strand waits for the named queries' hit records. -/
  | rayw (i : Issue)
  /-- ING_CONFIG (R433). The command configures, enables or disables an ingest stream. -/
  | ingConfig (x : CmdId)
  /-- FRAME_START (R435). A Frame Start packet arrives and the port decides to write or drop the frame. -/
  | frameStart (port vc frameNum : Nat)
  /-- LINE_PACKET (R435). A matching long packet arrives and its line is written to the frame buffer. -/
  | linePacket (port vc dt : Nat) (data : List (BitVec 8)) (crcErr hdrErr : Bool)
  /-- FRAME_END (R437). The Frame End arrives; after acknowledgement the record is written and FULL is set. -/
  | frameEnd (port vc : Nat)
  /-- FRAME_TIMEOUT (R434). A frame without Frame End reaches 2 epoch boundaries and ends as truncated. -/
  | frameTimeout (port stream : Nat)
  /-- CMP_COMMIT (R444). The command replaces layer descriptors at the next latch. -/
  | cmpCommit (x : CmdId)
  /-- CMP_COEF (R449). The command loads a scaler coefficient set. -/
  | cmpCoef (x : CmdId)
  /-- CMP_STRONG (R451). The command loads or disables a strongroom layer after its CRC check. -/
  | cmpStrong (x : CmdId)
  /-- LATCH (R445). The engine finishes fetching a refresh's last active line; pending commits, sets and banks take effect. -/
  | latch (e : Nat)
  /-- REFRESH_START (R456). A refresh's first active line begins and the refresh count increments. -/
  | refreshStart (e : Nat)
  /-- STRONGROOM_CHECK (R453). The strongroom content and output CRCs are checked; TALLY advances or FAIL is shown. -/
  | strongroomCheck (e : Nat) (contentErr outputErr : Bool)
  /-- TEARING_EFFECT (R455). A tearing-effect edge on TE_GPIO starts a command-mode refresh. -/
  | tearingEffect (gpio : Nat)
  /-- GET_VERSION (R471). The message returns version, SVN and key information. -/
  | getVersion (f : Nat)
  /-- GET_STATE (R471). The message returns the bring-up state and flags. -/
  | getState (f : Nat)
  /-- GET_FLOORPLAN (R503). The message returns bytes of the floor-plan report. -/
  | getFloorplan (f : Nat)
  /-- FW_LOAD (R488). The message reads a firmware image from host memory for verification. -/
  | fwLoad (f : Nat)
  /-- IMAGE_VERIFY (R486). The boot ROM finishes verifying a loaded image and starts it or returns to AWAIT_FW. -/
  | imageVerify
  /-- SVN_COMMIT (R490). The message programs anti-rollback fuses up to the running SVN. -/
  | svnCommit (f : Nat) (stuck : BitVec 64)
  /-- KEY_REVOKE (R491). The message programs a signing-key revocation fuse. -/
  | keyRevoke (f : Nat) (ok : Bool)
  /-- PART_SET (R473). The message defines or updates a partition descriptor at a boundary. -/
  | partSet (f : Nat)
  /-- PART_WINDOW (R474). The message sets a partition DRAM window at a boundary. -/
  | partWindow (f : Nat)
  /-- CLUSTER_MOVE (R356). The message moves a cluster between partitions after a drain. -/
  | clusterMove (f : Nat)
  /-- CLUSTER_DRAINED (R357). The moving cluster's launches drain and its zeroing begins. -/
  | clusterDrained (c : Nat)
  /-- CLUSTER_MOVE_TIMEOUT (R356). The drain exceeds 500,000 k-cycles and the move is abandoned with TIMEOUT. -/
  | clusterMoveTimeout (c : Nat)
  /-- VAULT_ALLOC (R157). The message sets a requester's ALLOC mask and NLP bit. -/
  | vaultAlloc (f : Nat)
  /-- VAULT_PIN (R158). The message sets the PINNED bits of the ways. -/
  | vaultPin (f : Nat)
  /-- TALLY_OWN (R477). The message changes the owner of a range of tallies. -/
  | tallyOwn (f : Nat)
  /-- PART_RELEASE (R475). The message drains and releases a partition. -/
  | partRelease (f : Nat)
  /-- RESERVE_SET (R476). The message designates or clears a reserve cluster. -/
  | reserveSet (f : Nat)
  /-- RESERVE_LEND (R476). The message lends a reserve cluster to a holder. -/
  | reserveLend (f : Nat)
  /-- HOTSET_LOAD (R359). The message loads a hot-set image into a reserve cluster. -/
  | hotsetLoad (f : Nat)
  /-- HOTSET_READY (R360). A hot-set load completes and HOT_STATE becomes READY. -/
  | hotsetReady (r : Nat)
  /-- CTX_SET (R479). The message sets an address-space context descriptor. -/
  | ctxSet (f : Nat)
  /-- TAG_RANGE (R480). The message sets a function's context tag range. -/
  | tagRange (f : Nat)
  /-- POWER_POINT (R480). The message requests an a-clock operating point. -/
  | powerPoint (f : Nat)
  /-- POWER_LIMIT (R573). The message sets the package power limit. -/
  | powerLimit (f : Nat)
  /-- TELEMETRY (R478). The message returns power, temperature and supply readings. -/
  | telemetry (f : Nat)
  /-- INGEST_PORT (R431). The message binds and configures a CSI-2 port. -/
  | ingestPort (f : Nat)
  /-- DISPLAY_MODE (R481). The message starts or stops a display engine in a mode. -/
  | displayMode (f : Nat)
  /-- DISPLAY_LAYER (R472). The message binds an ordinary layer to a partition. -/
  | displayLayer (f : Nat)
  /-- DISPLAY_DCS (R482). The message sends a DCS packet to the panel and optionally reads its reply. -/
  | displayDcs (f : Nat)
  /-- PANEL_REPLY (R482). The panel's read data or error report arrives and DISPLAY_DCS completes. -/
  | panelReply (e : Nat) (r : PanelReply)
  /-- PANEL_TIMEOUT (R482). The panel does not answer within 10 ms and DISPLAY_DCS completes with TIMEOUT. -/
  | panelTimeout (e : Nat)
  /-- DP_RESET (R478). The message requests a data-plane reset. -/
  | dpReset (f : Nat)
  /-- NOTICE_TAIL_WRITE (R470). A write of MBX_NOTICE_TAIL consumes notices, or is discarded when out of range. -/
  | noticeTailWrite (f v : Nat)
  /-- DOE_DISCOVERY (R494). A DOE discovery request returns the supported data object types. -/
  | doeDiscovery (index : Nat)
  /-- GET_CERT (R494). The ATTEST request returns the identity or alias certificate. -/
  | getCert (kind : Nat)
  /-- GET_EVIDENCE (R494). The ATTEST request returns a signed evidence record for a nonce. -/
  | getEvidence (nonce : BitVec 256)
  /-- DOE_ABORT (R494). A DOE abort discards the request in progress. -/
  | doeAbort
  /-- CONTROL_FATAL (R458). An uncorrectable firmware memory error or control core exception records a FATAL fault. -/
  | controlFatal (detail : Nat)
  /-- CONTROL_WATCHDOG (R458). The control complex watchdog expires and a FATAL CONTROL_FATAL is recorded. -/
  | controlWatchdog
  /-- FLR (R376). A function-level reset stops the function, clears its partitions' tallies and cancels their orders. -/
  | flr (f : Nat)
  /-- FLR_DRAINED (R376). The function's work drains and the FLR's clean-up completes it. -/
  | flrDrained (f : Nat)
  /-- FLR_ESCALATION (R377). The FLR drain exceeds 500,000 k-cycles and a data-plane reset begins. -/
  | flrEscalation (f : Nat)
  /-- ROM_START_END (R498). Boot ROM tests and link training finish and configuration space becomes ready. -/
  | romStartEnd (ok : Bool)
  /-- MEM_TRAIN_END (R498). Training of the LPDDR5X channels ends. -/
  | memTrainEnd (trained : BitVec 16)
  /-- MEM_INIT_END (R498). Initialisation of every fitted DRAM byte completes. -/
  | memInitEnd
  /-- SELF_TEST_END (R500). Built-in self-test of the usable units ends. -/
  | selfTestEnd (r : SelfTest)
  /-- TOPOLOGY_CHECK (R502). The floor-plan report is built and checked; the part becomes READY or NOT_READY. -/
  | topologyCheck
  /-- HEARTBEAT_WRITE (R509). A write to MGT_HEARTBEAT sets EN, FEED_TALLY and LOCK, discarded when locked. -/
  | heartbeatWrite (v : Nat)
  /-- VIOLATION_COUNTER_READ (R527). A function-view read of a violation counter returns and clears it. -/
  | violationCounterRead (f off : Nat)
  /-- PCS_CTRL_WRITE (R530). A write to AUD_PCS_CTRL configures and enables PC sampling. -/
  | pcsCtrlWrite (f v : Nat)
  /-- PC_SAMPLE (R531). A core's sample a-cycle arrives and a PC sample record is written or dropped. -/
  | pcSample (f core : Nat)
  /-- PCS_TAIL_WRITE (R532). A write of AUD_PCS_TAIL consumes sample records, or is discarded when out of range. -/
  | pcsTailWrite (f v : Nat)
  /-- DRAM_READ (R545). The controller reads and decodes a line, correcting or poisoning it. -/
  | dramRead (line : Nat) (ecc : Ecc)
  /-- DRAM_WRITE (R546). The controller writes a whole line with its poison mask and check symbols. -/
  | dramWrite (line : Nat) (data : BitVec 1024) (poison : BitVec 16)
  /-- DRAM_PARTIAL_WRITE (R546). The controller performs a read-modify-write of part of a line. -/
  | dramPartialWrite (line : Nat) (mask : BitVec 128) (data : BitVec 1024) (ecc : Ecc)
  /-- DRAM_REFRESH (R541). The per-bank refresh interval expires and the controller refreshes a bank. -/
  | dramRefresh (ch : Nat)
  /-- DRAM_SCRUB (R550). The channel scrubs its next block, writing back corrected or poisoned lines. -/
  | dramScrub (ch : Nat) (errs : List (Nat × Ecc))
  /-- GPIO_EDGE (R556). An enabled edge on a GPIO is captured and may raise the vector. -/
  | gpioEdge (n : Nat) (level : Bool)
  /-- SMB_DEVICE_ID (R554). SMBus command 0x00 returns Device ID, stepping and bring-up state. -/
  | smbDeviceId
  /-- SMB_SERIAL (R554). SMBus command 0x01 returns the part serial number. -/
  | smbSerial
  /-- SMB_TEMPERATURE (R554). SMBus command 0x02 returns the hottest junction sensor. -/
  | smbTemperature
  /-- SMB_POWER (R554). SMBus command 0x03 returns the package power. -/
  | smbPower
  /-- SMB_CHIP_FAULT (R554). SMBus command 0x04 returns the chip-wide fault record. -/
  | smbChipFault
  /-- SMB_PIN_STATUS (R554). SMBus command 0x05 returns heartbeat and fault pin states. -/
  | smbPinStatus
  /-- SMB_WRITE (R554). An SMBus write or unknown command is NACKed. -/
  | smbWrite
  /-- BYPASS (R555). The TAP instruction BYPASS selects the bypass register. -/
  | bypass
  /-- IDCODE (R555). The TAP instruction IDCODE returns 0x2816_016F. -/
  | idcode
  /-- SAMPLE_PRELOAD (R555). The TAP instruction SAMPLE/PRELOAD samples or preloads the boundary register. -/
  | samplePreload
  /-- EXTEST (R555). The TAP instruction EXTEST drives pins from the boundary register. -/
  | extest
  /-- EXTEST_PULSE (R555). The TAP instruction EXTEST_PULSE tests AC-coupled PCIe lanes. -/
  | extestPulse
  /-- EXTEST_TRAIN (R555). The TAP instruction EXTEST_TRAIN tests AC-coupled PCIe lanes with a train. -/
  | extestTrain
  /-- HIGHZ (R555). The TAP instruction HIGHZ places outputs in high impedance. -/
  | highz
  /-- CLAMP (R555). The TAP instruction CLAMP holds pins from the boundary register. -/
  | clamp
  /-- TAP_RESET (R555). TRST_N low holds the TAP in Test-Logic-Reset. -/
  | tapReset
  /-- SENSOR_SAMPLE (R569). Every 10 µs each junction sensor is sampled. -/
  | sensorSample (t : List Nat)
  /-- RESET_RELEASE (R498). PERST_N is deasserted; the straps are sampled and the part leaves reset to begin ROM_START. -/
  | resetRelease (straps : Straps)
  /-- POWER_DOWN (R561). The rails fall after PERST_N is asserted and the part becomes unpowered, its pins high-impedance and its DRAM content lost. -/
  | powerDown
  /-- RAIL_OUT_OF_RANGE (R562). A supply rail leaves its range while PERST_N is deasserted, making outputs and DRAM content unpredictable until PERST_N is asserted. -/
  | railOutOfRange
  /-- CSI2_LINK_UP (R431). A CSI-2 receiver locks onto its link and UP becomes 1. -/
  | csi2LinkUp (n : Nat)
  /-- CSI2_LINK_DOWN (R434). A CSI-2 receiver loses lock, UP becomes 0 and its streams become idle. -/
  | csi2LinkDown (n : Nat)
  /-- VF_ENABLE_CLEAR (R378). Software clears VF Enable in the SR-IOV capability and every virtual function drains as one FLR over the union of their partitions. -/
  | vfEnableClear
  /-- MSIX_UNMASK (R369). A masked MSI-X vector or function is unmasked and the message held in its pending bit is sent. -/
  | msixUnmask (f : Nat) (v : Option Nat)
  /-- INVALIDATION_AT_CORE (R164). A directory invalidation reaches a purse, which drops its copy, returns dirty data and acknowledges, or waits for pending write-miss data. -/
  | invalidationAtCore (core line : Nat)
  /-- FORWARD_AT_CORE (R164). A directory forward reaches the owning purse, which returns data and keeps S, or answers not present when its line is leaving. -/
  | forwardAtCore (core line : Nat)
  /-- CREDIT_RETURN (R215). Unused credits returned by an evicted credit-cache entry or an emptied core reach their receive channel, raising U and possibly granting a pending request. -/
  | creditReturn (k : Nat)
  /-- LEDGER_SCRUB (R318). A ledger bank scrubs a row of entries, writing back corrected data and marking entries or streams BROKEN on uncorrectable errors. -/
  | ledgerScrub (bank : Nat) (errs : List (Nat × Ecc))
  /-- CTX_SET_TIMEOUT (R479). A CTX_SET waiting for its context to become idle reaches 500,000 k-cycles and completes with TIMEOUT and no change. -/
  | ctxSetTimeout (f : Nat)
  /-- PART_RELEASE_TIMEOUT (R475). A PART_RELEASE drain reaches 500,000 k-cycles and the message completes with TIMEOUT. -/
  | partReleaseTimeout (f : Nat)
  /-- ZEROING_COMPLETE (R357). The 8,192 a-cycle zeroing of a moving cluster's purses and tile memory ends, fixing the boundary at which it may join the new partition. -/
  | zeroingComplete (c : Nat)
  /-- OUTPUT_LINE_START (R446). An output line of a refresh begins; pixels whose data has not arrived show FILL and UNDERRUN counts the line. -/
  | outputLineStart (e : Nat) (late : Bool)
  /-- MX_INSTRUCTION_COMPLETE (R101). A matrix instruction completes on its pipe after its occupancy, releasing dependants, freeing the pipe and letting a waiting MXEND proceed. -/
  | mxInstructionComplete (core : Nat) (mul : Bool) (chunkOrder : List Nat)
  /-- AVSBUS_TRANSACTION (R553). An AVSBus transaction to the array regulator completes, giving a read-back voltage or a failure counted towards the three-failure rule. -/
  | avsbusTransaction (readMv : Option Nat)
  /-- DISPLAY_PLL_LOCK (R481). The display PLL locks after DISPLAY_MODE enables an engine, output starts and RUNNING becomes 1. -/
  | displayPllLock (e : Nat)
  /-- UNKNOWN_MESSAGE (R466). A mailbox request with an undefined MSG is answered with status UNKNOWN and DONE set. -/
  | unknownMessage (f : Nat)
  deriving DecidableEq, Repr

end Sys2Proof
end

