-- ==== Sys2Proof/Machine/Bits.lean ====
section
/-! DEFINITION. Bit fields, byte order, sign extension and serial comparison (00 R11, R12, R21). -/

namespace Sys2Proof

/-- Bits `[hi:lo]` of a number (00 R11). -/
def fld (x hi lo : Nat) : Nat := (x >>> lo) % 2 ^ (hi + 1 - lo)

/-- Bit `n` of a number. -/
def bitOf (x n : Nat) : Bool := x.testBit n

/-- `x` with bits `[hi:lo]` replaced by `v` (cut to the field's width). -/
def setFld (x hi lo v : Nat) : Nat :=
  x - (fld x hi lo) * 2 ^ lo + (v % 2 ^ (hi + 1 - lo)) * 2 ^ lo

/-- A field's value placed at bit `lo`. -/
def at_ (lo v : Nat) : Nat := v * 2 ^ lo

def b2n (b : Bool) : Nat := if b then 1 else 0

/-- Little-endian value of a list of bytes (00 R12). -/
def leNat : List Byte → Nat
  | [] => 0
  | b :: r => b.toNat + 256 * leNat r

/-- The `n` little-endian bytes of a value. -/
def toLe : Nat → Nat → List Byte
  | 0, _ => []
  | n + 1, v => BitVec.ofNat 8 v :: toLe n (v / 256)

/-- The two's-complement value of the low `w` bits of `x`. -/
def sext (w x : Nat) : Int :=
  if 2 * (x % 2 ^ w) ≥ 2 ^ w then ((x % 2 ^ w : Nat) : Int) - 2 ^ w else (x % 2 ^ w : Nat)

/-- An integer cut to `w` bits. -/
def toBits (w : Nat) (x : Int) : Nat := (x % (2 ^ w : Nat)).toNat

/-- `a` is ahead of `b` as `n`-bit serial numbers (R21). -/
def serialAhead (a b n : Nat) : Bool :=
  let d := toBits n ((a : Int) - b)
  1 ≤ d && d ≤ 2 ^ (n - 1) - 1

/-- `a` is ahead of or equal to `b` (R21). -/
def serialGe (a b n : Nat) : Bool := toBits n ((a : Int) - b) == 0 || serialAhead a b n

/-- Saturating count: `x + n`, not past `2^w − 1`. -/
def satAdd (w x n : Nat) : Nat := min (x + n) (2 ^ w - 1)

/-- The largest multiple of `a` at or below `x`. -/
def alignDown (x a : Nat) : Nat := x - x % a

/-- The mask with bit `i` written. -/
def setBit {n : Nat} (m : BitVec n) (i : Nat) (b : Bool) : BitVec n :=
  if b then m ||| BitVec.ofNat n (2 ^ i) else m &&& ~~~ BitVec.ofNat n (2 ^ i)

/-- The positions of the 1 bits of a mask, lowest first. -/
def onesOf {n : Nat} (m : BitVec n) : List Nat := (List.range n).filter (fun i => m.getLsbD i)

/-- The mask with exactly the listed positions set. -/
def maskOf (n : Nat) (l : List Nat) : BitVec n := l.foldl (fun m i => setBit m i true) 0

/-- How many 1 bits the low `w` bits of `x` hold. -/
def popcount : Nat → Nat → Nat
  | 0, _ => 0
  | w + 1, x => x % 2 + popcount w (x / 2)

/-- Byte `i` of a line. -/
def lineByte (l : Line) (i : Nat) : Byte := l.extractLsb' (8 * i) 8

/-- `n` bytes of a line from byte `i`. -/
def lineBytes (l : Line) (i n : Nat) : List Byte := (List.range n).map (fun k => lineByte l (i + k))

/-- The line with the bytes of `d` placed from byte `i`. -/
def lineSet (l : Line) (i : Nat) (d : List Byte) : Line :=
  BitVec.ofNat 1024 (setFld l.toNat (8 * i + 8 * d.length - 1) (8 * i) (leNat d))

/-- The line whose bytes are `d` (missing bytes 0). -/
def lineOf (d : List Byte) : Line := BitVec.ofNat 1024 (leNat d)

/-- The byte mask of `n` bytes from byte `i`. -/
def spanMask (i n : Nat) : LineMask := BitVec.ofNat 128 ((2 ^ n - 1) * 2 ^ i)

/-- `old` with the bytes named by `mask` taken from `new`. -/
def mergeLine (mask : LineMask) (old new : Line) : Line :=
  BitVec.ofNat 1024 (leNat ((List.range 128).map
    (fun i => if mask.getLsbD i then lineByte new i else lineByte old i)))

/-- The smallest power-of-two exponent `k` with `2^k ≥ n` (0 for `n ≤ 1`). -/
def clog2 (n : Nat) : Nat := if n ≤ 1 then 0 else (n - 1).log2 + 1

/-- `n / d` rounded up. -/
def ceilDiv (n d : Nat) : Nat := (n + d - 1) / d

/-- An open value with a stated bound: the free value where it keeps the bound, else a value that does. -/
def pick (ok : Nat → Bool) (x dflt : Nat) : Nat := if ok x then x else dflt

end Sys2Proof
end

