-- ==== Sys2Proof/Machine/Float.lean ====
section
/-! DEFINITION. Binary floating point by exact arithmetic (02 R84, IEEE 754-2019): a finite value is a sign, a whole
significand and a power of two, and every result is rounded once from the exact value. -/

namespace Sys2Proof.Machine

/-- A floating-point datum: NaN, an infinity, or `(−1)^neg · m · 2^e` (a zero keeps its sign). -/
inductive FVal where
  | nan
  | inf (neg : Bool)
  | fin (neg : Bool) (m : Nat) (e : Int)
  deriving DecidableEq, Repr

/-- An IEEE format by its exponent and fraction widths. -/
structure FFmt where
  ebits : Nat
  mbits : Nat
  deriving DecidableEq, Repr

def fmtF32 : FFmt := { ebits := 8, mbits := 23 }
def fmtF16 : FFmt := { ebits := 5, mbits := 10 }
def fmtBF16 : FFmt := { ebits := 8, mbits := 7 }

def FFmt.bias (f : FFmt) : Int := 2 ^ (f.ebits - 1) - 1
def FFmt.infBits (f : FFmt) : Nat := (2 ^ f.ebits - 1) * 2 ^ f.mbits
def FFmt.signBit (f : FFmt) : Nat := 2 ^ (f.ebits + f.mbits)
/-- The canonical quiet NaN (02 R84). -/
def FFmt.qnan (f : FFmt) : Nat := f.infBits + 2 ^ (f.mbits - 1)
/-- The least exponent of a significand's unit. -/
def FFmt.qmin (f : FFmt) : Int := 1 - f.bias - f.mbits

/-- The datum of an encoding. -/
def FFmt.decode (f : FFmt) (x : Nat) : FVal :=
  let neg := x / f.signBit % 2 == 1
  let mag := x % f.signBit
  let ex := mag / 2 ^ f.mbits
  let fr := mag % 2 ^ f.mbits
  if mag > f.infBits then .nan
  else if mag = f.infBits then .inf neg
  else if ex = 0 then .fin neg fr f.qmin
  else .fin neg (2 ^ f.mbits + fr) (f.qmin + ex - 1)

/-- Whether rounding goes away from zero, from the discarded part `rem` of `2^s`, in direction `rm`: 0 to nearest even,
1 toward zero, 2 toward −∞, 3 toward +∞ (02 Table 2-7). -/
def roundsUp (rm : Nat) (neg odd : Bool) (rem s : Nat) : Bool :=
  match rm with
  | 0 => decide (2 * rem > 2 ^ s) || (decide (2 * rem = 2 ^ s) && odd && decide (rem ≠ 0))
  | 1 => false
  | 2 => neg && decide (rem ≠ 0)
  | _ => !neg && decide (rem ≠ 0)

/-- `m · 2^e` as a multiple of `2^q`, rounded; exact where `e ≥ q`. -/
def roundAt (rm : Nat) (neg : Bool) (m : Nat) (e q : Int) : Nat :=
  if e ≥ q then m * 2 ^ (e - q).toNat
  else
    let s := (q - e).toNat
    let k := m / 2 ^ s
    if roundsUp rm neg (k % 2 == 1) (m % 2 ^ s) s then k + 1 else k

/-- What an overflow gives in direction `rm`: the largest finite value where the direction does not carry away from zero,
or where `sat`; else infinity (02 R584). -/
def FFmt.overflow (f : FFmt) (rm : Nat) (sat neg : Bool) : Nat :=
  if sat || rm = 1 || (rm = 2 && !neg) || (rm = 3 && neg) then f.infBits - 1 else f.infBits

/-- The encoding of a datum, rounded. -/
def FFmt.encode (f : FFmt) (rm : Nat) (sat : Bool) (v : FVal) : Nat :=
  match v with
  | .nan => f.qnan
  | .inf neg => (if sat then f.infBits - 1 else f.infBits) + (if neg then f.signBit else 0)
  | .fin neg m e =>
    let sg := if neg then f.signBit else 0
    if m = 0 then sg else
    let q := max (e + m.log2 - f.mbits) f.qmin
    let bits := ((q - f.qmin).toNat) * 2 ^ f.mbits + roundAt rm neg m e q
    sg + (if bits ≥ f.infBits then f.overflow rm sat neg else bits)

/-- `a − b` of exponents, with both significands brought to the lesser exponent. -/
def alignInts (na : Bool) (ma : Nat) (ea : Int) (nb : Bool) (mb : Nat) (eb : Int) : Int × Int × Int :=
  let e := min ea eb
  let a : Int := ma * 2 ^ (ea - e).toNat
  let b : Int := mb * 2 ^ (eb - e).toNat
  (if na then -a else a, if nb then -b else b, e)

def FVal.neg : FVal → FVal
  | .nan => .nan
  | .inf n => .inf (!n)
  | .fin n m e => .fin (!n) m e

def FVal.abs : FVal → FVal
  | .nan => .nan
  | .inf _ => .inf false
  | .fin _ m e => .fin false m e

/-- The exact sum; an exact zero of unlike signs is +0, but −0 toward −∞. -/
def FVal.add (rm : Nat) : FVal → FVal → FVal
  | .nan, _ => .nan
  | _, .nan => .nan
  | .inf a, .inf b => if a == b then .inf a else .nan
  | .inf a, .fin .. => .inf a
  | .fin .., .inf b => .inf b
  | .fin na ma ea, .fin nb mb eb =>
    let (a, b, e) := alignInts na ma ea nb mb eb
    let s := a + b
    if s = 0 then .fin (if na == nb then na else rm == 2) 0 0
    else .fin (decide (s < 0)) s.natAbs e

def FVal.mul : FVal → FVal → FVal
  | .nan, _ => .nan
  | _, .nan => .nan
  | .inf a, .inf b => .inf (a != b)
  | .inf a, .fin b m _ => if m = 0 then .nan else .inf (a != b)
  | .fin a m _, .inf b => if m = 0 then .nan else .inf (a != b)
  | .fin a m e, .fin b n f => .fin (a != b) (m * n) (e + f)

/-- The order of two data, none where either is NaN; +0 and −0 are equal. -/
def FVal.cmp : FVal → FVal → Option Ordering
  | .nan, _ => none
  | _, .nan => none
  | .inf a, .inf b => some (if a == b then .eq else if a then .lt else .gt)
  | .inf a, .fin .. => some (if a then .lt else .gt)
  | .fin .., .inf b => some (if b then .gt else .lt)
  | .fin na ma ea, .fin nb mb eb =>
    let (a, b, _) := alignInts na ma ea nb mb eb
    some (compare a b)

def FVal.isNeg : FVal → Bool
  | .nan => false
  | .inf n => n
  | .fin n .. => n

/-- minimumNumber and maximumNumber (02 R84): one NaN gives the other operand, and −0 is below +0. -/
def FVal.pickMin (isMax : Bool) (a b : FVal) : FVal :=
  match FVal.cmp a b with
  | some .lt => if isMax then b else a
  | some .gt => if isMax then a else b
  | some .eq => if a.isNeg == isMax then b else a
  | none => match a with | .nan => b | _ => a

/-- The value rounded to a whole number in direction `rm`. -/
def roundInt (rm : Nat) (neg : Bool) (m : Nat) (e : Int) : Int :=
  let k : Int := roundAt rm neg m e 0
  if neg then -k else k

/-- Float to integer of `w` bits: rounded, a value outside the range to the nearer limit, NaN to 0 (02 R584). -/
def FVal.toInt (rm w : Nat) (signed : Bool) (v : FVal) : Nat :=
  let lo : Int := if signed then -(2 ^ (w - 1) : Nat) else 0
  let hi : Int := if signed then (2 ^ (w - 1) : Nat) - 1 else (2 ^ w : Nat) - 1
  match v with
  | .nan => 0
  | .inf n => toBits w (if n then lo else hi)
  | .fin n m e => toBits w (max lo (min hi (roundInt rm n m e)))

/-- An integer as a datum. -/
def FVal.ofInt (x : Int) : FVal := .fin (decide (x < 0)) x.natAbs 0

/-! ### Rationals around a result: the ulp bounds of 02 Table 2-8 -/

/-- The unit in the last place of FP32 at magnitude `n/d` (d > 0): its exponent. -/
def ulpExp (n d : Nat) : Int :=
  let k : Int := (n.log2 : Int) - d.log2
  -- floor of log2 (n/d) is k or k − 1
  let below := if k ≥ 0 then decide (n < d * 2 ^ k.toNat) else decide (n * 2 ^ (-k).toNat < d)
  max ((if below then k - 1 else k) - 23) fmtF32.qmin

/-- FP32 code `r` lies within `t · 2^-k` units in the last place of the positive rational `n/d`. -/
def withinUlp (r n d t k : Nat) : Bool :=
  match fmtF32.decode r with
  | .fin neg m e =>
    let u := ulpExp n d - k
    let q := min e u
    let a : Int := m * 2 ^ (e - q).toNat
    let b : Int := t * 2 ^ (u - q).toNat
    let (x, y, z) : Int × Int × Int :=
      if q ≥ 0 then (a * 2 ^ q.toNat * d, n, b * 2 ^ q.toNat * d) else (a * d, n * 2 ^ (-q).toNat, b * d)
    !neg && decide ((x - y).natAbs ≤ z.natAbs)
  | _ => false

/-- The FP32 code nearest to the positive rational `n/d`. -/
def nearestQ (n d : Nat) : Nat :=
  let q := ulpExp n d
  -- 64 further bits of the quotient and a sticky bit
  let sh := q - 64
  let (num, den) := if sh ≥ 0 then (n, d * 2 ^ sh.toNat) else (n * 2 ^ (-sh).toNat, d)
  fmtF32.encode 0 false (.fin false (2 * (num / den) + (if num % den = 0 then 0 else 1)) (sh - 1))

/-- A result whose magnitude is `n/d`, within `t` ulp of it: the free value `x` where it is, else the nearest; the
overflow of the nearest value is infinity. `k` widens the bound by 2^-k of an ulp for an approximated `n/d`. -/
def ulpResult (x n d t k : Nat) : Nat :=
  let near := nearestQ n d
  if near ≥ fmtF32.infBits then fmtF32.infBits
  else if withinUlp (x % 2 ^ 31) n d (t * 2 ^ k + (if k = 0 then 0 else 1)) k then x % 2 ^ 31 else near

/-! ### Fixed-point functions: 2^64 units to 1 -/

def isqrtGo : Nat → Nat → Nat → Nat
  | 0, _, r => r
  | k + 1, n, r => if (r + 2 ^ k) * (r + 2 ^ k) ≤ n then isqrtGo k n (r + 2 ^ k) else isqrtGo k n r

/-- The whole square root, bit by bit. -/
def isqrt (n : Nat) : Nat := isqrtGo (n.log2 / 2 + 1) n 0

/-- The product of the square roots 2^(2^-j) over the 1 bits of the fraction. -/
def exp2Go : Nat → Nat → Nat → Nat → Nat
  | 0, _, _, acc => acc
  | k + 1, f, r, acc =>
    -- `r` is 2^(2^-j) in units of 2^-96 for the bit in hand
    let acc := if f / 2 ^ 63 % 2 = 1 then acc * r / 2 ^ 96 else acc
    exp2Go k (f * 2 % 2 ^ 64) (isqrt (r * 2 ^ 96)) acc

/-- 2^(f/2^64) in units of 2^-96. -/
def exp2Frac (f : Nat) : Nat := exp2Go 64 f (isqrt (2 * 2 ^ 192)) (2 ^ 96)

/-- Bit by bit: squaring doubles the logarithm. -/
def log2Go : Nat → Nat → Nat → Nat
  | 0, _, acc => acc
  | k + 1, x, acc =>
    let y := x * x / 2 ^ 96
    if y ≥ 2 ^ 97 then log2Go k (y / 2) (2 * acc + 1) else log2Go k y (2 * acc)

/-- log2 of `x / 2^96` in [1, 2), in units of 2^-64. -/
def log2Frac (x : Nat) : Nat := log2Go 64 x 0

/-- π in units of 2^-96. -/
def piFix : Nat := 0x3243F6A8885A308D313198A2E

/-- The Taylor series of the sine, term by term. -/
def sinGo : Nat → Int → Int → Int → Nat → Int
  | 0, _, _, acc, _ => acc
  | k + 1, x2, t, acc, i =>
    let t' := -(t * x2 / 2 ^ 96) / ((2 * i + 2) * (2 * i + 3) : Nat)
    sinGo k x2 t' (acc + t') (i + 1)

/-- The sine of `x` radians, in units of 2^-96, for |x| at most about 2π. -/
def sinFix (x : Int) : Int := sinGo 24 (x * x / 2 ^ 96) x x 0

/-- `m · 2^e` reduced to [−π, π], in units of 2^-96. -/
def reduceAngle (neg : Bool) (m : Nat) (e : Int) : Int :=
  let x : Int := if e + 96 ≥ 0 then m * 2 ^ (e + 96).toNat else m / 2 ^ (-(e + 96)).toNat
  let y := x % (2 * piFix : Nat)
  let z := if y > piFix then y - 2 * piFix else y
  if neg then -z else z

/-- FP32 code `r` is finite and lies within `t · 2^-96` of `v · 2^-96`. -/
def withinAbs (r : Nat) (v : Int) (t : Nat) : Bool :=
  match fmtF32.decode r with
  | .fin neg m e =>
    let s : Int := if neg then -(m : Int) else m
    -- compare at scale 2^-160
    if e < -160 then decide (v.natAbs ≤ t)
    else decide ((s * 2 ^ (e + 160).toNat - v * 2 ^ 64).natAbs ≤ t * 2 ^ 64)
  | _ => false

/-- The FP32 code nearest to `v · 2^-96`. -/
def nearestFix (v : Int) : Nat := fmtF32.encode 0 false (.fin (decide (v < 0)) v.natAbs (-96))

end Sys2Proof.Machine
end

