-- ==== Sys2Proof/Machine/Flags.lean ====
section
/-! DEFINITION. The value of every ALU instruction and every comparison for one lane (02 R83-R86, R583-R585). -/

namespace Sys2Proof.Machine

/-! ### TYPE (02 Table 2-7) -/

/-- The operand width of a TYPE in bits. -/
def tyWidth (t : Nat) : Nat := if t = 5 || t = 6 then 64 else 32
def tySigned (t : Nat) : Bool := t == 1 || t == 6
def tyPacked (t : Nat) : Bool := t == 3 || t == 4
def tyFloat (t : Nat) : Bool := t == 2 || t == 3 || t == 4
def tyFmt (t : Nat) : FFmt := if t = 2 then fmtF32 else if t = 3 then fmtF16 else fmtBF16

/-- The integer an operand stands for under a TYPE. -/
def tyInt (t x : Nat) : Int := if tySigned t then sext (tyWidth t) x else (x % 2 ^ tyWidth t : Nat)

/-! ### Integer instructions -/

def rotl (w x n : Nat) : Nat := ((x <<< (n % w)) ||| (x >>> (w - n % w))) % 2 ^ w

def brev : Nat → Nat → Nat
  | 0, _ => 0
  | w + 1, x => x % 2 * 2 ^ w + brev w (x / 2)

def clz (w x : Nat) : Nat := if x = 0 then w else w - 1 - x.log2

/-- BFX (02 R583). -/
def bfx (t a pos len : Nat) : Nat :=
  let w := tyWidth t
  if len = 0 then 0 else
  let f := (a % 2 ^ w) / 2 ^ pos % 2 ^ len
  let f := if tySigned t && f / 2 ^ (len - 1) % 2 = 1 && decide (len < w) then f + (2 ^ w - 2 ^ len) else f
  f % 2 ^ w

/-- BFI (02 R583). -/
def bfi (t a c pos len : Nat) : Nat :=
  let w := tyWidth t
  let m := ((2 ^ len - 1) * 2 ^ pos) % 2 ^ w
  let v := ((a % 2 ^ w % 2 ^ len) * 2 ^ pos) % 2 ^ w
  (c % 2 ^ w &&& (2 ^ w - 1 - m)) ||| v

/-- The value of an integer instruction by opcode (02 Table 2-8). -/
def intOp (opc t mod a b c : Nat) : Nat :=
  let w := tyWidth t
  let x := tyInt t a
  let y := tyInt t b
  match opc with
  | 0x02 => a
  | 0x04 => toBits w (x + y)
  | 0x05 => toBits w (x - y)
  | 0x06 => toBits w (x * y)
  | 0x07 => toBits w (x * y / (2 ^ w : Nat))
  | 0x08 => toBits w (x * y + tyInt t c)
  | 0x09 => toBits w (min x y)
  | 0x0A => toBits w (max x y)
  | 0x0C => a &&& b
  | 0x0D => a ||| b
  | 0x0E => a ^^^ b
  | 0x10 => (a * 2 ^ (b % w)) % 2 ^ w
  | 0x11 => if mod % 2 = 1 then toBits w (sext w a / (2 ^ (b % w) : Nat)) else a % 2 ^ w / 2 ^ (b % w)
  | 0x12 => rotl w (a % 2 ^ w) b
  | 0x13 => popcount w a
  | 0x14 => clz w (a % 2 ^ w)
  | 0x15 => brev w a
  | 0x16 => bfx t a (b % 256) (c % 256)
  | 0x17 => bfi t a c (b % 256) (b / 256 % 256)
  | _ => 0

/-! ### Floating-point instructions -/

/-- One element of FADD to FMAX (02 Table 2-7: rounding and operand modifiers). -/
def fpElem (opc mod : Nat) (f : FFmt) (a b c : Nat) : Nat :=
  let rm := mod % 4
  let va := f.decode a
  let va := if bitOf mod 5 then va.abs else va
  let va := if bitOf mod 2 then va.neg else va
  let vb := f.decode b
  let vb := if bitOf mod 3 then vb.neg else vb
  let vc := f.decode c
  let vc := if bitOf mod 4 then vc.neg else vc
  match opc with
  | 0x20 => f.encode rm false (va.add rm vb)
  | 0x21 => f.encode rm false (va.add rm vb.neg)
  | 0x22 => f.encode rm false (va.mul vb)
  | 0x23 => f.encode rm false ((va.mul vb).add rm vc)
  | 0x24 => f.encode rm false (va.pickMin false vb)
  | 0x25 => f.encode rm false (va.pickMin true vb)
  | _ => 0

/-- FADD to FMAX by TYPE: one FP32 element or two 16-bit ones. -/
def fpOp (opc t mod a b c : Nat) : Nat :=
  let f := tyFmt t
  if tyPacked t then
    fpElem opc mod f (a % 2 ^ 16) (b % 2 ^ 16) (c % 2 ^ 16)
      + 2 ^ 16 * fpElem opc mod f (a / 2 ^ 16 % 2 ^ 16) (b / 2 ^ 16 % 2 ^ 16) (c / 2 ^ 16 % 2 ^ 16)
  else fpElem opc mod f a b c

/-! ### Transcendentals: a free value within the stated error (02 Table 2-8) -/

def f32Sign (neg : Bool) (x : Nat) : Nat := if neg then x + 2 ^ 31 else x
def qnan32 : Nat := 0x7FC00000
def inf32 : Nat := 0x7F800000

def frcp (x a : Nat) : Nat :=
  match fmtF32.decode a with
  | .nan => qnan32
  | .inf n => f32Sign n 0
  | .fin n m e =>
    if m = 0 then f32Sign n inf32 else
    f32Sign n (if e ≥ 0 then ulpResult x 1 (m * 2 ^ e.toNat) 2 0 else ulpResult x (2 ^ (-e).toNat) m 2 0)

/-- The square root of `m · 2^e` as a rational `n/d` with 80 further bits. -/
def sqrtQ (m : Nat) (e : Int) : Nat × Nat :=
  let odd := e % 2
  let s := isqrt (m * 2 ^ (160 + odd.toNat))
  let h := (e - odd) / 2 - 80
  if h ≥ 0 then (s * 2 ^ h.toNat, 1) else (s, 2 ^ (-h).toNat)

def frsq (x a : Nat) : Nat :=
  match fmtF32.decode a with
  | .nan => qnan32
  | .inf n => if n then qnan32 else 0
  | .fin n m e =>
    if m = 0 then f32Sign n inf32 else
    if n then qnan32 else
    let (p, q) := sqrtQ m e
    ulpResult x q p 2 12

def fsqrt (x a : Nat) : Nat :=
  match fmtF32.decode a with
  | .nan => qnan32
  | .inf n => if n then qnan32 else inf32
  | .fin n m e =>
    if m = 0 then f32Sign n 0 else
    if n then qnan32 else
    let (p, q) := sqrtQ m e
    ulpResult x p q 1 12

def fexp2 (x a : Nat) : Nat :=
  match fmtF32.decode a with
  | .nan => qnan32
  | .inf n => if n then 0 else inf32
  | .fin n m e =>
    let v : Int := if e + 64 ≥ 0 then m * 2 ^ (min (e + 64).toNat 200) else m / 2 ^ (-(e + 64)).toNat
    let v := max (-(400 * 2 ^ 64)) (min (400 * 2 ^ 64) (if n then -v else v))
    let k := v / 2 ^ 64
    let p := exp2Frac (v % 2 ^ 64).toNat
    if k ≥ 0 then ulpResult x (p * 2 ^ k.toNat) (2 ^ 96) 2 12 else ulpResult x p (2 ^ (96 + (-k).toNat)) 2 12

def flog2 (x a : Nat) : Nat :=
  match fmtF32.decode a with
  | .nan => qnan32
  | .inf n => if n then qnan32 else inf32
  | .fin n m e =>
    if m = 0 then f32Sign true inf32 else
    if n then qnan32 else
    let v : Int := (e + m.log2) * 2 ^ 64 + log2Frac (m * 2 ^ 96 / 2 ^ m.log2)
    if v = 0 then 0 else f32Sign (decide (v < 0)) (ulpResult x v.natAbs (2 ^ 64) 2 12)

/-- FSIN, or FCOS where `cos`: within 2^-21 for |A| up to 2^15, a free value in [−1, 1] beyond. -/
def fsincos (cos : Bool) (x a : Nat) : Nat :=
  match fmtF32.decode a with
  | .nan => qnan32
  | .inf _ => qnan32
  | .fin n m e =>
    if a % 2 ^ 31 > 0x47000000 then pick (fun r => r % 2 ^ 31 ≤ 0x3F800000) (x % 2 ^ 32) 0 else
    let r := reduceAngle n m e
    let v := sinFix (if cos then r + piFix / 2 else r)
    pick (fun r => withinAbs r v (2 ^ 75 + 2 ^ 20)) (x % 2 ^ 32) (nearestFix v)

def transOp (opc x a : Nat) : Nat :=
  match opc with
  | 0x28 => frcp x a
  | 0x29 => frsq x a
  | 0x2A => fsqrt x a
  | 0x2B => fexp2 x a
  | 0x2C => flog2 x a
  | 0x2D => fsincos false x a
  | _ => fsincos true x a

/-! ### Comparison (02 Table 2-7) -/

/-- The order of two operands under a TYPE, none where unordered; packed TYPEs compare the low elements (02 R585). -/
def orderOf (t a b : Nat) : Option Ordering :=
  if tyFloat t then
    let n := if tyPacked t then 16 else 32
    FVal.cmp ((tyFmt t).decode (a % 2 ^ n)) ((tyFmt t).decode (b % 2 ^ n))
  else some (compare (tyInt t a) (tyInt t b))

/-- Condition code 0 to 13. -/
def condHolds (cond : Nat) (o : Option Ordering) : Bool :=
  match cond, o with
  | 6, o => o.isNone
  | 7, o => o.isSome
  | c, none => decide (8 ≤ c)
  | c, some o => match (if c ≥ 8 then c - 8 else c) with
    | 0 => o == .eq
    | 1 => o != .eq
    | 2 => o == .lt
    | 3 => o != .gt
    | 4 => o == .gt
    | _ => o != .lt

/-! ### Conversion (02 R584) -/

/-- An element converted between TYPEs. -/
def cvtElem (src dst rm : Nat) (sat : Bool) (x : Nat) : Nat :=
  if tyFloat src then
    let v := (tyFmt src).decode x
    if tyFloat dst then (tyFmt dst).encode rm sat v else v.toInt rm (tyWidth dst) (tySigned dst)
  else
    let v := tyInt src x
    if tyFloat dst then (tyFmt dst).encode rm sat (FVal.ofInt v)
    else
      let w := tyWidth dst
      let lo : Int := if tySigned dst then -(2 ^ (w - 1) : Nat) else 0
      let hi : Int := if tySigned dst then (2 ^ (w - 1) : Nat) - 1 else (2 ^ w : Nat) - 1
      toBits w (if sat then max lo (min hi v) else v)

/-- CVT, with packed TYPEs taken element by element. -/
def cvtOp (dst mod a : Nat) : Nat :=
  let src := fld mod 7 4
  let rm := mod % 4
  let sat := bitOf mod 2
  let lo := if tyPacked src then a % 2 ^ 16 else a
  let r := cvtElem src dst rm sat lo
  if tyPacked src && tyPacked dst then r + 2 ^ 16 * cvtElem src dst rm sat (a / 2 ^ 16 % 2 ^ 16) else r

/-- PLOP: bit 4A + 2B + C of the truth table. -/
def plopOp (mod a b c : Nat) : Nat := b2n (bitOf mod (4 * a + 2 * b + c))

end Sys2Proof.Machine
end

