-- ==== Sys2Proof/Config.lean ====
section
/-! DEFINITION. What one part or one run fixes and the manual leaves open: constants without a body, so that no proof can
see their values. -/

namespace Sys2Proof.Config

/-- A value the manual leaves open, by the number of its use (notes/assumptions/1.md). -/
opaque free : Nat → Nat

/-- Whether a cached translation of a context and page is still held when it is looked up (05 R193): the manual gives
the caches' sizes and no replacement rule (notes/assumptions/6.md). -/
opaque tlbHeld : Nat → Nat → Nat → Bool

/-- A byte of local store that no thread of the launch has written, by core, launch and offset (02 Table 2-1, R55). -/
opaque lsByte : Nat → Nat → Nat → Byte

/-- A byte of DRAM whose content is unpredictable (15 R496, 18 R562). -/
opaque dramByte : Nat → Byte

/-- The directory set of a line within its slice (04 R161 gives 4,096 sets and no index function). -/
opaque dirSet : Nat → Nat

/-- A block of an ETC2, EAC or ASTC texture decoded at a texel (11): the formats are Khronos standards outside the
manual. Arguments: format code, block bits, x and y in the block. Answer: four channels as FP32 words. -/
opaque texDecode : Nat → Nat → Nat → Nat → List Nat

/-- The linear value of an 8-bit sRGB code, in units of 2^-32 (11 R404 names the conversion and gives no formula). -/
opaque srgbLinear : Nat → Nat

/-- Whether a texel cache or a ray unit's structure cache still holds a line, by the number of the read: the manual gives
their sizes and no replacement rule (11 R405, 12 R413). -/
opaque lineHeld : Nat → Bool

/-- ML-DSA-65 verification (FIPS 204): key bytes, message bytes, signature bytes. -/
opaque mldsaVerify : List Byte → List Byte → List Byte → Bool

/-- ML-DSA-65 key generation from a seed: public key bytes. -/
opaque mldsaPublic : List Byte → List Byte

/-- ML-DSA-65 signature: seed, message, random input. -/
opaque mldsaSign : List Byte → List Byte → Nat → List Byte

/-- SHAKE256 (FIPS 202) of a message to the given number of bytes. -/
opaque shake256 : List Byte → Nat → List Byte

/-- Fused at manufacture (14 Table 14-9, 15 R502): the descriptor's units and the part's own values. -/
opaque fusedClusters : BitVec 64
opaque fusedCores : Nat → BitVec 16
opaque fusedSlices : BitVec 64
opaque fusedBanks : BitVec 16
opaque serial : BitVec 128
opaque rootHash : BitVec 256
opaque uds : BitVec 256
opaque certOtp : List Byte
opaque romVersion : Nat

/-- The product descriptor fails its fuse check code (15 Table 15-4). -/
opaque descBad : Bool

/-- The array supply fused for an operating point, in mV (17 Table 17-10). -/
opaque fusedMv : Nat → Nat

/-- The SVN fuse bits burnt and the keys revoked when the part first powers up (14 R490, R491). -/
opaque shippedSvn : BitVec 64
opaque shippedRevoked : BitVec 16

end Sys2Proof.Config
end

