-- ==== Sys2Proof/Machine/Tab.lean ====
section
/-! DEFINITION. Operations on sparse maps and on byte memory, each keeping the canonical form. -/

namespace Sys2Proof

/-- The entry of `t` at key `k`. -/
def Tab.get? {α : Type} : Tab α → Nat → Option α
  | [], _ => none
  | (j, a) :: r, k => if j = k then some a else Tab.get? r k

/-- The entry of `t` at key `k`, or `d` where none is listed. -/
def Tab.get {α : Type} (t : Tab α) (k : Nat) (d : α) : α := (Tab.get? t k).getD d

def Tab.has {α : Type} (t : Tab α) (k : Nat) : Bool := (Tab.get? t k).isSome

/-- `t` with `a` at key `k`. -/
def Tab.put {α : Type} : Tab α → Nat → α → Tab α
  | [], k, a => [(k, a)]
  | (j, b) :: r, k, a =>
    if k < j then (k, a) :: (j, b) :: r
    else if j = k then (k, a) :: r
    else (j, b) :: Tab.put r k a

/-- `t` without key `k`. -/
def Tab.del {α : Type} (t : Tab α) (k : Nat) : Tab α := t.filter (fun e => e.1 != k)

/-- `t` with the entry at `k` (or `d`) changed by `f`. -/
def Tab.upd {α : Type} (t : Tab α) (k : Nat) (d : α) (f : α → α) : Tab α :=
  Tab.put t k (f (Tab.get t k d))

/-- `t` with the entry at `k` changed by `f`, where one is listed. -/
def Tab.mod {α : Type} (t : Tab α) (k : Nat) (f : α → α) : Tab α :=
  t.map (fun e => if e.1 = k then (e.1, f e.2) else e)

/-- Every entry changed by `f`. -/
def Tab.mapv {α β : Type} (t : Tab α) (f : α → β) : Tab β := t.map (fun e => (e.1, f e.2))

/-- The entries whose key and value `p` accepts. -/
def Tab.keep {α : Type} (t : Tab α) (p : Nat → α → Bool) : Tab α := t.filter (fun e => p e.1 e.2)

/-- The lowest number not listed as a key. -/
def Tab.freshFrom {α : Type} (t : Tab α) : Nat := t.foldl (fun m e => max m (e.1 + 1)) 0

/-- The keys rise strictly. -/
def Tab.wf {α : Type} : Tab α → Bool
  | [] => true
  | [_] => true
  | (i, _) :: (j, b) :: r => decide (i < j) && Tab.wf ((j, b) :: r)

/-- The byte at an address; an unlisted byte reads as 0. -/
def Mem.read : Mem → Nat → Byte
  | [], _ => 0
  | (j, b) :: r, a => if j = a then b else Mem.read r a

/-- Memory with one byte written; writing 0 removes the entry. -/
def Mem.write : Mem → Nat → Byte → Mem
  | [], a, b => if b = 0 then [] else [(a, b)]
  | (j, c) :: r, a, b =>
    if a < j then (if b = 0 then (j, c) :: r else (a, b) :: (j, c) :: r)
    else if j = a then (if b = 0 then r else (a, b) :: r)
    else (j, c) :: Mem.write r a b

/-- `n` bytes from `a`. -/
def Mem.readN (m : Mem) (a n : Nat) : List Byte := (List.range n).map (fun i => Mem.read m (a + i))

/-- The bytes of `d` written from `a`. -/
def Mem.writeN (m : Mem) (a : Nat) : List Byte → Mem
  | [] => m
  | b :: r => Mem.writeN (Mem.write m a b) (a + 1) r

/-- The `n` bytes from `a` made to read as 0. -/
def Mem.zero (m : Mem) (a n : Nat) : Mem := m.filter (fun e => decide (e.1 < a) || decide (a + n ≤ e.1))

/-- Canonical form: addresses strictly rising and no listed byte 0. -/
def Mem.wf : Mem → Bool
  | [] => true
  | [(_, b)] => b != 0
  | (i, b) :: (j, c) :: r => b != 0 && decide (i < j) && Mem.wf ((j, c) :: r)

/-- The line of memory at a line-aligned address. -/
def Mem.line (m : Mem) (a : Nat) : Line := lineOf (Mem.readN m a 128)

/-- Memory with a whole line written. -/
def Mem.setLine (m : Mem) (a : Nat) (l : Line) : Mem := Mem.writeN m a (lineBytes l 0 128)

end Sys2Proof
end

