-- ==== Sys2Proof/Machine/CoreTypes.lean ====
section
/-! DEFINITION. The state of a core, its groups, strands and matrix engine (02 Table 2-1, 03 Table 3-1). -/

namespace Sys2Proof.Machine

/-- An entry of a group's divergence stack (02 R70). `joinPc` is none until the first path has parked. -/
structure DivEntry where
  tag : Nat
  resumePc : Nat
  resumeMask : Mask
  parked : Mask
  joinPc : Option Nat
  running : Bool
  deriving DecidableEq, Repr

/-- A resident thread group (02 R54). Registers are keyed `lane * 128 + r`, predicates `lane * 8 + p`; a register that
is not listed holds its initial value 0. `pixels` gives, in a pixel launch, each fragment lane's pixel; `held` the lanes
that hold their interlock and `released` those that have executed ILKE or exited (11 R396, R399). -/
structure Group where
  launch : Nat
  index : Nat
  regs : Tab Word
  preds : Tab Bool
  uni : Tab Word
  exited : Mask
  inRegion : Bool
  stack : List DivEntry
  slot : Option Nat
  watch : Nat
  pixels : Tab (Nat × Nat)
  held : Mask
  released : Mask
  deriving DecidableEq, Repr

/-- What a strand is doing.
`op word left done`: blocked in the instruction `word`; `left` names what has not yet been answered (operation numbers
for memory, lanes or group slots for the other units, as the instruction's scope says) and `done` holds the answers. -/
inductive Wait where
  | ready
  | join
  | gsync (mx : Bool)
  | slot
  | mxEnd
  | op (word : BitVec 64) (left : List Nat) (done : List (Nat × Nat))
  | fence (left : List Nat) (system : Bool)
  | backoff (word : BitVec 64) (won : Mask)
  deriving DecidableEq, Repr

/-- A strand: threads with one program counter (02 R58). `lanes` gives, for each lane that holds a thread, the group slot
of that thread. `pair` is the word of the preceding instruction where it carried PAIR = 1 (02 R76); `backoff` the a-cycles
of the lock back-off in force, 0 for none (02 R94). -/
structure Strand where
  pc : Nat
  lanes : Tab Nat
  wait : Wait
  pair : Option (BitVec 64)
  backoff : Nat
  deriving DecidableEq, Repr

/-- A line's coherence state in a purse (04 Table 4-8); an absent line is I. -/
inductive L1State where
  | s | e | m
  deriving DecidableEq, Repr

/-- A line of a purse's L1 part (04 R143, R162). -/
structure L1Line where
  st : L1State
  way : Nat
  data : Line
  poison : BitVec 16
  streaming : Bool
  attr : Nat
  deriving DecidableEq, Repr

/-- What one lane's memory operation does at its location. -/
inductive MemKind where
  | load
  | store (v : Nat)
  /-- An atomic of Table 4-12 by its OP code, with its operand and comparison value. -/
  | rmw (op : Nat) (signed : Bool) (a b : Nat)
  deriving DecidableEq, Repr

/-- An outstanding memory operation of a core. `atHome`: it is performed at the home slice (04 R163); otherwise in the
purse's L1. `rel`: it carries release ordering and waits for every earlier operation of the core. -/
structure MemOp where
  strand : Nat
  lane : Nat
  group : Nat
  kind : MemKind
  dva : Nat
  pa : Nat
  size : Nat
  attr : Nat
  ctx : Nat
  part : Nat
  launch : Nat
  gindex : Nat
  pc : Nat
  rel : Bool
  atHome : Bool
  deriving DecidableEq, Repr

/-- An outstanding miss of a purse. `granted`: the directory has granted it and its data is on the way. -/
structure Miss where
  write : Bool
  granted : Bool
  attr : Nat
  part : Nat
  deriving DecidableEq, Repr

/-- A message slot of a receive channel (06 R211). -/
structure Msg where
  payload : BitVec 64
  src : Nat
  deriving DecidableEq, Repr

/-- A receive channel: its queue, the credits granted to each sending core that are neither used nor returned, the
cores with a pending request, the core served last, and the strands blocked in a RECV on it in issue order (06 R211,
R215, R218). -/
structure Chan where
  queue : List Msg
  granted : Tab Nat
  pending : List Nat
  last : Nat
  recv : List Nat
  deriving DecidableEq, Repr

/-- An entry of a core's credit cache (06 R214). -/
structure Credit where
  dest : Nat
  chan : Nat
  credits : Nat
  requested : Bool
  deriving DecidableEq, Repr

/-- A fragment register of a matrix slot: its rows, scale rows, and its tag: format code, block-size bit and whether it
carries scales; none is the empty tag (03 Table 3-1). -/
structure Frag where
  rows : Tab (BitVec 512)
  scales : Tab (BitVec 128)
  tag : Option (Nat × Bool × Bool)
  deriving DecidableEq, Repr

/-- A matrix slot (03 R99): fragments F0 to F3, accumulators AC0 and AC1 (keyed `row * 32 + column`) and their tag
(true: INT32). -/
structure MxSlot where
  group : Option Nat
  frags : Tab Frag
  acc : Tab (Tab Word)
  accInt : Tab Bool
  deriving DecidableEq, Repr

/-- The target of a lane's access: local store, tile memory of a cluster, or a physical address with its attribute. -/
inductive Place where
  | ls (off : Nat)
  | tile (cluster off : Nat)
  | mem (pa attr : Nat)
  deriving DecidableEq, Repr

/-- Bytes of one lane's row: pieces in order, each with its place, length and address, or values taken from registers. -/
inductive MxRow where
  | memory (pieces : List (Place × Nat × Nat))
  | value (v : Nat)
  deriving DecidableEq, Repr

/-- An accepted matrix instruction (03 R136, R138): its number in acceptance order, its word, the slot and group it works
on, its active mask, its address for a fault record, and its lanes' rows and scale rows. -/
structure MxInsn where
  seq : Nat
  word : BitVec 64
  slot : Nat
  group : Nat
  mask : Mask
  pc : Nat
  rows : Tab MxRow
  scales : Tab MxRow
  deriving DecidableEq, Repr

/-- A compute core (02 R54). -/
structure Core where
  groups : Tab Group
  strands : Tab Strand
  nextStrand : Nat
  split : Nat
  lastPart : Option Nat
  /-- Local store bytes of each launch, keyed by launch; an unlisted byte is unpredictable, or 0 for a launch in `lsZero`,
  before whose first group the local store was zeroed (02 R55). -/
  ls : Tab (Tab Byte)
  lsZero : List Nat
  l1 : Tab L1Line
  l1rr : Tab Nat
  leaving : Tab L1Line
  misses : Tab Miss
  ops : Tab MemOp
  nextOp : Nat
  chans : Tab Chan
  credits : List Credit
  creditRR : Nat
  slots : Tab MxSlot
  slotWait : List Nat
  mxQueue : List MxInsn
  mxXfer : Option MxInsn
  mxMul : Option MxInsn
  stopped : Bool
  /-- The last instruction issued: its address, its group's index, whether in a matrix region, and CYCLE (16 R531). -/
  lastIssue : Option (Nat × Nat × Bool × Nat)
  deriving DecidableEq, Repr

end Sys2Proof.Machine
end

