-- ==== Sys2Proof/Machine/MemTypes.lean ====
section
/-! DEFINITION. The state of the vault, directory, memories, translation, mint and partitions (04, 05, 10). -/

namespace Sys2Proof.Machine

/-- A line held by a vault slice, in way `way` of its home set (04 R147). -/
structure VLine where
  way : Nat
  data : Line
  dirty : Bool
  streaming : Bool
  poison : BitVec 16
  deriving DecidableEq, Repr

/-- A directory entry's sharers (04 Table 4-8); a line without entry is in U. -/
inductive DirState where
  | sp (cores : List Nat)
  | sc (clusters : BitVec 64)
  | x (core : Nat)
  deriving DecidableEq, Repr

structure DirEnt where
  way : Nat
  st : DirState
  deriving DecidableEq, Repr

/-- A request at the directory: a read miss, a write miss or upgrade, or a memory operation performed at the slice. -/
inductive DirReq where
  | read (core : Nat)
  | write (core : Nat)
  | op (core id : Nat)
  deriving DecidableEq, Repr

/-- A transaction in progress (state B, 04 R163): the cores whose invalidation or forward has not been acknowledged, the
core whose write-back is awaited because its line was already leaving (R164), the data a former owner returned, and the
requests that wait behind it in arrival order. -/
structure Txn where
  req : DirReq
  inv : List Nat
  fwd : Option Nat
  wb : Option Nat
  data : Option (Line × BitVec 16)
  queue : List DirReq
  deriving DecidableEq, Repr

/-- A request merged into a miss register (04 R152): a grant to a purse, or an operation performed at the slice. -/
inductive Waiter where
  | grant (core : Nat) (st : L1State)
  | op (core id : Nat)
  deriving DecidableEq, Repr

structure MissReg where
  req : Nat
  attr : Nat
  waiters : List Waiter
  deriving DecidableEq, Repr

/-- A response on its way to a core: a line with its grant, or the answer of one operation. -/
structure Resp where
  core : Nat
  line : Nat
  grant : Option L1State
  data : Line
  poison : BitVec 16
  op : Option Nat
  value : Nat
  deriving DecidableEq, Repr

structure Prefetch where
  line : Nat
  req : Nat
  attr : Nat
  deriving DecidableEq, Repr

/-- Who runs a range maintenance operation: the registers of 04 R175 or a MAINT command of a ring. -/
inductive MaintWho where
  | regs
  | command (x : CmdId)
  deriving DecidableEq, Repr

structure MaintOp where
  who : MaintWho
  op : Nat
  ctx : Nat
  dva : Nat
  left : Nat
  req : Nat
  done : Nat
  conflicts : Nat
  deriving DecidableEq, Repr

/-- The vault, its directory and the memories behind it. Lines are keyed by physical line number, PA[47:7]. -/
structure MemSys where
  vault : Tab VLine
  vrr : Tab Nat
  missRegs : Tab MissReg
  prefetches : List Prefetch
  dir : Tab DirEnt
  dirRR : Tab Nat
  txns : Tab Txn
  resps : List Resp
  tile : Tab Mem
  dram : Mem
  dpoison : Tab (BitVec 16)
  host : Mem
  pinned : BitVec 16
  alloc : Tab (BitVec 17)
  errLog : Nat
  scrub : Tab Nat
  maints : List MaintOp
  maintAddr : Nat
  maintLen : Nat
  maintReq : Nat
  maintOp : Nat
  maintBusy : Bool
  maintXlat : Bool
  maintAborted : Bool
  maintConflicts : Nat
  maintDone : Nat
  /-- DRAM content is unpredictable: not initialised since power-up or the loss of a rail (15 R496, 18 R562). -/
  dramLost : Bool
  /-- The model's own field: the host lines (PA[47:7]) for which the host refuses requests (05 R192). -/
  refused : List Nat
  deriving DecidableEq, Repr

/-- The memory controllers' own state (17 R541, R550, Tables 17-6, 17-7): the recorded error, and for each channel the next
block to scrub, its finished sweeps, the blocks scrubbed in this epoch, and its next bank to refresh. -/
structure DramCtl where
  errValid : Bool
  errScrub : Bool
  errPa : Nat
  scrubBlk : Tab Nat
  sweeps : Tab Nat
  scrubbed : Tab Nat
  refBank : Tab Nat
  deriving DecidableEq, Repr

/-- A context descriptor (05 Table 5-2). -/
structure CtxDesc where
  valid : Bool
  part : Nat
  func : Nat
  root : Nat
  deriving DecidableEq, Repr

/-- A cached translation (05 R193). `level` is 0, 1 or 2 for a 4 KiB, 64 KiB or 2 MiB leaf, and 3, 4 or 5 for a walk-cache
entry of table level 1, 2 or 3; `tag` is the part of the DVA above the entry's span. -/
structure TlbEnt where
  ctx : Nat
  level : Nat
  tag : Nat
  entry : Nat
  deriving DecidableEq, Repr

/-- A fault record of a context (05 Table 5-7). -/
structure FaultRec where
  time : Nat
  req : Nat
  unit : Nat
  index : Nat
  level : Nat
  entryPa : Nat
  valid : Bool
  more : Bool
  access : Nat
  type : Nat
  dva : Nat
  deriving DecidableEq, Repr

/-- An invalidation in progress (05 R194): mode 0 range, 1 context, 2 all contexts, 3 all contexts of a function. -/
structure InvOp where
  mode : Nat
  ctx : Nat
  page : Nat
  pages : Nat
  regs : Bool
  cmd : Option CmdId
  deriving DecidableEq, Repr

structure Mmu where
  dramSize : Nat
  ctxs : Tab CtxDesc
  tlb : List TlbEnt
  recs : Tab FaultRec
  invs : List InvOp
  invCtx : Nat
  invPage : Nat
  invMode : Nat
  invPages : Nat
  invBusy : Bool
  deriving DecidableEq, Repr

/-- A loaded mint pool (05 Tables 5-9, 5-11). -/
structure Pool where
  valid : Bool
  users : Nat
  sizeLog2 : Nat
  tallyEn : Bool
  tally : Nat
  lowWater : Nat
  count : Nat
  ctx : Nat
  metaDva : Nat
  base : Nat
  cursor : Nat
  free : Nat
  minFree : Nat
  below : Bool
  exhausted : Bool
  deriving DecidableEq, Repr

/-- A mint call held or waiting: a kernel's MALLOC (its lanes) or MFREE (one lane's address), in arrival
order. `after`: the operations of the core that an MFREE's release covers. -/
structure MintReq where
  part : Nat
  pool : Nat
  core : Nat
  strand : Nat
  lanes : List Nat
  free : Option Nat
  after : List Nat
  deriving DecidableEq, Repr

structure Mint where
  pools : Tab Pool
  calls : List MintReq
  deriving DecidableEq, Repr

/-- A DRAM window of a partition (10 Table 10-6), in 2 MiB units. -/
structure Window where
  v : Bool
  w : Bool
  base : Nat
  size : Nat
  deriving DecidableEq, Repr

/-- The settings of a partition that change at a boundary (10 Tables 10-2, 10-4, 10-5, 10-6). -/
structure PartCfg where
  valid : Bool
  safety : Bool
  func : Nat
  weight : Nat
  runEpochs : Nat
  hardHost : Bool
  hardDram : Bool
  dramBudget : Nat
  hostBudget : Nat
  queryBudget : Nat
  ldgQuota : Nat
  deriving DecidableEq, Repr

/-- A partition (10 R354). `held` is HELD, `tallies` the TALLIES field; DRAM and host use count bytes. -/
structure Part where
  cfg : PartCfg
  held : BitVec 64
  wins : Tab Window
  applied : Nat
  dramUsed : Nat
  hostUsed : Nat
  queriesUsed : Nat
  dramPrev : Nat
  hostPrev : Nat
  queriesPrev : Nat
  drainK : Nat
  tallies : Nat
  pendCfg : Option PartCfg
  pendWins : Tab Window
  joins : BitVec 64
  deriving DecidableEq, Repr

/-- A reserve cluster (10 Table 10-9). `hotState`: 0 EMPTY, 1 LOADING, 2 READY. Its image is the `bytes` bytes at `dva` of
context `ctx`; `suspended`: the holder it has been removed from while a reset's reload runs (10 R360). -/
structure Reserve where
  cluster : Nat
  holder : Option Nat
  hotUnits : Nat
  hotState : Nat
  image : Nat
  ctx : Nat
  dva : Nat
  bytes : Nat
  suspended : Option Nat
  deriving DecidableEq, Repr

/-- How far the move of a cluster has come (10 R356). -/
inductive MovePhase where
  | draining | zeroing | joining
  deriving DecidableEq, Repr

/-- A cluster on its way from one holder to another (10 R356, R359), `waited` k-cycles of its drain ago; `loan` is the reserve
slot it belongs to. -/
structure Move where
  src : Option Nat
  dst : Option Nat
  phase : MovePhase
  waited : Nat
  loan : Option Nat
  deriving DecidableEq, Repr

/-- A job fault on its way to the management plane (10 Table 10-14). -/
structure JobFault where
  code : Nat
  unit : Nat
  index : Nat
  part : Nat
  func : Nat
  ctx : Nat
  pc : Nat
  group : Nat
  addr : Nat
  deriving DecidableEq, Repr

end Sys2Proof.Machine
end

