-- ==== Sys2Proof/Machine/WorkTypes.lean ====
section
/-! DEFINITION. The state of tallies, rings, functions and their interrupts (06, 07, 10 R367-R376). -/

namespace Sys2Proof.Machine

/-- A tally (06 Tables 6-10, 6-11); WAITING is whether a waiter names it. -/
structure Tally where
  value : BitVec 64
  lost : Bool
  stale : Bool
  owner : Option Nat
  resetGen : Nat
  lastSrc : Nat
  /-- a SET or ADD performed in this epoch changed VALUE (15 R508) -/
  moved : Bool
  deriving DecidableEq, Repr

/-- Who waits on a tally: a group of a strand, a WAIT node of an activation, an armed order, or a WAIT command. -/
inductive TallyWho where
  | core (core strand group : Nat)
  | trigger (order : Nat)
  | node (order seq : Nat)
  | command (x : CmdId)
  deriving DecidableEq, Repr

structure TallyWaiter where
  who : TallyWho
  tally : Nat
  target : BitVec 64
  deriving DecidableEq, Repr

/-- A wake on its way: who, and whether the condition was met. -/
structure Wake where
  who : TallyWho
  met : Bool
  deriving DecidableEq, Repr

/-- A source of tally operations (06 R223). -/
inductive TallySrc where
  | core (i : Nat)
  | teller (c : Nat)
  | frontEnd
  | ingest (port : Nat)
  | mint
  | ledger
  | composition (e : Nat)
  | window (f : Nat)
  | firmware
  deriving DecidableEq, Repr

inductive TallyAct where
  | set (v : BitVec 64)
  | add (v : BitVec 64)
  | rearm (v : BitVec 64)
  | wait (target : BitVec 64)
  | read (status : Bool)
  deriving DecidableEq, Repr

/-- Whom a tally operation answers: the group or lane `key` of a strand, a SIGNAL node, or nobody. -/
inductive TallyAnswer where
  | strand (core strand key : Nat)
  | node (order seq node : Nat)
  | none
  deriving DecidableEq, Repr

/-- A tally operation on its way to the block. `after`: the memory operations of the issuing core that its release
covers and that must have been performed first (06 R225). -/
structure TallyOp where
  src : TallySrc
  part : Nat
  tally : Nat
  act : TallyAct
  answer : TallyAnswer
  after : List Nat
  deriving DecidableEq, Repr

structure TallyBlock where
  tallies : Tab Tally
  waiters : List TallyWaiter
  wakes : List Wake
  ops : List TallyOp
  deriving DecidableEq, Repr

/-- A credit request, a grant, a message or returned credits on the way between cores (06 R214, R215). -/
inductive GridMsg where
  | request (src dest chan : Nat)
  | grant (src dest chan n : Nat)
  | message (src dest chan : Nat) (payload : BitVec 64)
  | giveBack (src dest chan n : Nat)
  deriving DecidableEq, Repr

/-- A BATCH being executed: address, commands, and the next to start (07 R272). -/
structure BatchSt where
  addr : Nat
  count : Nat
  next : Nat
  deriving DecidableEq, Repr

/-- The progress of a command: fetched; started; taken up by its unit and not yet done; or with its effects performed and
its completion actions to come. -/
inductive CmdPhase where
  | fetched | started | running | performed
  deriving DecidableEq, Repr

/-- A command held by the front end (07 R252). `ctx` is none when its tag did not resolve. -/
structure Cmd where
  count : Nat
  inner : Nat
  raw : BitVec 512
  ctx : Option Nat
  part : Nat
  bad : Bool
  phase : CmdPhase
  status : Nat
  detail : Nat
  epochs : Nat
  batch : Option BatchSt
  discarded : Bool
  deriving DecidableEq, Repr

/-- A ring's state. `zeroing`: a device-written ring whose memory is being zeroed; `active` reads as IDLE, RUNNING or
WAITING by its work (07 Table 7-12). -/
inductive RingSt where
  | disabled | zeroing | active | draining | error | lost
  deriving DecidableEq, Repr

structure Ring where
  ctx : Nat
  base : Nat
  en : Bool
  kind : Bool
  dbTally : Nat
  weight : Nat
  log2n : Nat
  head : Nat
  tail : Nat
  done : Nat
  st : RingSt
  err : Nat
  notOk : Bool
  cmds : List Cmd
  /-- A slot read has been issued (07 R588). -/
  slotIssued : Bool
  /-- The slot at HEAD was last read as zero; read again after DBTALLY's next SET or ADD. -/
  slotEmpty : Bool
  deriving DecidableEq, Repr

/-- An MSI-X vector: its table entry and its moderation (10 R368, R369). `sent`: an event of this epoch sent a message. -/
structure Vector where
  addr : Nat
  data : Nat
  masked : Bool
  pending : Bool
  mode : Nat
  thresh : Nat
  events : Nat
  sent : Bool
  deriving DecidableEq, Repr

/-- An Ohmask mailbox (14 R460). -/
structure Mbx where
  req : Tab Nat
  rsp : Tab Nat
  busy : Bool
  done : Bool
  noticeLost : Bool
  lastSeq : Nat
  doneEn : Bool
  noticeEn : Bool
  vec : Nat
  head : Nat
  tail : Nat
  notices : Tab (List Byte)
  deriving DecidableEq, Repr

/-- PC sampling of a function (16 Table 16-11). -/
structure Pcs where
  en : Bool
  part : Nat
  ctx : Nat
  periodLog2 : Nat
  sizeLog2 : Nat
  base : Nat
  head : Nat
  tail : Nat
  deriving DecidableEq, Repr

/-- A function-level reset in progress (10 R376): k-cycles since it arrived, and the function it arrived at; 16 where VF Enable
was cleared (R378). -/
structure Flr where
  waited : Nat
  lead : Nat
  deriving DecidableEq, Repr

/-- A PCIe function (07 R243, 10 R367, 17 R536). -/
structure Func where
  tagBase : Nat
  tagCount : Nat
  winCtx : Nat
  winBase : Nat
  rings : Tab Ring
  vecs : Tab Vector
  eventVec : Nat
  mbx : Mbx
  pcs : Pcs
  audUser : Bool
  flr : Option Flr
  bme : Bool
  msixEn : Bool
  msixMask : Bool
  d3hot : Bool
  deriving DecidableEq, Repr

/-- Something the device sends to the outside, in order: the model's own log of its outputs. -/
inductive Sent where
  | msix (f v : Nat) (addr data : Nat)
  | readData (f : Nat) (data : List Byte) (ep : Bool)
  | readUr (f : Nat)
  | smbus (bytes : List Byte)
  | smbusNack
  | dsi (e : Nat) (bytes : List Byte)
  | line (e y : Nat) (pixels : List Nat)
  | aer (fatal : Bool)
  | counter (f value : Nat)
  | tdo (value : Nat)
  /-- an output of a part with a rail out of range: unpredictable (18 R562) -/
  | wild (x : Nat)
  deriving DecidableEq, Repr

/-- A generation held by an escrow slot (08 R297). -/
structure Escrow where
  gen : Nat
  refs : Nat
  block : BitVec 512
  deriving DecidableEq, Repr

/-- A queued start request (08 R293): by SO_RUN, or by the trigger. -/
structure StartReq where
  stamp : Nat
  cmd : Option CmdId
  reqGen : Option Nat
  triggered : Bool
  skipped : Nat
  deriving DecidableEq, Repr

/-- An order's arming (08 R307). -/
structure Arming where
  trigger : Nat
  first : Nat
  step : Nat
  count : Nat
  latest : Bool
  k : Nat
  starts : Nat
  deriving DecidableEq, Repr

/-- A node of an activation: not started (absent), running, or complete. -/
inductive NodeSt where
  | running | complete
  deriving DecidableEq, Repr

/-- A running activation (08 R293-R311). `wait` is the registered WAIT node with the boundaries since registration;
`abort` the REASON once it is ending ABORTED; `cancels` the SO_CANCEL commands that target it, the first accepted first. -/
structure Activation where
  seq : Nat
  stamp : Nat
  slot : Nat
  gen : Nat
  params : BitVec 512
  nodes : Tab NodeSt
  wait : Option (Nat × Nat)
  abort : Option Nat
  cmd : Option CmdId
  cancels : List CmdId
  skipped : Nat
  silent : Bool
  deriving DecidableEq, Repr

/-- A standing order installed at its home teller (08 R283-R302). `leaving`: its cluster is being moved, and the order
is removed when its last activation ends (10 R356). -/
structure Order where
  part : Nat
  ctx : Nat
  log : Nat
  log2n : Nat
  done : Nat
  doneEn : Bool
  dsys : Bool
  stampEn : Bool
  depth : Nat
  nodes : List (BitVec 256)
  draft : BitVec 512
  slots : Tab Escrow
  cur : Nat
  seq : Nat
  queue : List StartReq
  arm : Option Arming
  acts : List Activation
  leaving : Bool
  deriving DecidableEq, Repr

/-- Where a launch comes from: a LAUNCH node, or a render pass's shading of a tile (11 R395). -/
inductive LaunchFrom where
  | node (order seq node : Nat)
  | pixel (part core draw : Nat)
  deriving DecidableEq, Repr

/-- A launch in progress (02 Table 2-2, 08 R290, R291). `next` is the next group to hand out; `live` the groups resident. -/
structure Launch where
  part : Nat
  ctx : Nat
  from_ : LaunchFrom
  entry : Nat
  regs : Nat
  lsGroup : Nat
  split : Nat
  maxg : Nat
  threads : Nat
  params : BitVec 512
  targets : BitVec 64
  groups : Nat
  next : Nat
  live : Nat
  epochs : Nat
  deriving DecidableEq, Repr

end Sys2Proof.Machine
end

