-- ==== Sys2Proof/Machine/LedgerTypes.lean ====
section
/-! DEFINITION. The state of the context ledger (09). -/

namespace Sys2Proof.Machine

/-- An entry's STATE (09 Table 9-1); an entry that is not listed is FREE. -/
inductive LState where
  | reserved | valid | migrating | retired | broken
  deriving DecidableEq, Repr

/-- A ledger entry that is not FREE (09 Table 9-1). `serial` numbers commits: it tells an entry from a later one in its
place (the model's own). -/
structure LEntry where
  sketch : BitVec 128
  addr : Nat
  tier : Nat
  st : LState
  minted : Bool
  pool : Nat
  stream : Nat
  block : Nat
  lastUse : Nat
  hits : Nat
  leases : Nat
  serial : Nat
  deriving DecidableEq, Repr

/-- A created stream (09 Table 9-3). `drop` is the command that drops it. -/
structure LStream where
  part : Nat
  ctx : Nat
  set : Nat
  sizeLog2 : Nat
  splitEn : Bool
  splitPart : Nat
  splitLog2 : Nat
  quota : Nat
  highBlock : Nat
  broken : Bool
  dropping : Bool
  deriving DecidableEq, Repr

/-- An entry that a query has scored: its place, commit, block, stream and score. -/
structure LScored where
  idx : Nat
  serial : Nat
  block : Nat
  stream : Nat
  score : Nat
  deriving DecidableEq, Repr

/-- An item of a query's selection (09 Table 9-11). `lines` are those requested by its prefetch; `skipped`: it is reported
not prefetched. -/
structure LItem where
  idx : Nat
  block : Nat
  stream : Nat
  score : Nat
  tier : Nat
  addr : Nat
  leased : Bool
  lines : List Nat
  skipped : Bool
  deriving DecidableEq, Repr

/-- How far a query has come (09 R330-R336): accepted, joined to the sweep, swept with its leases taken, or complete. -/
inductive QueryPhase where
  | waiting | joined | swept | complete
  deriving DecidableEq, Repr

/-- A held query slot (09 R333). `seen`: the entries eligible as it joined; `scanned`, `partial_`, `time`: of its sweep's
end; `beyond`: accepted beyond its partition's budget in this epoch. -/
structure LQuery where
  part : Nat
  ctx : Nat
  desc : BitVec 512
  order : Nat
  beyond : Bool
  phase : QueryPhase
  seen : List LScored
  items : List LItem
  scanned : Nat
  partial_ : Bool
  time : Nat
  deriving DecidableEq, Repr

/-- A migration (09 R343): the new storage while it copies; after the switch the old storage and the slots that hold
leases from before it. -/
structure LMigration where
  cmd : CmdId
  part : Nat
  ctx : Nat
  idx : Nat
  size : Nat
  addr : Nat
  tier : Nat
  minted : Bool
  pool : Nat
  switched : Bool
  slots : List Nat
  old : Nat
  deriving DecidableEq, Repr

/-- A command that waits for entries to become FREE (09 R323, R342), with its DETAIL; `drop` names the stream to remove. -/
structure LEvictCmd where
  cmd : CmdId
  left : List Nat
  count : Nat
  drop : Option Nat
  deriving DecidableEq, Repr

/-- The context ledger. `rot` is the bank that the next FREE entry is taken from, `serial` the next commit, `order` the next
query's place in acceptance order, `scrub` each bank's next row. -/
structure Ledger where
  entries : Tab LEntry
  streams : Tab LStream
  queries : Tab LQuery
  migrations : List LMigration
  evicts : List LEvictCmd
  rot : Nat
  serial : Nat
  order : Nat
  scrub : Tab Nat
  deriving DecidableEq, Repr

end Sys2Proof.Machine
end

