-- ==== Sys2Proof/Machine/DisplayTypes.lean ====
section
/-! DEFINITION. The state of sensor ingest and display composition (13). -/

namespace Sys2Proof.Machine

/-- The configuration of an enabled stream: its descriptor (13 Table 13-5) with the command's context and partition. -/
structure IngCfg where
  desc : BitVec 512
  ctx : Nat
  part : Nat
  deriving DecidableEq, Repr

/-- An accepted ING_CONFIG that waits for a Frame Start at which it can take effect; none disables the stream (R434). -/
structure IngPend where
  cmd : CmdId
  cfg : Option IngCfg
  deriving DecidableEq, Repr

/-- A frame in progress (R435-R439). `written` is false for a dropped frame; `y` counts its long packets, `lines` the lines
written, `rows` holds the samples of the lines of the current block row of an SFD frame. -/
structure InFrame where
  index : Nat
  num : Nat
  start : Nat
  written : Bool
  y : Nat
  lines : Nat
  crcErrs : Nat
  widthErr : Bool
  hdrLost : Bool
  long : Bool
  rows : Tab (List Nat)
  boundaries : Nat
  deriving DecidableEq, Repr

/-- A stream of a port (13 Table 13-7). -/
structure IngStream where
  cfg : Option IngCfg
  pend : List IngPend
  delivered : Nat
  frames : Nat
  dropFull : Nat
  dropOther : Nat
  frame : Option InFrame
  deriving DecidableEq, Repr

/-- A CSI-2 port (13 Table 13-2). -/
structure IngPort where
  up : Bool
  bound : Option Nat
  phy : Bool
  width : Nat
  rate : Nat
  streams : Tab IngStream
  deriving DecidableEq, Repr

/-- A committed layer (13 Table 13-8). `fillHold`: it shows FILL since a data-plane reset began until a commit replaces it;
`fillNow`: a source read failed in this refresh (R446). -/
structure Layer where
  desc : BitVec 512
  ctx : Nat
  part : Nat
  fillHold : Bool
  fillNow : Bool
  deriving DecidableEq, Repr

/-- An accepted CMP_COMMIT that waits for its latch (R445). -/
structure Commit where
  cmd : CmdId
  layers : Tab Layer
  deriving DecidableEq, Repr

/-- A scaler coefficient set (R449): h at 8p + k, v at 4p + k. -/
structure Coefs where
  h : List Int
  v : List Int
  deriving DecidableEq, Repr

structure CoefLoad where
  cmd : CmdId
  set : Nat
  coefs : Coefs
  deriving DecidableEq, Repr

/-- A CMP_STRONG that waits for its latch: its body; `content` is what the
inactive bank takes, and `crc` its CRC (R451). -/
structure StrongLoad where
  cmd : CmdId
  body : BitVec 512
  content : Mem
  crc : Nat
  deriving DecidableEq, Repr

/-- A composition engine (13 Tables 13-13, 13-14). `line` is the next output line of the refresh; `scanning`: a refresh has
begun and not ended; `ahead` holds output lines composed at the latch and not yet output. `te`: a tearing-effect edge has
asked for a refresh. `strong` is the body of the strongroom layer shown; `failShown`: this refresh shows FAIL in its place;
`checked`: its check of this refresh has been made (R453). -/
structure Engine where
  mode : BitVec 256
  running : Bool
  starting : Bool
  stopping : Bool
  refresh : Nat
  underrun : Nat
  scanning : Bool
  latched : Bool
  line : Nat
  ahead : Tab (List Nat)
  bound : Tab Nat
  layers : Tab Layer
  commits : List Commit
  coefs : Tab Coefs
  coefPend : List CoefLoad
  strong : Option (BitVec 512)
  strongFail : Bool
  failShown : Bool
  checked : Bool
  te : Bool
  strongBank : Nat
  banks : Tab Mem
  strongPend : List StrongLoad
  deriving DecidableEq, Repr

end Sys2Proof.Machine
end

