-- ==== Sys2Proof/Machine/MgmtTypes.lean ====
section
/-! DEFINITION. The state of the management plane: clocks and power, mailboxes, firmware, bring-up, pins and board buses
(01, 14, 15, 17, 18). -/

namespace Sys2Proof.Machine

/-- MGT_CLOCK_STATUS (01 Table 1-10) but for A_POINT; `locks` and `lost` are bits 0 to 5 in the order of its lock bits:
array, system, memory, PCIe, display 0, display 1. `lost`: the PLL lost lock and has not locked again (15 R497). -/
structure Clocks where
  aNext : Nat
  switching : Bool
  locks : BitVec 6
  lost : BitVec 6
  deriving DecidableEq, Repr

/-- What policy knows of an ended epoch: the point it ran at, T in 1/16 °C as a sum over `tn` samples, and P in mW. -/
structure EpochStat where
  point : Nat
  tsum : Int
  tn : Nat
  mw : Nat
  deriving DecidableEq, Repr

/-- Thermal and power policy, its sensors and the array regulator (17 R553, 18 R569-R574). `hot` counts each sensor's
consecutive samples at 115 °C or more; `avsMv` is the voltage written last, `avsRead` the last voltage read back, `avsAt` the
last one read back 100 µs before the boundary to come or earlier. `why` is what policy last lowered the ceiling for (1
temperature, 2 power), `lowered` that it did so at the boundary just passed. -/
structure Power where
  pointReq : Nat
  ceiling : Nat
  limit : Nat
  limitNext : Option Nat
  hist : List EpochStat
  sensors : List Int
  hot : Tab Nat
  tsum : Int
  tn : Nat
  lastMw : Nat
  lastTemp : Int
  lastEpoch : Nat
  avsMv : Nat
  avsRead : Option Nat
  avsAt : Option Nat
  avsFails : Nat
  why : Nat
  lowered : Bool
  deriving DecidableEq, Repr

/-- The bring-up state codes (15 Table 15-2). -/
inductive Bring where
  | romStart | awaitFw | verify | memTrain | memInit | selfTest | topology | ready | notReady | recovering
  deriving DecidableEq, Repr

/-- Bring-up and the floor-plan report (15 R498-R503). `powered` and `held` say whether the rails are up and PERST_N (or
the start of a reset) holds the part; `wild`: a rail has left its range (18 R562). -/
structure BringUp where
  st : Bring
  powered : Bool
  held : Bool
  wild : Bool
  mismatch : Nat
  control : Nat
  readyTime : Nat
  reported : Bool
  fitted : Nat
  deriving DecidableEq, Repr

/-- MGT_CHIP_FAULT and MGT_CHIP_FAULT_TIME (15 Table 15-6). -/
structure ChipFault where
  valid : Bool
  fatal : Bool
  count : Nat
  detail : Nat
  cause : Nat
  time : Nat
  deriving DecidableEq, Repr

/-- MGT_HEARTBEAT (15 Table 15-8); `driven`: reset has been released, so the pin is driven. -/
structure Heartbeat where
  lock : Bool
  en : Bool
  level : Bool
  feedTally : Nat
  missed : Nat
  driven : Bool
  deriving DecidableEq, Repr

/-- The GPIO registers (17 Table 17-12); `pins` are the levels driven from outside. -/
structure Gpio where
  dir : BitVec 16
  out : BitVec 16
  pins : BitVec 16
  irqEn : Bool
  vec : Nat
  edgeEn : BitVec 16
  cap : BitVec 16
  deriving DecidableEq, Repr

/-- The instruction of the TAP (17 R555). -/
inductive TapInsn where
  | bypass | idcode | samplePreload | extest | extestPulse | extestTrain | highz | clamp
  deriving DecidableEq, Repr

/-- A mailbox request that firmware has copied and not answered (14 R462-R464). `accepted`: its checks have passed and it
waits, `waited` k-cycles so far; `phase` is how far it has come; `live`: its response will be written (14 R467). -/
structure MbxReq where
  fn : Nat
  bytes : List Byte
  accepted : Bool
  phase : Nat
  waited : Nat
  live : Bool
  deriving DecidableEq, Repr

/-- The security state of firmware (14 R483-R494): the image being loaded, the header of the running image, and the response
in the DOE mailbox; `aliasRnd` is the random input of the alias certificate's signature; `dead`: a fatal fault of the control complex leaves the mailboxes unserved (15 R504). -/
structure Firmware where
  image : List Byte
  dead : Bool
  header : Option (BitVec 1024)
  doe : Option (List Byte)
  aliasRnd : Nat
  deriving DecidableEq, Repr

/-- Everything the management plane holds. `numVfs` and `vfEnable` are the SR-IOV controls (17 R535); `pciFatal` the
uncorrectable internal errors reported, `poisonTlps` the poisoned TLPs logged (17 R537, R538). -/
structure Mgmt where
  clk : Clocks
  pow : Power
  bring : BringUp
  chip : ChipFault
  faultN : Bool
  thermTrip : Bool
  hb : Heartbeat
  gpio : Gpio
  smbAddr : Bool
  tap : TapInsn
  tapReset : Bool
  reqs : List MbxReq
  fw : Firmware
  numVfs : Nat
  vfEnable : Bool
  pciFatal : Nat
  poisonTlps : Nat
  deriving DecidableEq, Repr

end Sys2Proof.Machine
end

