-- ==== Sys2Proof/Machine/Frac.lean ====
section
/-! DEFINITION. Exact fractions, and their one rounding to a floating-point format (00 R13, 11 R385, R404). -/

namespace Sys2Proof.Machine

/-- A fraction in lowest terms. -/
structure Q where
  n : Int
  d : Nat
  deriving DecidableEq, Repr

/-- `n / d` in lowest terms; 0 where `d` is 0. -/
def mkQ (n : Int) (d : Nat) : Q :=
  if d = 0 then { n := 0, d := 1 } else
  let g := Nat.gcd n.natAbs d
  { n := n / (g : Int), d := d / g }

def qInt (n : Int) : Q := { n := n, d := 1 }
def qNat (n : Nat) : Q := { n := n, d := 1 }

def Q.add (a b : Q) : Q := mkQ (a.n * b.d + b.n * a.d) (a.d * b.d)
def Q.neg (a : Q) : Q := { a with n := -a.n }
def Q.sub (a b : Q) : Q := Q.add a (Q.neg b)
def Q.mul (a b : Q) : Q := mkQ (a.n * b.n) (a.d * b.d)

/-- The quotient; 0 where `b` is 0. -/
def Q.div (a b : Q) : Q := mkQ (if b.n < 0 then -(a.n * b.d) else a.n * b.d) (a.d * b.n.natAbs)

def Q.lt (a b : Q) : Bool := decide (a.n * b.d < b.n * a.d)
def Q.le (a b : Q) : Bool := decide (a.n * b.d ≤ b.n * a.d)
def Q.max (a b : Q) : Q := if Q.le a b then b else a
def Q.min (a b : Q) : Q := if Q.le a b then a else b
def Q.floor (a : Q) : Int := a.n / (a.d : Int)
def Q.isNeg (a : Q) : Bool := decide (a.n < 0)
def Q.isZero (a : Q) : Bool := decide (a.n = 0)

/-- The nearest whole number, ties to even. -/
def Q.roundEven (a : Q) : Int :=
  let k := a.floor
  let r := 2 * (a.n - k * a.d)
  if r > a.d || (r = a.d && k % 2 != 0) then k + 1 else k

/-- The nearest whole number, ties away from zero. -/
def Q.roundAway (a : Q) : Int :=
  let k : Int := ((2 * a.n.natAbs + a.d) / (2 * a.d) : Nat)
  if a.n < 0 then -k else k

/-- The exact value of a finite datum. -/
def FVal.toQ : FVal → Q
  | .fin neg m e =>
    let m : Int := if neg then -(m : Int) else m
    if e ≥ 0 then qInt (m * 2 ^ e.toNat) else mkQ m (2 ^ (-e).toNat)
  | _ => qInt 0

def FVal.isFin : FVal → Bool
  | .fin .. => true
  | _ => false

/-- A fraction rounded once to nearest even: 70 bits of the quotient and a sticky bit decide. -/
def FFmt.ofQ (f : FFmt) (a : Q) : Nat :=
  let m := a.n.natAbs
  let k : Int := (m.log2 : Int) - a.d.log2 - 70
  let (num, den) := if k ≥ 0 then (m, a.d * 2 ^ k.toNat) else (m * 2 ^ (-k).toNat, a.d)
  f.encode 0 false (.fin (decide (a.n < 0)) (2 * (num / den) + (if num % den = 0 then 0 else 1)) (k - 1))

/-- The FP32 code of a fraction, and the value of an FP32 code. -/
def f32OfQ (a : Q) : Nat := fmtF32.ofQ a
def qOfF32 (x : Nat) : Q := (fmtF32.decode x).toQ

end Sys2Proof.Machine
end

