-- ==== Sys2Proof/Machine/RayTypes.lean ====
section
/-! DEFINITION. The state of the ray traversal units (12). -/

namespace Sys2Proof.Machine

/-- A line that a ray is still to visit: a node with its depth, or a leaf with its reference; `lo` and `hi` are the corners of
the box that leads to it, `near` the t at which the ray enters that box. -/
structure RayItem where
  ref : Nat
  depth : Nat
  lo : List Q
  hi : List Q
  near : Q
  deriving DecidableEq, Repr

/-- A hit (12 Table 12-7). -/
structure RayHit where
  t : Q
  inside : Bool
  status : Nat
  u : Nat
  v : Nat
  prim : Nat
  leaf : Nat
  user : Nat
  back : Bool
  vstate : Nat
  face : Nat
  deriving DecidableEq, Repr

/-- A ray held by a unit (12 R419-R423). `thread`: the launch, the group's index and the lane; `before`: the record's bytes as
the ray was accepted; `done`: its result stands. -/
structure Ray where
  core : Nat
  launch : Nat
  gindex : Nat
  lane : Nat
  sub : Nat
  part : Nat
  ctx : Nat
  words : List Nat
  off : Nat
  before : List Byte
  items : List RayItem
  fetches : Nat
  invalid : Bool
  hit : Option RayHit
  done : Bool
  stuck : Bool
  deriving DecidableEq, Repr

/-- A line of a structure cache with the timestamp of its fill (12 R413). -/
structure RayLine where
  data : Line
  filled : Nat
  deriving DecidableEq, Repr

/-- The ray units: rays of all clusters in acceptance order; by cluster, the structure cache (keyed by context and line) and
the queries completed. -/
structure RayUnits where
  rays : List Ray
  cache : Tab (Tab RayLine)
  completed : Tab Nat
  deriving DecidableEq, Repr

end Sys2Proof.Machine
end

