-- ==== Sys2Proof/Machine/RenderTypes.lean ====
section
/-! DEFINITION. The state of render passes, their tiles and fragments (11). -/

namespace Sys2Proof.Machine

/-- A pixel of a quad after coverage, depth test and texturing (11 R395, R396, R401): its input record of 64 bytes, and
whether it is a fragment; a pixel that is none starts exited. -/
structure Fragment where
  x : Nat
  y : Nat
  live : Bool
  record : BitVec 512
  deriving DecidableEq, Repr

/-- A quad with a fragment: its position, the draw it belongs to, and its pixels in lane order. -/
structure Quad where
  x : Nat
  y : Nat
  draw : Nat
  frags : List Fragment
  deriving DecidableEq, Repr

/-- A tile held by a core (11 R392): quads not yet in a dispatched group, groups closed by a timeout that come before them,
the GROUP of the next group, and the pixel launch of each draw. -/
structure Tile where
  part : Nat
  tile : Nat
  quads : List Quad
  closed : List (List Quad)
  nextGroup : Nat
  launches : Tab Nat
  deriving DecidableEq, Repr

/-- A tile's list while it is binned (11 R387): its first and current segment, the entries in the current one, and the draw
of its last DRAW entry. -/
structure TileList where
  first : Nat
  seg : Nat
  fill : Nat
  draw : Option Nat
  deriving DecidableEq, Repr

/-- How far a pass has come: its primitives are all binned or the heap has run dry; its tiles are being rendered; or it has
stopped at a fault. -/
inductive PassPhase where
  | dry | rendering | faulted
  deriving DecidableEq, Repr

/-- A render pass in progress (11 R381-R394). `draw` and `prim` are the primitive the next round begins at; `binned` counts
the primitives of the round; `chunks` are those held, `segs` the segments handed out of the last. -/
structure Pass where
  cmd : CmdId
  part : Nat
  ctx : Nat
  hdr : BitVec 512
  targets : List (BitVec 256)
  set : BitVec 64
  round : Nat
  flushes : Nat
  renders : Nat
  final : Bool
  draw : Nat
  prim : Nat
  binned : Nat
  pool : Option Nat
  chunks : List Nat
  segs : Nat
  lists : Tab TileList
  phase : PassPhase
  nextTile : Nat
  maxChunks : Nat
  deriving DecidableEq, Repr

/-- TIL_PART_p (11 Table 11-7), the fields that outlive a pass. -/
structure TilPart where
  passes : Nat
  flushes : Nat
  maxChunks : Nat
  deriving DecidableEq, Repr

/-- The tiler, the pixel and texture pipelines: passes by partition, RND_PASS commands that wait in start order, tiles by
core, and each cluster's texel cache. -/
structure Render where
  passes : Tab Pass
  waiting : List CmdId
  tiles : Tab Tile
  til : Tab TilPart
  texels : Tab (Tab Line)
  deriving DecidableEq, Repr

end Sys2Proof.Machine
end

