-- ==== Sys2Proof/Machine/State.lean ====
section
/-! DEFINITION. The state of the block as plain data, the reasons a step can stop, and the state after reset. -/

namespace Sys2Proof.Machine

/-- The time base (01 R50-R52): the timestamp, the epoch index and phase, and A_POINT. -/
structure Time where
  ts : Nat
  epoch : Nat
  phase : Nat
  aPoint : Nat
  deriving DecidableEq, Repr

/-- The one-time-programmable state (14 R490, R491): SVN fuses and revoked keys. -/
structure Fuses where
  svn : BitVec 64
  revoked : BitVec 16
  deriving DecidableEq, Repr

/-- The usable units (15 R502, R503). -/
structure FloorPlan where
  clusters : BitVec 64
  cores : Tab (BitVec 16)
  slices : BitVec 64
  banks : BitVec 16
  channels : BitVec 16
  csi : BitVec 8
  dsi : BitVec 2
  deriving DecidableEq, Repr

/-- The data-plane status (10 Table 10-15) and the steps of Table 15-7 that a reset in progress has completed (0: none is in
progress; 7: the data plane is stopped until a full reset). `pending` is the CAUSE, with the functions that OWN names, of a
reset that has been detected and not begun; `own` that of the last reset; `recorded`: a job fault of the reset in progress
is MGT_JOB_FAULT's (10 R372). -/
structure DpStatus where
  step : Nat
  cause : Nat
  count : Nat
  startEpoch : Nat
  own : List Nat
  pending : Option (Nat × List Nat)
  recorded : Bool
  deriving DecidableEq, Repr

/-- MGT_JOB_FAULT (10 Table 10-14). -/
structure FaultRecord where
  time : Nat
  fault : JobFault
  resetCount : Nat
  valid : Bool
  suppressed : Nat
  deriving DecidableEq, Repr

/-- The audit and violation counters, keyed by their offset in the chip-wide block (16 Tables 16-5, 16-10). -/
structure Aud where
  count : Tab Nat
  wrap : Tab Bool
  snap : Tab Nat
  snapWrap : Tab Bool
  /-- the counter wrapped during the epoch in progress -/
  wrapEpoch : Tab Bool
  snapValid : Bool
  snapIndex : Nat
  joins : Tab Nat
  viol : Tab Nat
  deriving DecidableEq, Repr

/-- Everything of the block but its queue. -/
structure Dev where
  time : Time
  fuses : Fuses
  plan : FloorPlan
  cores : Tab Core
  cycle : Nat
  mem : MemSys
  dramc : DramCtl
  mmu : Mmu
  mint : Mint
  parts : Tab Part
  reserves : Tab Reserve
  moves : Tab Move
  tly : TallyBlock
  grid : List GridMsg
  funcs : Tab Func
  tags : Tab Nat
  launches : Tab Launch
  orders : Tab Order
  nodeFree : Tab Nat
  render : Render
  ledger : Ledger
  rays : RayUnits
  ports : Tab IngPort
  engines : Tab Engine
  mgmt : Mgmt
  dp : DpStatus
  faults : List JobFault
  faultRec : FaultRecord
  aud : Aud
  sent : List Sent
  free : Nat
  outerOff : Bool
  memSel : Nat
  deriving DecidableEq, Repr

/-- The block: its queue of waiting commands, first in first out, and the device. -/
structure State where
  pending : List Instr
  dev : Dev
  deriving DecidableEq, Repr

/-! ### The state after reset (15 R496; notes/assumptions/2.md for what the spec gives no reset value) -/

/-- Memory-side state: nothing cached, way masks and pins at their reset values (unlisted), DRAM content unpredictable. -/
def MemSys.blank : MemSys :=
  { vault := [], vrr := [], missRegs := [], prefetches := [], dir := [], dirRR := [], txns := [], resps := [], tile := [],
    dram := [], dpoison := [], host := [], pinned := 0, alloc := [], errLog := 0, scrub := [], maints := [], maintAddr := 0,
    maintLen := 0, maintReq := 0, maintOp := 0, maintBusy := false, maintXlat := false, maintAborted := false,
    maintConflicts := 0, maintDone := 0, dramLost := true, refused := [] }

/-- Partition 0 is valid and bound to the physical function with WEIGHT 0x10 (10 Table 10-2, R353). -/
def Part.zero : Part :=
  { cfg := { valid := true, safety := false, func := 0, weight := 0x10, runEpochs := 0, hardHost := false, hardDram := false,
             dramBudget := 0, hostBudget := 0, queryBudget := 0, ldgQuota := 0 }
    held := 0, wins := [], applied := 0, dramUsed := 0, hostUsed := 0, queriesUsed := 0, dramPrev := 0, hostPrev := 0,
    queriesPrev := 0, drainK := 0, tallies := 0, pendCfg := none, pendWins := [], joins := 0 }

/-- The array regulator's power-on output, in mV (17 Table 17-9). -/
def powerOnMv : Nat := 450

def Mgmt.blank : Mgmt :=
  { clk := { aNext := 0, switching := false, locks := 0, lost := 0 }
    pow := { pointReq := 0, ceiling := 2, limit := 40000, limitNext := none, hist := [], sensors := [], hot := [], tsum := 0, tn := 0,
             lastMw := 0, lastTemp := 0, lastEpoch := 0, avsMv := powerOnMv, avsRead := none, avsAt := none, avsFails := 0,
             why := 0, lowered := false }
    bring := { st := .romStart, powered := true, held := true, wild := false, mismatch := 0, control := 0, readyTime := 0,
               reported := false, fitted := 0 }
    chip := { valid := false, fatal := false, count := 0, detail := 0, cause := 0, time := 0 }
    faultN := false
    thermTrip := false
    hb := { lock := false, en := false, level := false, feedTally := 0, missed := 0, driven := false }
    gpio := { dir := 0, out := 0, pins := 0, irqEn := false, vec := 0, edgeEn := 0, cap := 0 }
    smbAddr := false
    tap := .idcode
    tapReset := true
    reqs := []
    fw := { image := [], dead := false, header := none, doe := none, aliasRnd := 0 }
    numVfs := 0, vfEnable := false, pciFatal := 0, poisonTlps := 0 }

/-- The device right after a full reset of a part as shipped: powered, with PERST_N asserted. -/
def Dev.blank : Dev :=
  { time := { ts := 0, epoch := 0, phase := 0, aPoint := 0 }
    fuses := { svn := Config.shippedSvn, revoked := Config.shippedRevoked }
    plan := { clusters := 0, cores := [], slices := 0, banks := 0, channels := 0, csi := 0, dsi := 0 }
    cores := []
    cycle := 0
    mem := MemSys.blank
    dramc := { errValid := false, errScrub := false, errPa := 0, scrubBlk := [], sweeps := [], scrubbed := [], refBank := [] }
    mmu := { dramSize := 0, ctxs := [], tlb := [], recs := [], invs := [], invCtx := 0, invPage := 0, invMode := 0, invPages := 0,
             invBusy := false }
    mint := { pools := [], calls := [] }
    parts := [(0, Part.zero)]
    reserves := [], moves := []
    tly := { tallies := [], waiters := [], wakes := [], ops := [] }
    grid := [], funcs := [], tags := [], launches := [], orders := [], nodeFree := []
    render := { passes := [], waiting := [], tiles := [], til := [], texels := [] }
    ledger := { entries := [], streams := [], queries := [], migrations := [], evicts := [], rot := 0, serial := 0, order := 0,
                scrub := [] }
    rays := { rays := [], cache := [], completed := [] }
    ports := [], engines := []
    mgmt := Mgmt.blank
    dp := { step := 0, cause := 0, count := 0, startEpoch := 0, own := [], pending := none, recorded := false }
    faults := []
    faultRec := { time := 0, fault := { code := 0, unit := 0, index := 0, part := 0, func := 0, ctx := 0, pc := 0, group := 0, addr := 0 },
                  resetCount := 0, valid := false, suppressed := 0 }
    aud := { count := [], wrap := [], snap := [], snapWrap := [], wrapEpoch := [], snapValid := false, snapIndex := 0, joins := [],
             viol := [] }
    sent := [], free := 0, outerOff := false, memSel := 0 }

/-- The block right after reset: its queue is empty. -/
def State.reset : State := { pending := [], dev := Dev.blank }

/-- The reasons a step can stop with a fault: no command of this model raises one, so `unreachable` is safe. -/
inductive Fault where
  | unreachable
  deriving DecidableEq, Repr

/-- The reasons a step can be refused: `notModelled` is raised by an arm of the dispatch that has no meaning yet, and no arm is
left so; it is safe. -/
inductive Refusal where
  | notModelled (mnemonic : String)
  deriving DecidableEq, Repr

end Sys2Proof.Machine
end

