-- ==== Sys2Proof/Machine/Ops.lean ====
section
/-! DEFINITION. The shared operations on the device: free values, counters, job faults, interrupts, parts of the plan. -/

namespace Sys2Proof.Machine

/-! ### The shape of every meaning -/

/-- A command's effect `f` on the device. The time base and the one-time-programmable fuses are kept. -/
def State.on (f : Dev → Dev) (s : State) : Host.Outcome State Fault Refusal :=
  .next { s with dev := { f s.dev with time := s.dev.time, fuses := s.dev.fuses } }

/-- The effect of a command that may change the time base; the fuses are kept. -/
def State.onTime (f : Dev → Dev) (s : State) : Host.Outcome State Fault Refusal :=
  .next { s with dev := { f s.dev with fuses := s.dev.fuses } }

/-- The effect of a command that may burn fuses: a fuse once set stays set. -/
def State.onFuses (f : Dev → Dev) (s : State) : Host.Outcome State Fault Refusal :=
  let d := f s.dev
  .next { s with dev := { d with
    time := s.dev.time
    fuses := { svn := d.fuses.svn ||| s.dev.fuses.svn, revoked := d.fuses.revoked ||| s.dev.fuses.revoked } } }

/-! ### Free values -/

/-- A value the manual leaves open: the next of the run (notes/assumptions/1.md). -/
def Dev.fresh (d : Dev) : Nat × Dev := (Config.free d.free, { d with free := d.free + 1 })

/-! ### The floor plan (00 R22, 15 R503) -/

def clusterOf (core : Nat) : Nat := core / 16

def FloorPlan.clusterOk (p : FloorPlan) (c : Nat) : Bool := c < 64 && p.clusters.getLsbD c

def FloorPlan.coreOk (p : FloorPlan) (i : Nat) : Bool :=
  p.clusterOk (clusterOf i) && (Tab.get p.cores (clusterOf i) 0).getLsbD (i % 16)

/-! ### Cores, partitions, functions -/

def Chan.empty : Chan := { queue := [], granted := [], pending := [], last := 0, recv := [] }

def Core.empty : Core :=
  { groups := [], strands := [], nextStrand := 0, split := 0, lastPart := none, ls := [], lsZero := [], l1 := [],
    l1rr := [], leaving := [], misses := [], ops := [], nextOp := 0, chans := [], credits := [], creditRR := 0,
    slots := [], slotWait := [], mxQueue := [], mxXfer := none, mxMul := none, stopped := false, lastIssue := none }

def Dev.core (d : Dev) (i : Nat) : Core := Tab.get d.cores i Core.empty

def Dev.setCore (d : Dev) (i : Nat) (c : Core) : Dev := { d with cores := Tab.put d.cores i c }

def Dev.modCore (d : Dev) (i : Nat) (f : Core → Core) : Dev := d.setCore i (f (d.core i))

def PartCfg.none : PartCfg :=
  { valid := false, safety := false, func := 0, weight := 0x10, runEpochs := 0, hardHost := false, hardDram := false,
    dramBudget := 0, hostBudget := 0, queryBudget := 0, ldgQuota := 0 }

def Part.empty : Part :=
  { cfg := PartCfg.none, held := 0, wins := [], applied := 0, dramUsed := 0, hostUsed := 0, queriesUsed := 0,
    dramPrev := 0, hostPrev := 0, queriesPrev := 0, drainK := 0, tallies := 0, pendCfg := none, pendWins := [], joins := 0 }

def Dev.part (d : Dev) (p : Nat) : Part := Tab.get d.parts p Part.empty

def Dev.modPart (d : Dev) (p : Nat) (f : Part → Part) : Dev :=
  { d with parts := Tab.put d.parts p (f (d.part p)) }

def Ring.empty : Ring :=
  { ctx := 0, base := 0, en := false, kind := false, dbTally := 0, weight := 1, log2n := 6, head := 0, tail := 0,
    done := 0, st := .disabled, err := 0, notOk := false, cmds := [], slotIssued := false, slotEmpty := false }

def Vector.empty : Vector :=
  { addr := 0, data := 0, masked := true, pending := false, mode := 0, thresh := 1, events := 0, sent := false }

def Mbx.empty : Mbx :=
  { req := [], rsp := [], busy := false, done := false, noticeLost := false, lastSeq := 0, doneEn := false,
    noticeEn := false, vec := 0, head := 0, tail := 0, notices := [] }

def Pcs.empty : Pcs :=
  { en := false, part := 0, ctx := 0, periodLog2 := 16, sizeLog2 := 12, base := 0, head := 0, tail := 0 }

/-- A function after a full reset (07 Tables 7-3 to 7-5; PCIe's own values PRESUMED, notes/assumptions/11.md). -/
def Func.reset (f : Nat) : Func :=
  { tagBase := 2560 * f, tagCount := 2560, winCtx := 0, winBase := 0, rings := [], vecs := [], eventVec := 0,
    mbx := Mbx.empty, pcs := Pcs.empty, audUser := false, flr := none, bme := false, msixEn := false,
    msixMask := false, d3hot := false }

def Dev.func (d : Dev) (f : Nat) : Func := Tab.get d.funcs f (Func.reset f)

def Dev.modFunc (d : Dev) (f : Nat) (g : Func → Func) : Dev :=
  { d with funcs := Tab.put d.funcs f (g (d.func f)) }

def Dev.ring (d : Dev) (f r : Nat) : Ring := Tab.get (d.func f).rings r Ring.empty

def Dev.modRing (d : Dev) (f r : Nat) (g : Ring → Ring) : Dev :=
  d.modFunc f (fun u => { u with rings := Tab.put u.rings r (g (Tab.get u.rings r Ring.empty)) })

/-- The vectors of a function (10 R367). -/
def vecCount (f : Nat) : Nat := if f = 0 then 64 else 8

def Dev.vec (d : Dev) (f v : Nat) : Vector := Tab.get (d.func f).vecs v Vector.empty

def Dev.modVec (d : Dev) (f v : Nat) (g : Vector → Vector) : Dev :=
  d.modFunc f (fun u => { u with vecs := Tab.put u.vecs v (g (Tab.get u.vecs v Vector.empty)) })

def CtxDesc.none : CtxDesc := { valid := false, part := 0, func := 0, root := 0 }

def Dev.ctx (d : Dev) (c : Nat) : CtxDesc := Tab.get d.mmu.ctxs c CtxDesc.none

/-- Context `c` is valid and owned by function `f` (05 Table 5-2). -/
def Dev.ownsCtx (d : Dev) (f c : Nat) : Bool := (d.ctx c).valid && (d.ctx c).func == f

/-- Partition `p` is valid and bound to function `f`. -/
def Dev.bound (d : Dev) (f p : Nat) : Bool := (d.part p).cfg.valid && (d.part p).cfg.func == f

/-- The partitions bound to a function, in order. -/
def Dev.partsOf (d : Dev) (f : Nat) : List Nat := (List.range 16).filter (d.bound f)

/-- Something goes out; every output is unpredictable while a rail is out of its range (18 R562). -/
def Dev.send (d : Dev) (o : Sent) : Dev :=
  if d.mgmt.bring.wild then
    let (x, d) := d.fresh
    { d with sent := d.sent ++ [.wild x] }
  else { d with sent := d.sent ++ [o] }

/-! ### Audit and violation counters (16 R516, R517, R520) -/

/-- Adds `n` to the audit counter at `off`, modulo 2^48 with the sticky WRAP bit. -/
def Dev.count (d : Dev) (off n : Nat) : Dev :=
  if n = 0 then d else
  let x := Tab.get d.aud.count off 0 + n
  let a := { d.aud with count := Tab.put d.aud.count off (x % 2 ^ 48) }
  { d with aud := if x < 2 ^ 48 then a else
      { a with wrap := Tab.put a.wrap off true, wrapEpoch := Tab.put a.wrapEpoch off true } }

/-- A core event, with its cluster total (16 Table 16-1). -/
def Dev.countCore (d : Dev) (i e n : Nat) : Dev :=
  (d.count (0x20000 + 128 * i + 8 * e) n).count (0x60000 + 128 * clusterOf i + 8 * e) n

/-- A cluster event (16 Table 16-2). -/
def Dev.countCluster (d : Dev) (c e n : Nat) : Dev := d.count (0x64000 + 128 * c + 8 * e) n

/-- A slice event (16 Table 16-3). -/
def Dev.countSlice (d : Dev) (s e n : Nat) : Dev := d.count (0x68000 + 64 * s + 8 * e) n

/-- A global event (16 Table 16-4). -/
def Dev.countGlobal (d : Dev) (e n : Nat) : Dev := d.count (0x6A000 + 8 * e) n

/-- Adds 1 to the saturating violation counter at `off` of the chip view. -/
def Dev.violate (d : Dev) (off : Nat) : Dev :=
  { d with aud := { d.aud with viol := Tab.upd d.aud.viol off 0 (fun x => satAdd 32 x 1) } }

def violFnOff (f k : Nat) : Nat := 0x70000 + 32 * f + 4 * k
def violPartOff (p k : Nat) : Nat := 0x70200 + 64 * p + 4 * k
def violPortOff (n : Nat) : Nat := 0x70600 + 4 * n

/-- Violation counter `k` of function `f` (16 Table 16-10). -/
def Dev.violFn (d : Dev) (f k : Nat) : Dev := if f < 16 then d.violate (violFnOff f k) else d
def Dev.violPart (d : Dev) (p k : Nat) : Dev := if p < 16 then d.violate (violPartOff p k) else d
def Dev.violPort (d : Dev) (n : Nat) : Dev := d.violate (violPortOff n)

/-- ACCESS_VIOLATION of function `f`. -/
def Dev.denied (d : Dev) (f : Nat) : Dev := d.violFn f 0

/-! ### Job faults (10 R371) -/

/-- A job fault sets out for the management plane. -/
def Dev.raise (d : Dev) (j : JobFault) : Dev := { d with faults := d.faults ++ [j] }

/-- The data plane accepts and performs work (10 Table 10-15). -/
def Dev.running (d : Dev) : Bool := d.dp.step == 0

/-! ### Interrupts (10 R367-R370, 17 R536) -/

/-- Sends one MSI-X message, or sets the pending bit where PCIe masks it. -/
def Dev.sendMsg (d : Dev) (f v : Nat) : Dev :=
  let u := d.func f
  let e := d.vec f v
  let d := d.modVec f v (fun e => { e with events := 0, sent := true })
  if u.msixEn && !u.msixMask && !e.masked && u.bme && !u.d3hot then d.send (.msix f v e.addr e.data)
  else d.modVec f v (fun e => { e with pending := true })

/-- An event on a vector, under its moderation (10 R369). -/
def Dev.raiseVec (d : Dev) (f v : Nat) : Dev :=
  if v ≥ vecCount f then d else
  let e := d.vec f v
  let hold := d.modVec f v (fun e => { e with events := satAdd 16 e.events 1 })
  if e.mode = 1 then (if e.sent then hold else d.sendMsg f v)
  else if e.mode = 2 then
    (if satAdd 16 e.events 1 ≥ max e.thresh 1 then d.sendMsg f v else hold)
  else d.sendMsg f v

/-! ### Budgets (10 R362) -/

def Dev.useDram (d : Dev) (p : Option Nat) (bytes : Nat) : Dev :=
  match p with
  | none => d
  | some p => d.modPart p (fun x => { x with dramUsed := x.dramUsed + bytes })

def Dev.useHost (d : Dev) (p : Option Nat) (bytes : Nat) : Dev :=
  match p with
  | none => d
  | some p => d.modPart p (fun x => { x with hostUsed := x.hostUsed + bytes })

/-- The device can issue requests for function `f` (17 R536, R539). -/
def Dev.masterOk (d : Dev) (f : Nat) : Bool := (d.func f).bme && !(d.func f).d3hot

end Sys2Proof.Machine
end

