-- ==== Sys2Proof/Machine/Memory.lean ====
section
/-! DEFINITION. DRAM, host memory and the vault slices (04 R147-R156, 17 R542-R548). A line is named by its physical
line number PA[47:7]; numbers at or above 2^40 are host memory. -/

namespace Sys2Proof.Machine

/-- A requester of an access: its identity (04 Table 4-5), the partition whose budgets it counts to, and the function
whose requests reach host memory for it. -/
structure Rq where
  id : Nat
  part : Option Nat
  func : Nat
  deriving DecidableEq, Repr

/-- Partition `p`'s data-plane requester. -/
def Dev.rqPart (d : Dev) (p : Nat) : Rq := { id := p, part := some p, func := (d.part p).cfg.func }

/-- Partition `p`'s ledger-prefetch requester. -/
def Dev.rqLedger (d : Dev) (p : Nat) : Rq := { id := 16 + p, part := some p, func := (d.part p).cfg.func }

/-- A requester that belongs to no partition. -/
def rqUnit (id func : Nat) : Rq := { id := id, part := none, func := func }

def isHostLine (l : Nat) : Bool := decide (2 ^ 40 ≤ l)

/-! ### DRAM (17 R542-R548) -/

/-- The channel of a DRAM line (17 R542). -/
def dramChannel (outerOff : Bool) (l : Nat) : Nat :=
  let g := l / (if outerOff then 8 else 7)
  (g ^^^ g / 16 ^^^ g / 256 ^^^ g / 4096) % 16

/-- The byte offset of a DRAM line's data within its channel (17 R542). -/
def dramOffset (outerOff : Bool) (l : Nat) : Nat :=
  let n := if outerOff then 8 else 7
  (l / n / 16) * 1024 + 128 * (l % n)

/-- Bytes of every granule that `mask` names wholly (17 R546). -/
def wholeGranule (mask : LineMask) (k : Nat) : Bool := fld mask.toNat (8 * k + 7) (8 * k) == 255

/-- `mask` names a byte of granule `k`. -/
def touchesGranule (mask : LineMask) (k : Nat) : Bool := fld mask.toNat (8 * k + 7) (8 * k) != 0

/-- A line's poison after a write of `mask` whose data carries `new` (04 R180, 17 R546). -/
def mergePoison (mask : LineMask) (old new : BitVec 16) : BitVec 16 :=
  maskOf 16 ((List.range 16).filter (fun k =>
    if new.getLsbD k && touchesGranule mask k then true
    else if wholeGranule mask k then false else old.getLsbD k))

def fullMask : LineMask := BitVec.ofNat 128 (2 ^ 128 - 1)

/-- A line's bytes in DRAM; unpredictable while the content is lost (15 R496, 18 R562). -/
def Dev.dramLine (d : Dev) (l : Nat) : Line :=
  if d.mem.dramLost then lineOf ((List.range 128).map (fun i => Config.dramByte (l * 128 + i)))
  else Mem.line d.mem.dram (l * 128)

/-- A read of a line by the memory controller (17 R545), with no error. -/
def Dev.dramRead (d : Dev) (l : Nat) : Line × BitVec 16 × Dev :=
  (d.dramLine l, if d.outerOff then 0 else Tab.get d.mem.dpoison l 0, d.countGlobal 8 1)

def putPoison (t : Tab (BitVec 16)) (l : Nat) (p : BitVec 16) : Tab (BitVec 16) :=
  if p = 0 then Tab.del t l else Tab.put t l p

/-- Every poisoned granule as all ones (17 R548). -/
def onesPoisoned (data : Line) (poison : BitVec 16) : Line :=
  mergeLine (maskOf 128 ((List.range 128).filter (fun i => poison.getLsbD (i / 8)))) data
    (BitVec.ofNat 1024 (2 ^ 1024 - 1))

/-- The job fault of a poisoned granule written with the outer code off (17 R548). -/
def Dev.poisonWriteFault (d : Dev) (rq : Rq) (l k : Nat) : Dev :=
  d.raise { code := 0x0A, unit := 11, index := dramChannel d.outerOff l, part := rq.part.getD 0,
            func := if rq.part.isSome then rq.func else 0, ctx := 0, pc := 0, group := 0, addr := l * 128 + 8 * k }

/-- A write of the bytes of a line that `mask` names (17 R546, R548); a partial write reads the line first. -/
def Dev.dramWrite (d : Dev) (rq : Rq) (l : Nat) (mask : LineMask) (data : Line) (poison : BitVec 16) : Dev :=
  let whole := mask == fullMask
  let (old, oldP, d) := if whole then (0, 0, d) else d.dramRead l
  let line := mergeLine mask old data
  let p := mergePoison mask oldP poison
  let d := d.countGlobal 9 1
  if d.outerOff then
    let bad := (onesOf poison).filter (touchesGranule mask)
    let d := { d with mem := { d.mem with
      dram := Mem.setLine d.mem.dram (l * 128) (mergeLine mask old (onesPoisoned data poison)) } }
    bad.foldl (fun d k => d.poisonWriteFault rq l k) d
  else { d with mem := { d.mem with
      dram := Mem.setLine d.mem.dram (l * 128) line, dpoison := putPoison d.mem.dpoison l p } }

/-! ### Memory behind the vault: DRAM or the host -/

/-- A line read from memory for a requester. -/
def Dev.memRead (d : Dev) (rq : Rq) (l : Nat) : Line × BitVec 16 × Dev :=
  if isHostLine l then
    (Mem.line d.mem.host ((l - 2 ^ 40) * 128), 0, (d.countGlobal 12 128).useHost rq.part 128)
  else (d.useDram rq.part 128).dramRead l

/-- The bytes of `mask` written to memory for a requester. A posted write to the host is issued only while the function
may issue requests (17 R536), and is lost where the host refuses it (05 R192); poison does not reach the host. -/
def Dev.memWrite (d : Dev) (rq : Rq) (l : Nat) (mask : LineMask) (data : Line) (poison : BitVec 16) : Dev :=
  if isHostLine l then
    if !d.masterOk rq.func || d.mem.refused.contains l then d else
    let a := (l - 2 ^ 40) * 128
    let n := (onesOf mask).length
    let h := Mem.setLine d.mem.host a (mergeLine mask (Mem.line d.mem.host a) data)
    let d := { d with mem := { d.mem with host := h } }
    (d.countGlobal 13 n).useHost rq.part n
  else (d.useDram rq.part 128).dramWrite rq l mask data poison

/-! ### Home slice, set and ways (04 R148-R151) -/

/-- The hash of a line (04 R148). -/
def lineHash (l : Nat) : Nat := fld l 11 0 ^^^ fld l 23 12 ^^^ fld l 35 24 ^^^ fld l 40 36

/-- Entry `h` of the interleave table (04 R148); 0 where no slice is usable. -/
def FloorPlan.interleave (p : FloorPlan) (h : Nat) : Nat :=
  let s := onesOf p.slices
  s.getD (h % max s.length 1) 0

def Dev.sliceOf (d : Dev) (l : Nat) : Nat := d.plan.interleave (lineHash l)

def setOf (l : Nat) : Nat := fld l 10 0 ^^^ fld l 21 11

/-- ALLOC of a requester (04 Table 4-7). -/
def Dev.allocMask (d : Dev) (r : Nat) : BitVec 16 := (Tab.get d.mem.alloc r 0x1FFFF).setWidth 16

/-- NLP of a requester. -/
def Dev.nlp (d : Dev) (r : Nat) : Bool := (Tab.get d.mem.alloc r 0x1FFFF).getLsbD 16

/-- The lines of one set of one slice. -/
def Dev.setLines (d : Dev) (slice set : Nat) : Tab VLine :=
  Tab.keep d.mem.vault (fun l _ => d.sliceOf l == slice && setOf l == set)

/-- The ways 0 to 15 counted cyclically from `p`. -/
def cyc16 (p : Nat) : List Nat := (List.range 16).map (fun i => (p + i) % 16)

/-- The victim way of an allocation under `mask`, and whether the pointer moves (04 R151). -/
def Dev.victim (d : Dev) (slice set : Nat) (mask : BitVec 16) : Option (Nat × Bool) :=
  let ls := d.setLines slice set
  let at? := fun w => ls.find? (fun e => e.2.way == w)
  let ptr := Tab.get d.mem.vrr (slice * 2048 + set) 0
  match (onesOf mask).find? (fun w => (at? w).isNone) with
  | some w => some (w, false)
  | none =>
    match (cyc16 ptr).find? (fun w => mask.getLsbD w && ((at? w).any (fun e => e.2.streaming))) with
    | some w => some (w, false)
    | none => ((cyc16 ptr).find? (fun w => mask.getLsbD w)).map (fun w => (w, true))

def Dev.delVault (d : Dev) (l : Nat) : Dev := { d with mem := { d.mem with vault := Tab.del d.mem.vault l } }

def Dev.putVault (d : Dev) (l : Nat) (v : VLine) : Dev :=
  { d with mem := { d.mem with vault := Tab.put d.mem.vault l v } }

def Dev.modVault (d : Dev) (l : Nat) (f : VLine → VLine) : Dev :=
  { d with mem := { d.mem with vault := Tab.mod d.mem.vault l f } }

/-- The line held in way `w` of a set leaves; a dirty one is written back, counted to the requester (04 R151, 10 R362). -/
def Dev.evictWay (d : Dev) (rq : Rq) (slice set w : Nat) : Dev :=
  match (d.setLines slice set).find? (fun e => e.2.way == w) with
  | none => d
  | some (l, v) =>
    let d := d.delVault l
    if v.dirty then (d.memWrite rq l fullMask v.data v.poison).countSlice slice 2 1 else d

/-- A line allocated into the vault under the requester's mask; none where the mask is zero. Answers whether it evicted
a valid line. -/
def Dev.allocate (d : Dev) (rq : Rq) (l : Nat) (data : Line) (poison : BitVec 16) (dirty streaming : Bool) :
    Option (Bool × Dev) :=
  let slice := d.sliceOf l
  let set := setOf l
  match d.victim slice set (d.allocMask rq.id) with
  | none => none
  | some (w, move) =>
    let evicts := (d.setLines slice set).any (fun e => e.2.way == w)
    let d := d.evictWay rq slice set w
    let d := if move then { d with mem := { d.mem with
        vrr := Tab.put d.mem.vrr (slice * 2048 + set) ((w + 1) % 16) } } else d
    some (evicts, d.putVault l { way := w, data := data, dirty := dirty, streaming := streaming, poison := poison })

/-- A vault attribute that allocates on a read miss: WB, WT or ST (04 Table 4-4). -/
def allocsOnRead (attr : Nat) : Bool := attr == 0 || attr == 1 || attr == 3

/-- A demand read miss that allocated issues its next-line prefetch (04 R154). -/
def Dev.issueNlp (d : Dev) (rq : Rq) (attr l : Nat) : Dev :=
  if d.nlp rq.id && allocsOnRead attr && (l + 1) % 32 != 0 then
    { d with mem := { d.mem with prefetches := d.mem.prefetches ++ [{ line := l + 1, req := rq.id, attr := attr }] } }
  else d

/-- A read of a line at its home slice by a requester (04 R149, R150, Table 4-4). -/
def Dev.sliceRead (d : Dev) (rq : Rq) (attr l : Nat) : Line × BitVec 16 × Dev :=
  match Tab.get? d.mem.vault l with
  | some v => (v.data, v.poison, d.countSlice (d.sliceOf l) 0 1)
  | none =>
    let d := d.countSlice (d.sliceOf l) 1 1
    let (data, poison, d) := d.memRead rq l
    if allocsOnRead attr then
      match d.allocate rq l data poison false (attr == 3) with
      | some (_, d) => (data, poison, d.issueNlp rq attr l)
      | none => (data, poison, d)
    else (data, poison, d)

/-- A write of the bytes of `mask` at the home slice (04 Table 4-4). -/
def Dev.sliceWrite (d : Dev) (rq : Rq) (attr l : Nat) (mask : LineMask) (data : Line) (poison : BitVec 16) : Dev :=
  match Tab.get? d.mem.vault l with
  | some v =>
    let d := d.countSlice (d.sliceOf l) 0 1
    let through := attr == 1 || attr == 4
    let d := d.putVault l { v with data := mergeLine mask v.data data, poison := mergePoison mask v.poison poison,
                                   dirty := v.dirty || !through, streaming := v.streaming || attr == 3 }
    if through then d.memWrite rq l mask data poison else d
  | none =>
    let d := d.countSlice (d.sliceOf l) 1 1
    if attr == 0 || attr == 1 || attr == 3 then
      if (d.allocMask rq.id) = 0 then d.memWrite rq l mask data poison else
      let (old, oldP, d) := if mask == fullMask then (0, 0, d) else d.memRead rq l
      match d.allocate rq l (mergeLine mask old data) (mergePoison mask oldP poison) (attr != 1) (attr == 3) with
      | some (_, d) => if attr == 1 then d.memWrite rq l mask data poison else d
      | none => d.memWrite rq l mask data poison
    else d.memWrite rq l mask data poison

end Sys2Proof.Machine
end

