-- ==== Sys2Proof/Machine/Operands.lean ====
section
/-! DEFINITION. The instruction word, operand codes, and the reading and writing of a core's registers (02 R80, R81). -/

namespace Sys2Proof.Machine

/-! ### The instruction word (02 Tables 2-4, 2-5) -/

/-- Bits `[hi:lo]` of an instruction word. -/
def wf (w : BitVec 64) (hi lo : Nat) : Nat := fld w.toNat hi lo

def opcOf (w : BitVec 64) : Nat := wf w 63 56
def predOf (w : BitVec 64) : Nat := wf w 54 52
def dstOf (w : BitVec 64) : Nat := wf w 47 40
def srcaOf (w : BitVec 64) : Nat := wf w 39 32
def srcbOf (w : BitVec 64) : Nat := wf w 31 24
def srccOf (w : BitVec 64) : Nat := wf w 23 16
def isFmtI (w : BitVec 64) : Bool := srcbOf w == 0xFE
/-- MOD; format I acts as MOD = 0 with no second predicate (02 R83). -/
def modOf (w : BitVec 64) : Nat :=
  if isFmtI w then (if opcOf w = 0x30 then 0x70 else 0) else wf w 11 0
/-- TYPE; s32 in format I (02 Table 2-5). -/
def typeOf (w : BitVec 64) : Nat := if isFmtI w then 1 else wf w 15 12
def imm24Of (w : BitVec 64) : Int := sext 24 (wf w 23 0)
def imm32Of (w : BitVec 64) : Nat := wf w 31 0
def sizeOf (w : BitVec 64) : Nat := wf w 31 28
def ordOf (w : BitVec 64) : Nat := wf w 27 24
def offsetOf (w : BitVec 64) : Int := sext 24 (wf w 23 0)
def subOf (w : BitVec 64) : Nat := wf w 15 0

/-! ### Launches, groups and strands -/

def Group.empty : Group :=
  { launch := 0, index := 0, regs := [], preds := [], uni := [], exited := 0, inRegion := false, stack := [],
    slot := none, watch := 0, pixels := [], held := 0, released := 0 }

def Launch.empty : Launch :=
  { part := 0, ctx := 0, from_ := .pixel 0 0 0, entry := 0, regs := 16, lsGroup := 0, split := 0, maxg := 1, threads := 0,
    params := 0, targets := 0, groups := 0, next := 0, live := 0, epochs := 0 }

def Dev.group (d : Dev) (ci slot : Nat) : Group := Tab.get (d.core ci).groups slot Group.empty

def Dev.modGroup (d : Dev) (ci slot : Nat) (f : Group → Group) : Dev :=
  d.modCore ci (fun c => { c with groups := Tab.mod c.groups slot f })

def Dev.launch (d : Dev) (l : Nat) : Launch := Tab.get d.launches l Launch.empty

def Dev.strand? (d : Dev) (ci sid : Nat) : Option Strand := Tab.get? (d.core ci).strands sid

def Dev.setStrand (d : Dev) (ci sid : Nat) (s : Strand) : Dev :=
  d.modCore ci (fun c => { c with strands := Tab.put c.strands sid s })

def Dev.modStrand (d : Dev) (ci sid : Nat) (f : Strand → Strand) : Dev :=
  d.modCore ci (fun c => { c with strands := Tab.mod c.strands sid f })

def Dev.delStrand (d : Dev) (ci sid : Nat) : Dev :=
  d.modCore ci (fun c => { c with strands := Tab.del c.strands sid })

/-- The group slots present in a strand, in order of their lowest lane. -/
def Strand.slots (s : Strand) : List Nat := (s.lanes.map (·.2)).eraseDups

/-- The lowest group slot's launch: every thread of a strand is of one launch (02 R58). -/
def Dev.strandLaunch (d : Dev) (ci : Nat) (s : Strand) : Nat := (d.group ci (s.slots.headD 0)).launch

def Dev.strandCtx (d : Dev) (ci : Nat) (s : Strand) : Nat := (d.launch (d.strandLaunch ci s)).ctx
def Dev.strandPart (d : Dev) (ci : Nat) (s : Strand) : Nat := (d.launch (d.strandLaunch ci s)).part

/-- The strand's group is inside a matrix region. -/
def Dev.inRegion (d : Dev) (ci : Nat) (s : Strand) : Bool := (d.group ci (s.slots.headD 0)).inRegion

/-! ### Reading operands (02 Table 2-6) -/

/-- The 32-bit value of an operand code for a lane. -/
def Dev.readW (d : Dev) (ci slot lane code : Nat) : Nat :=
  let g := d.group ci slot
  if code < 0x80 then (Tab.get g.regs (lane * 128 + code) 0).toNat
  else if code < 0xC0 then (Tab.get g.uni (code - 0x80) 0).toNat
  else if code < 0xC7 then b2n (Tab.get g.preds (lane * 8 + (code - 0xC0)) false)
  else match code with
    | 0xC7 => 1
    | 0xC8 => lane
    | 0xC9 => g.index % 2 ^ 32
    | 0xCA => (d.launch g.launch).groups % 2 ^ 32
    | 0xCB => ci
    | 0xCC => clusterOf ci
    | 0xCD => d.cycle % 2 ^ 32
    | 0xCE => d.time.epoch % 2 ^ 32
    | 0xCF => (g.index * 32 + lane) % 2 ^ 32
    | _ => 0

/-- A code that names a register pair; any other code is one word, zero-extended. -/
def isReg (code : Nat) : Bool := code < 0xC0

/-- The 64-bit value of a pair (02 R81). -/
def Dev.readP (d : Dev) (ci slot lane code : Nat) : Nat :=
  d.readW ci slot lane code + (if isReg code then 2 ^ 32 * d.readW ci slot lane (code + 1) else 0)

/-- `n` consecutive words from a code, low word first. -/
def Dev.readN (d : Dev) (ci slot lane code : Nat) : Nat → Nat
  | 0 => 0
  | n + 1 => d.readW ci slot lane code + 2 ^ 32 * d.readN ci slot lane (code + 1) n

/-- Predicate `p` of a lane; 7 is true. -/
def Dev.readPred (d : Dev) (ci slot lane p : Nat) : Bool := p = 7 || d.readW ci slot lane (0xC0 + p) == 1

/-- The lanes for which the guard holds, with their group slots (02 Table 2-4). -/
def Dev.active (d : Dev) (ci : Nat) (s : Strand) (w : BitVec 64) : List (Nat × Nat) :=
  s.lanes.filter (fun e => (d.readPred ci e.2 e.1 (predOf w)) != (wf w 55 55 == 1))

/-! ### Writing results -/

/-- A word written through an operand code for one lane; a predicate keeps bit 0, code 0xFF discards. -/
def Dev.writeW (d : Dev) (ci slot lane code v : Nat) : Dev :=
  if code < 0x80 then d.modGroup ci slot (fun g =>
    { g with regs := Tab.put g.regs (lane * 128 + code) (BitVec.ofNat 32 v) })
  else if code < 0xC0 then d.modGroup ci slot (fun g =>
    { g with uni := Tab.put g.uni (code - 0x80) (BitVec.ofNat 32 v) })
  else if code < 0xC7 then d.modGroup ci slot (fun g =>
    { g with preds := Tab.put g.preds (lane * 8 + (code - 0xC0)) (v % 2 == 1) })
  else d

/-- `n` words from a code for one lane, low word first. -/
def Dev.writeN (d : Dev) (ci slot lane code v : Nat) : Nat → Dev
  | 0 => d
  | n + 1 => (d.writeW ci slot lane code (v % 2 ^ 32)).writeN ci slot lane (code + 1) (v / 2 ^ 32) n

/-- The lanes that write a destination: every active lane, but for a uniform register each group's lowest (02 R65). -/
def writers (act : List (Nat × Nat)) (code : Nat) : List (Nat × Nat) :=
  if 0x80 ≤ code && code < 0xC0 then
    act.filter (fun e => (act.find? (fun x => x.2 == e.2)).any (fun x => x.1 == e.1))
  else act

/-- Results of the active lanes written to a destination of `n` words. -/
def Dev.writeLanes (d : Dev) (ci : Nat) (act : List (Nat × Nat)) (code n : Nat) (v : Nat → Nat → Nat) : Dev :=
  if code = 0xFF then d else
  (writers act code).foldl (fun e x => e.writeN ci x.2 x.1 code (v x.1 x.2) n) d

/-! ### Retiring -/

/-- An instruction of a strand retires: the watchdogs of its groups start again (02 R97). -/
def Dev.retire (d : Dev) (ci : Nat) (s : Strand) : Dev :=
  s.slots.foldl (fun e g => e.modGroup ci g (fun x => { x with watch := 0 })) d

/-- A strand's program counter. -/
def Dev.goto (d : Dev) (ci sid pc : Nat) : Dev :=
  match d.strand? ci sid with
  | none => d
  | some s => (d.setStrand ci sid { s with pc := pc % 2 ^ 48, wait := .ready, backoff := 0 }).retire ci s

/-- The strand retires its instruction and goes on to the next word. -/
def Dev.advance (d : Dev) (ci sid : Nat) : Dev :=
  match d.strand? ci sid with
  | none => d
  | some s => d.goto ci sid (s.pc + 8)

/-- A strand splits: its lanes `keep` stay in it, the others form one new strand each of the given lanes, program counter
and wait (02 R60). -/
def Dev.split (d : Dev) (ci sid : Nat) (keep : Tab Nat) (pc : Nat) (wait : Wait) (rest : List (Tab Nat × Nat × Wait)) : Dev :=
  let d := d.modStrand ci sid (fun s => { s with lanes := keep, pc := pc % 2 ^ 48, wait := wait })
  rest.foldl (fun e r =>
    let n := (e.core ci).nextStrand
    let e := e.setStrand ci n { pc := r.2.1 % 2 ^ 48, lanes := r.1, wait := r.2.2, pair := none, backoff := 0 }
    e.modCore ci (fun c => { c with nextStrand := n + 1 })) d

/-- The strand's thread of one lane: what a fault of that lane alone is recorded for (02 R98). -/
def Strand.one (s : Strand) (e : Nat × Nat) : Strand := { s with lanes := [e] }

/-- A job fault of a core (02 R98), recorded for the group of the strand's lowest lane: the core stops issuing. -/
def Dev.coreFault (d : Dev) (ci : Nat) (s : Strand) (code addr : Nat) : Dev :=
  let g := d.group ci (s.slots.headD 0)
  let l := d.launch g.launch
  (d.raise { code := code, unit := 0, index := ci, part := l.part, func := (d.part l.part).cfg.func, ctx := l.ctx,
             pc := s.pc, group := g.index, addr := addr }).modCore ci (fun c => { c with stopped := true })

/-- The DVA a format-M or format-X instruction names for a lane: the pair of SRCA plus the offset; bits [63:48] of the
pair are ignored. -/
def Dev.laneAddr (d : Dev) (ci slot lane : Nat) (w : BitVec 64) (off : Int) : Nat :=
  toBits 48 ((d.readP ci slot lane (srcaOf w) : Int) + off)

end Sys2Proof.Machine
end

