-- ==== Sys2Proof/Machine/CoreMem.lean ====
section
/-! DEFINITION. The completion of blocked instructions, and the memory operations that a core performs in its own purse
(04 R143, R145, R165, R169, R587; 02 R93-R95). -/

namespace Sys2Proof.Machine

/-! ### Completion of a blocked instruction -/

/-- The words that a blocked instruction's answer writes to DST for each lane; 0: it writes none (02 R587, 04 R171, and
the defining chapters). -/
def resultWords (w : BitVec 64) : Nat :=
  match opcOf w with
  | 0x50 => if sizeOf w ≤ 2 then 1 else if sizeOf w = 3 then 2 else 4
  | 0x52 => if wf w 9 9 = 0 then 0 else if wf w 11 11 = 1 then 2 else 1
  | 0x61 => if wf w 12 12 = 1 then 2 else 1
  | 0x64 => if wf w 15 15 = 1 then 1 else 2
  | 0x66 => 2
  | 0x69 => 2
  | 0x6A => 1
  | _ => 0

/-- The lock word's address of a lane. -/
def Dev.lockAddr (d : Dev) (ci : Nat) (w : BitVec 64) (e : Nat × Nat) : Nat := d.laneAddr ci e.2 e.1 w (offsetOf w)

/-- The lanes that acquired: the old value of the word was 0. Of the lanes that name one word in an attempt, only the
lowest tries (02 R93); the others are answered as failed. -/
def Dev.lockWon (_ : Dev) (s : Strand) (done : List (Nat × Nat)) : Tab Nat :=
  s.lanes.filter (fun e => done.any (fun x => x.1 == e.1 && x.2 == 0))

/-- An acquire attempt has been answered in every lane. Outside a region the lanes that acquired (and the lanes the guard
left out) continue and the others back off: 16 a-cycles, doubling to at most 64. Inside, the strand backs off until every
lane holds its lock (02 R94, R95). -/
def Dev.finishAcquire (d : Dev) (ci sid : Nat) (s : Strand) (w : BitVec 64) (done : List (Nat × Nat)) : Dev :=
  let got := d.lockWon s done
  let lost := s.lanes.filter (fun e => done.any (fun x => x.1 == e.1) && !(got.any (fun g => g.1 == e.1)))
  let next := min 64 (if s.backoff = 0 then 16 else 2 * s.backoff)
  if lost.isEmpty then d.advance ci sid
  else
    let go := s.lanes.filter (fun e => !(lost.any (fun x => x.1 == e.1)))
    if d.inRegion ci s || go.isEmpty then
      d.setStrand ci sid { s with wait := .backoff w (maskOf 32 (got.map (·.1))), backoff := next }
    else
      -- the lanes that failed keep the strand and its back-off; those that go on form the new one
      ((d.retire ci { s with lanes := go }).split ci sid lost s.pc (.backoff w 0) [(go, s.pc + 8, .ready)]).modStrand ci sid
        (fun s => { s with backoff := next })

/-- Every part of a blocked instruction has been answered: results are written and the strand goes on. `done` gives each
lane's answer (for TWAIT and LQRY, each group slot's). -/
def Dev.finishOp (d : Dev) (ci sid : Nat) (s : Strand) (w : BitVec 64) (done : List (Nat × Nat)) : Dev :=
  let val := fun k => ((done.find? (fun x => x.1 == k)).map (·.2)).getD 0
  let act := s.lanes.filter (fun e => done.any (fun x => x.1 == e.1))
  match opcOf w with
  | 0x48 => d.finishAcquire ci sid s w done
  | 0x49 =>
    let got := d.lockWon s done
    (d.writeLanes ci act (dstOf w) 1 (fun l _ => b2n (got.any (fun g => g.1 == l)))).advance ci sid
  | 0x61 =>
    let n := resultWords w
    let d := d.writeLanes ci act (dstOf w) n (fun l _ => val l % 2 ^ (32 * n))
    let d := if wf w 7 7 = 1 then d.writeLanes ci act (dstOf w + n) 1 (fun l _ => val l / 2 ^ 64) else d
    d.advance ci sid
  | 0x63 => (d.writeLanes ci (d.active ci s w) (dstOf w) 1 (fun _ g => val g)).advance ci sid
  | 0x68 => (d.writeLanes ci (d.active ci s w) (dstOf w) 1 (fun _ g => val g)).advance ci sid
  | _ =>
    let n := resultWords w
    (if n = 0 then d else d.writeLanes ci act (dstOf w) n (fun l _ => val l)).advance ci sid

/-- One part of a blocked instruction is answered: `key` of what is left, with the value for `lane`. -/
def Dev.answer (d : Dev) (ci sid key lane v : Nat) : Dev :=
  match d.strand? ci sid with
  | none => d
  | some s =>
    match s.wait with
    | .op w left done =>
      if !left.contains key then d else
      let left := left.erase key
      let done := done ++ [(lane, v)]
      if left.isEmpty then d.finishOp ci sid s w done
      else d.setStrand ci sid { s with wait := .op w left done }
    | .fence left sys =>
      let left := left.erase key
      if left.isEmpty then d.advance ci sid else d.setStrand ci sid { s with wait := .fence left sys }
    | _ => d

/-! ### Memory operations on a line -/

/-- The value an atomic leaves (04 Table 4-12); `n` is its width in bits. -/
def atomNew (op n : Nat) (signed : Bool) (old a cmp : Nat) : Nat :=
  let less := if signed then decide (sext n old < sext n a) else decide (old < a)
  match op with
  | 0x0 => a
  | 0x1 => if old = cmp then a else old
  | 0x2 => (old + a) % 2 ^ n
  | 0x3 => old &&& a
  | 0x4 => old ||| a
  | 0x5 => old ^^^ a
  | 0x6 => if less then old else a
  | 0x7 => if less then a else old
  | 0x8 => if old ≥ a then 0 else old + 1
  | 0x9 => if old = 0 || old > a then a else old - 1
  | 0xA => fpElem 0x20 0 fmtF32 old a 0
  | 0xB => fpElem 0x24 0 fmtF32 old a 0
  | 0xC => fpElem 0x25 0 fmtF32 old a 0
  | _ => old

def MemOp.line (o : MemOp) : Nat := o.pa / 128
def MemOp.off (o : MemOp) : Nat := o.pa % 128
def MemOp.mask (o : MemOp) : LineMask := spanMask o.off o.size

def MemKind.isLoad : MemKind → Bool
  | .load => true
  | _ => false

/-- What an operation stores, if anything, given the old value. -/
def MemOp.newValue (o : MemOp) (old : Nat) : Option Nat :=
  match o.kind with
  | .load => none
  | .store v => some v
  | .rmw op signed a cmp => some (atomNew op (8 * o.size) signed old a cmp)

/-- The first poisoned granule an operation consumes; a plain store consumes none (04 R180). -/
def MemOp.consumes (o : MemOp) (poison : BitVec 16) : Option Nat :=
  match o.kind with
  | .store _ => none
  | _ => (onesOf poison).find? (touchesGranule o.mask)

/-- A poisoned granule consumed by a core's operation: job fault MEM_UNCORRECTABLE, with its address in VLT_ERR_LOG. -/
def Dev.opPoisoned (d : Dev) (ci : Nat) (o : MemOp) (k : Nat) : Dev :=
  let a := o.line * 128 + 8 * k
  let d := { d with mem := { d.mem with errLog := a } }
  (d.raise { code := 0x0A, unit := 0, index := ci, part := o.part, func := (d.part o.part).cfg.func, ctx := o.ctx,
             pc := o.pc, group := o.gindex, addr := a }).modCore ci (fun c => { c with stopped := true })

def Dev.dropOp (d : Dev) (ci id : Nat) : Dev := d.modCore ci (fun c => { c with ops := Tab.del c.ops id })

/-- The strand waits for operations of the memory pipeline: LCK.ACQ, LCK.TRY, LD, ATOM or FENCE (02 R87, R93). -/
def Wait.onOps : Wait → Bool
  | .op w _ _ => [0x48, 0x49, 0x50, 0x52].contains (opcOf w)
  | .fence _ _ => true
  | _ => false

/-- An operation has been performed with this old value: it leaves the core, and its strand hears the answer. -/
def Dev.opDone (d : Dev) (ci id : Nat) (o : MemOp) (v : Nat) : Dev :=
  let e := d.dropOp ci id
  (((e.core ci).strands.filter (fun x => x.2.wait.onOps)).map (·.1)).foldl (fun e sid => e.answer ci sid id o.lane v) e

/-- Every earlier operation that must come first has been performed: those on the same line, and for a release every one
of the core (04 R165, R169). -/
def Core.opClear (c : Core) (id : Nat) (o : MemOp) : Bool :=
  !(c.ops.any (fun e => decide (e.1 < id) && (o.rel || e.2.line == o.line)))

/-- The operation can be performed in the purse: its line is held, for a write in E or M. -/
def Core.opReady (c : Core) (id : Nat) (o : MemOp) : Bool :=
  !o.atHome && c.opClear id o &&
    (match Tab.get? c.l1 o.line with
     | none => false
     | some l => o.kind.isLoad || l.st != .s)

def Core.putL1 (c : Core) (line : Nat) (l : L1Line) : Core := { c with l1 := Tab.put c.l1 line l }

/-- An operation performed on the purse's line. -/
def Dev.performL1 (d : Dev) (ci id : Nat) (o : MemOp) : Dev :=
  match Tab.get? (d.core ci).l1 o.line with
  | none => d
  | some l =>
    match o.consumes l.poison with
    | some k => (d.dropOp ci id).opPoisoned ci o k
    | none =>
      let old := leNat (lineBytes l.data o.off o.size)
      let d := match o.newValue old with
        | none => d
        | some v => d.modCore ci (fun c => c.putL1 o.line
            { l with st := .m, data := lineSet l.data o.off (toLe o.size v), poison := mergePoison o.mask l.poison 0 })
      d.opDone ci id o old

/-- Operations performed in the purse, oldest first, until none is ready. -/
def Dev.drain (d : Dev) (ci : Nat) : Nat → Dev
  | 0 => d
  | n + 1 =>
    let c := d.core ci
    match c.ops.find? (fun e => c.opReady e.1 e.2) with
    | none => d
    | some (id, o) => (d.performL1 ci id o).drain ci n

/-- A store that waits for a line held in S asks for an upgrade (04 R163). -/
def Dev.askUpgrades (d : Dev) (ci line : Nat) : Dev :=
  let c := d.core ci
  match Tab.get? c.l1 line, c.ops.find? (fun e => e.2.line == line && !e.2.atHome && !e.2.kind.isLoad) with
  | some l, some (_, o) =>
    if l.st == .s && !(Tab.has c.misses line) then
      let m : Miss := { write := true, granted := false, attr := o.attr, part := o.part }
      d.setCore ci { c with misses := Tab.put c.misses line m }
    else d
  | _, _ => d

/-- The way of an L1 set that a new line takes: a free one, else a streaming line's, else the round-robin candidate's
(04 R143, R145). Answers the way, the line it displaces, and whether the pointer moves. -/
def Core.l1Victim (c : Core) (line : Nat) : Nat × Option Nat × Bool :=
  let set := c.l1.filter (fun e => e.1 % 256 == line % 256)
  let ways := (List.range 8).filter (fun w => decide (c.split ≤ w))
  match ways.find? (fun w => !(set.any (fun e => e.2.way == w))) with
  | some w => (w, none, false)
  | none =>
    match set.find? (fun e => e.2.streaming) with
    | some e => (e.2.way, some e.1, false)
    | none =>
      let p := Tab.get c.l1rr (line % 256) 0
      let w := c.split + p % max 1 (8 - c.split)
      (w, (set.find? (fun e => e.2.way == w)).map (·.1), true)

/-- A line leaves the L1: silently from S, with a notice or write-back on its way from E or M (04 Table 4-9). -/
def Core.l1Evict (c : Core) (line : Nat) : Core :=
  match Tab.get? c.l1 line with
  | none => c
  | some l =>
    let c := { c with l1 := Tab.del c.l1 line }
    if l.st == .s then c else { c with leaving := Tab.put c.leaving line l }

/-- A granted line is installed in the L1; an upgrade keeps the data the purse holds (04 R163). -/
def Core.install (c : Core) (line : Nat) (st : L1State) (data : Line) (poison : BitVec 16) (attr : Nat) : Core :=
  let c := { c with misses := Tab.del c.misses line }
  match Tab.get? c.l1 line with
  | some l => { c with l1 := Tab.put c.l1 line { l with st := st } }
  | none =>
    let (w, out, move) := c.l1Victim line
    let c := match out with | some v => c.l1Evict v | none => c
    let c := if move then { c with l1rr := Tab.put c.l1rr (line % 256) ((w - c.split + 1) % max 1 (8 - c.split)) } else c
    c.putL1 line { st := st, way := w, data := data, poison := poison, streaming := attr == 3, attr := attr }

/-- A response reaches its core: a granted line is installed and the operations that waited for it are performed, or an
operation performed at its home is answered. -/
def Dev.deliver (d : Dev) (r : Resp) : Dev :=
  match r.op with
  | some id =>
    match Tab.get? (d.core r.core).ops id with
    | some o => (let e := d.opDone r.core id o r.value; e.drain r.core ((e.core r.core).ops.length + 1))
    | none => d
  | none =>
    match r.grant with
    | none => d
    | some st =>
      let c := d.core r.core
      let attr := match Tab.get? c.misses r.line with | some m => m.attr | none => 0
      let d := d.setCore r.core (c.install r.line st r.data r.poison attr)
      (d.drain r.core ((d.core r.core).ops.length + 1)).askUpgrades r.core r.line

end Sys2Proof.Machine
end

