-- ==== Sys2Proof/Machine/Fail.lean ====
section
/-! DEFINITION. Failed accesses: fault records and the job faults they lead to (05 R192, R197, R198; 04 R180). -/

namespace Sys2Proof.Machine

/-- Kinds of access (05 R189, Table 5-7 ACCESS). -/
inductive Acc where
  | read | write | atomic | maint | fetch
  deriving DecidableEq, Repr

def Acc.code : Acc → Nat
  | .read => 0
  | .write => 1
  | .atomic => 2
  | .maint => 3
  | .fetch => 4

/-- Who an access belongs to: its requester, the UNIT and INDEX of Table 5-7, and the context it is translated in. -/
structure Agent where
  rq : Rq
  unit : Nat
  index : Nat
  ctx : Nat
  deriving DecidableEq, Repr

/-- Why an access failed: a translation failure (05 Table 5-8) or a poisoned granule. -/
inductive AccFail where
  | xlat (type level entryPa dva : Nat)
  | poison (pa : Nat)
  deriving DecidableEq, Repr

def FaultRec.none : FaultRec :=
  { time := 0, req := 0, unit := 0, index := 0, level := 0, entryPa := 0, valid := false, more := false, access := 0,
    type := 0, dva := 0 }

/-- A failure in a context is recorded (05 R198): captured while VALID is 0, else MORE and XLAT_FAULT. -/
def Dev.recordFail (d : Dev) (a : Agent) (k : Acc) (type level entryPa dva : Nat) : Dev :=
  let r := Tab.get d.mmu.recs a.ctx FaultRec.none
  let put := fun (x : FaultRec) => { d with mmu := { d.mmu with recs := Tab.put d.mmu.recs a.ctx x } }
  let f := (d.ctx a.ctx).func
  if r.valid then (put { r with more := true }).violFn f 2
  else
    let d := put { time := d.time.ts, req := a.rq.id, unit := a.unit, index := a.index, level := level,
                   entryPa := entryPa, valid := true, more := false, access := k.code, type := type, dva := dva }
    let ev := (d.func f).eventVec
    if bitOf ev 7 then d.raiseVec f (fld ev 5 0) else d

/-- The job fault of a failed access (05 Table 5-6, 04 R180) by a unit that is no core: PC and GROUP 0. -/
def Dev.agentFault (d : Dev) (a : Agent) (part : Nat) (x : AccFail) : Dev :=
  let mk := fun (code addr : Nat) => d.raise
    { code := code, unit := a.unit, index := a.index, part := part, func := (d.part part).cfg.func, ctx := a.ctx,
      pc := 0, group := 0, addr := addr }
  match x with
  | .xlat _ _ _ dva => mk 0x09 dva
  | .poison pa =>
    let e := mk 0x0A pa
    { e with mem := { e.mem with errLog := pa } }

/-- A core's agent in a launch's context. -/
def Dev.coreAgent (d : Dev) (ci part ctx : Nat) : Agent := { rq := d.rqPart part, unit := 0, index := ci, ctx := ctx }

/-- A core operation whose host read failed (05 R192): it takes no effect, the failure is recorded with its DVA, and its
launch has the job fault TRANSLATION with its program counter. -/
def Dev.opHostError (d : Dev) (ci id : Nat) (o : MemOp) : Dev :=
  let acc := match o.kind with | .load => Acc.read | .store _ => Acc.write | .rmw .. => Acc.atomic
  let d := (d.dropOp ci id).recordFail (d.coreAgent ci o.part o.ctx) acc 9 0 0 o.dva
  (d.raise { code := 0x09, unit := 0, index := ci, part := o.part, func := (d.part o.part).cfg.func, ctx := o.ctx,
             pc := o.pc, group := o.gindex, addr := o.dva }).modCore ci (fun c => { c with stopped := true })

end Sys2Proof.Machine
end

