-- ==== Sys2Proof/Machine/Directory.lean ====
section
/-! DEFINITION. The directory and the transactions that keep the purses coherent (04 R152, R161-R164). -/

namespace Sys2Proof.Machine

/-- The line is on its way to the core: granted, and not yet installed. -/
def Dev.grantInFlight (d : Dev) (ci line : Nat) : Bool :=
  d.mem.resps.any (fun r => r.core == ci && r.line == line && r.grant.isSome) ||
  (match Tab.get? d.mem.missRegs line with
   | none => false
   | some m => m.waiters.any (fun w => match w with | .grant c _ => c == ci | .op .. => false))

/-- The requester of a core: its partition's (04 Table 4-5). -/
def Dev.rqCore (d : Dev) (ci : Nat) : Rq := d.rqPart ((d.core ci).lastPart.getD 0)

/-- Dirty data of a purse's line written to its home slice. -/
def Dev.writeBack (d : Dev) (ci line : Nat) (l : L1Line) : Dev :=
  if l.st = .m then d.sliceWrite (d.rqCore ci) l.attr line fullMask l.data l.poison else d

/-- The cores that may hold a copy, by a directory state (04 R163). -/
def Dev.sharers (d : Dev) (st : DirState) : List Nat :=
  match st with
  | .sp cs => cs
  | .sc v => (onesOf v).flatMap (fun c => ((List.range 16).map (fun u => c * 16 + u)).filter d.plan.coreOk)
  | .x c => [c]

def Dev.dirOf (d : Dev) (line : Nat) : Option DirState := (Tab.get? d.mem.dir line).map (·.st)

def Dev.sharersOf (d : Dev) (line : Nat) : List Nat :=
  match d.dirOf line with
  | none => []
  | some st => d.sharers st

def Dev.delDir (d : Dev) (line : Nat) : Dev := { d with mem := { d.mem with dir := Tab.del d.mem.dir line } }

/-- A read of a line for function `f` that goes to the host fails (05 R192): the host refuses it, or the function may not issue
requests (17 R536). A line that the vault or its owner's purse holds is not read from the host. -/
def Dev.hostRefuses (d : Dev) (f line : Nat) : Bool :=
  isHostLine line && !Tab.has d.mem.vault line &&
  !(match d.dirOf line with | some (.x o) => Tab.has (d.core o).l1 line || Tab.has (d.core o).leaving line | _ => false) &&
  (!d.masterOk f || d.mem.refused.contains line)

/-- A write of the bytes of `mask` first fills the line at its home slice (04 Table 4-4). -/
def Dev.writeFills (d : Dev) (rq : Rq) (attr line : Nat) (mask : LineMask) : Bool :=
  !Tab.has d.mem.vault line && (attr == 0 || attr == 1 || attr == 3) && d.allocMask rq.id != 0 && mask != fullMask

/-- A purse loses its copy of a line at once, with dirty data written back. -/
def Dev.dropCopy (d : Dev) (line ci : Nat) : Dev :=
  let c := d.core ci
  match Tab.get? c.l1 line, Tab.get? c.leaving line with
  | some l, _ => (d.setCore ci { c with l1 := Tab.del c.l1 line }).writeBack ci line l
  | none, some l => (d.setCore ci { c with leaving := Tab.del c.leaving line }).writeBack ci line l
  | none, none => d

/-- The directory set of a line: its slice and the index the manual leaves open. -/
def Dev.dirSet (d : Dev) (line : Nat) : Nat := d.sliceOf line * 4096 + Config.dirSet line % 4096

/-- An entry's state, in its way or in a new one; a full set first evicts an entry, round-robin, by invalidating every
purse copy of its line (04 R161). -/
def Dev.setDir (d : Dev) (line : Nat) (st : DirState) : Dev :=
  match Tab.get? d.mem.dir line with
  | some e => { d with mem := { d.mem with dir := Tab.put d.mem.dir line { e with st := st } } }
  | none =>
    let set := d.dirSet line
    let es := d.mem.dir.filter (fun e => d.dirSet e.1 == set)
    let (way, d) := match (List.range 12).find? (fun w => !(es.any (fun e => e.2.way == w))) with
      | some w => (w, d)
      | none =>
        let p := Tab.get d.mem.dirRR set 0
        let order := (List.range 12).map (fun i => (p + i) % 12)
        let free := fun w => es.any (fun e => e.2.way == w && !(Tab.has d.mem.txns e.1))
        let w := (order.find? free).getD p
        let d := { d with mem := { d.mem with dirRR := Tab.put d.mem.dirRR set ((w + 1) % 12) } }
        let out := fun (d : Dev) (e : Nat × DirEnt) =>
          (((d.sharers e.2.st).foldl (fun (d : Dev) c => d.dropCopy e.1 c) d).delDir e.1).countSlice (d.sliceOf e.1) 5 1
        (w, (es.filter (fun (e : Nat × DirEnt) => e.2.way == w)).foldl out d)
    { d with mem := { d.mem with dir := Tab.put d.mem.dir line { way := way, st := st } } }

/-- A core added to a line's sharers: exact up to four, then the clusters' vector (04 Table 4-9). -/
def addSharer (st : Option DirState) (ci : Nat) : DirState :=
  match st with
  | some (.sp cs) =>
    let cs := if cs.contains ci then cs else cs ++ [ci]
    if cs.length ≤ 4 then .sp cs else .sc (maskOf 64 (cs.map clusterOf))
  | some (.sc v) => .sc (setBit v (clusterOf ci) true)
  | some (.x o) => if o = ci then .x ci else .sp [o, ci]
  | none => .sp [ci]

def Dev.respond (d : Dev) (r : Resp) : Dev := { d with mem := { d.mem with resps := d.mem.resps ++ [r] } }

def Dev.putTxn (d : Dev) (line : Nat) (t : Txn) : Dev := { d with mem := { d.mem with txns := Tab.put d.mem.txns line t } }

def Dev.markGranted (d : Dev) (ci line : Nat) : Dev :=
  d.modCore ci (fun c => { c with misses := Tab.mod c.misses line (fun m => { m with granted := true }) })

/-- The home slice supplies a line to a core with a grant: from the vault, or through a miss register (04 R152). -/
def Dev.supply (d : Dev) (ci line : Nat) (st : L1State) (data : Option (Line × BitVec 16)) (attr : Nat) : Dev :=
  let d := d.markGranted ci line
  let r : Resp := { core := ci, line := line, grant := some st, data := 0, poison := 0, op := none, value := 0 }
  match data with
  | some (x, p) => d.respond { r with data := x, poison := p }
  | none =>
    if Tab.has (d.core ci).l1 line then d.respond r else
    match Tab.get? d.mem.vault line with
    | some v => (d.countSlice (d.sliceOf line) 0 1).respond { r with data := v.data, poison := v.poison }
    | none =>
      let d := d.countSlice (d.sliceOf line) 1 1
      let m : MissReg := Tab.get d.mem.missRegs line { req := (d.rqCore ci).id, attr := attr, waiters := [] }
      let m := { m with waiters := m.waiters ++ [.grant ci st] }
      { d with mem := { d.mem with missRegs := Tab.put d.mem.missRegs line m } }

/-- An operation performed at its home slice (04 R163, R171), its answer on the way back. -/
def Dev.performHome (d : Dev) (ci id : Nat) : Dev :=
  match Tab.get? (d.core ci).ops id with
  | none => d
  | some o =>
    let rq := d.rqPart o.part
    if d.hostRefuses rq.func o.line && (!(o.kind matches .store _) || d.writeFills rq o.attr o.line o.mask) then
      d.opHostError ci id o else
    let store := match o.kind with | .store _ => true | _ => false
    let (data, poison, d) := if store then (0, 0, d) else d.sliceRead rq o.attr o.line
    match o.consumes poison with
    | some k => (d.dropOp ci id).opPoisoned ci o k
    | none =>
      let old := leNat (lineBytes data o.off o.size)
      let d := match o.newValue old with
        | none => d
        | some v => d.sliceWrite rq o.attr o.line o.mask (lineSet 0 o.off (toLe o.size v)) 0
      d.respond { core := ci, line := o.line, grant := none, data := 0, poison := 0, op := some id, value := old }

/-- A transaction's last acknowledgement has arrived (04 R163): its request is served. -/
def Dev.serve (d : Dev) (line : Nat) (req : DirReq) (data : Option (Line × BitVec 16)) : Dev :=
  match req with
  | .read ci =>
    match Tab.get? (d.core ci).misses line with
    | none => d
    | some m =>
      match d.dirOf line with
      | none =>
        if m.attr = 1 then (d.setDir line (.sp [ci])).supply ci line .s data m.attr
        else (d.setDir line (.x ci)).supply ci line .e data m.attr
      | some st => (d.setDir line (addSharer (some st) ci)).supply ci line .s data m.attr
  | .write ci =>
    match Tab.get? (d.core ci).misses line with
    | none => d
    | some m => (d.setDir line (.x ci)).supply ci line .m data m.attr
  | .op ci id => (d.delDir line).performHome ci id

/-- A request at the directory: it waits behind a transaction in progress, else it invalidates or forwards as Table 4-9
says, or is served at once. -/
def Dev.dirRequest (d : Dev) (line : Nat) (req : DirReq) : Dev :=
  match Tab.get? d.mem.txns line with
  | some t => d.putTxn line { t with queue := t.queue ++ [req] }
  | none =>
    let t : Txn := { req := req, inv := [], fwd := none, wb := none, data := none, queue := [] }
    match req with
    | .read ci =>
      match d.dirOf line with
      | some (.x o) => if o = ci then d.serve line req none else d.putTxn line { t with fwd := some o }
      | _ => d.serve line req none
    | .write ci =>
      let others := (d.sharersOf line).filter (fun c => c != ci)
      if others.isEmpty then d.serve line req none else d.putTxn line { t with inv := others }
    | .op _ _ =>
      let all := d.sharersOf line
      if all.isEmpty then d.serve line req none else d.putTxn line { t with inv := all }

/-- The requests that waited behind a transaction, in arrival order, until one is in progress again. -/
def Dev.dirNext (d : Dev) (line : Nat) : List DirReq → Dev
  | [] => d
  | r :: rest =>
    let d := d.dirRequest line r
    match Tab.get? d.mem.txns line with
    | some t => d.putTxn line { t with queue := t.queue ++ rest }
    | none => d.dirNext line rest

/-- The entry leaves B when every acknowledgement is in. -/
def Dev.dirAck (d : Dev) (line : Nat) : Dev :=
  match Tab.get? d.mem.txns line with
  | none => d
  | some t =>
    if t.inv.isEmpty && t.fwd.isNone && t.wb.isNone then
      let d := { d with mem := { d.mem with txns := Tab.del d.mem.txns line } }
      (d.serve line t.req t.data).dirNext line t.queue
    else d

/-- A purse takes an invalidation (04 R163, R164): its copy is dropped and a former owner's data goes with the
acknowledgement; a line already leaving is answered "not present", and its write-back is awaited. -/
def Dev.invalidateAt (d : Dev) (ci line : Nat) : Dev :=
  match Tab.get? d.mem.txns line with
  | none => d
  | some t =>
    if !t.inv.contains ci then d else
    let t := { t with inv := t.inv.erase ci }
    let c := d.core ci
    match Tab.get? c.l1 line with
    | some l =>
      let d := d.setCore ci { c with l1 := Tab.del c.l1 line }
      match t.req with
      | .write _ =>
        if l.st = .s then d.putTxn line t else d.putTxn line { t with data := some (l.data, l.poison) }
      | _ => (d.putTxn line t).writeBack ci line l
    | none =>
      if Tab.has c.leaving line then d.putTxn line { t with wb := some ci } else d.putTxn line t

/-- An owner takes a forward (04 R163, R164): it returns data and keeps S. -/
def Dev.forwardAt (d : Dev) (ci line : Nat) : Dev :=
  match Tab.get? d.mem.txns line with
  | none => d
  | some t =>
    if t.fwd != some ci then d else
    let t := { t with fwd := none }
    let c := d.core ci
    match Tab.get? c.l1 line with
    | some l =>
      let d := (d.setCore ci (c.putL1 line { l with st := .s })).putTxn line t
      (d.writeBack ci line l).setDir line (.sp [ci])
    | none =>
      if Tab.has c.leaving line then d.putTxn line { t with wb := some ci }
      else (d.putTxn line t).delDir line

/-- A notice or write-back of a leaving line reaches the slice (04 Table 4-9). -/
def Dev.evictArrives (d : Dev) (ci line : Nat) : Dev :=
  let c := d.core ci
  match Tab.get? c.leaving line with
  | none => d
  | some l =>
    let d := (d.setCore ci { c with leaving := Tab.del c.leaving line }).writeBack ci line l
    let d := if d.dirOf line == some (.x ci) then d.delDir line else d
    match Tab.get? d.mem.txns line with
    | some t => if t.wb = some ci then d.putTxn line { t with wb := none } else d
    | none => d

/-- A miss register's line could not be read from the host (05 R192): each request merged into it fails. -/
def Dev.fillFails (d : Dev) (line : Nat) (m : MissReg) : Dev :=
  let d := { d with mem := { d.mem with missRegs := Tab.del d.mem.missRegs line } }
  m.waiters.foldl (fun d w => match w with
    | .op ci id => (match Tab.get? (d.core ci).ops id with | some o => d.opHostError ci id o | none => d)
    | .grant ci _ =>
      let d := (d.delDir line).modCore ci (fun c => { c with misses := Tab.del c.misses line })
      ((d.core ci).ops.filter (fun e => e.2.line == line && !e.2.atHome)).foldl (fun d e => d.opHostError ci e.1 e.2) d) d

/-- A fill returns to a slice's miss register (04 R152): a victim is chosen, and the merged requests are served in
arrival order. `poison` marks granules that arrived poisoned. -/
def Dev.fill (d : Dev) (line : Nat) (poison : BitVec 16) : Dev :=
  match Tab.get? d.mem.missRegs line with
  | none => d
  | some m =>
    let rq : Rq := if m.req < 16 then d.rqPart m.req else if m.req < 32 then d.rqLedger (m.req - 16) else rqUnit m.req 0
    if d.hostRefuses rq.func line then d.fillFails line m else
    let d := { d with mem := { d.mem with missRegs := Tab.del d.mem.missRegs line } }
    let (data, p, d) := d.memRead rq line
    let p := p ||| poison
    let d := if allocsOnRead m.attr then
        (match d.allocate rq line data p false (m.attr == 3) with
         | some (_, d) => d.issueNlp rq m.attr line
         | none => d)
      else d
    m.waiters.foldl (fun d w => match w with
      | .op ci id => d.performHome ci id
      | .grant ci st =>
        let (x, q) := match Tab.get? d.mem.vault line with | some v => (v.data, v.poison) | none => (data, p)
        d.respond { core := ci, line := line, grant := some st, data := x, poison := q, op := none, value := 0 }) d

/-- Every response for a line that is on its way is delivered. -/
def Dev.deliverLine (d : Dev) (line : Nat) : Dev :=
  let mine := d.mem.resps.filter (fun r => r.line == line)
  let d := { d with mem := { d.mem with resps := d.mem.resps.filter (fun r => r.line != line) } }
  mine.foldl (fun d r => d.deliver r) d

/-- A line's transactions brought to their end, so that an access that arrives now finds no transaction in progress: the
events that would have come first are performed first. -/
def Dev.settle (d : Dev) (line : Nat) : Nat → Dev
  | 0 => d
  | n + 1 =>
    let d := (d.fill line 0).deliverLine line
    match Tab.get? d.mem.txns line with
    | none => d
    | some t =>
      let d := t.inv.foldl (fun d c => d.invalidateAt c line) d
      let d := match t.fwd with | some c => d.forwardAt c line | none => d
      let d := match Tab.get? d.mem.txns line with
        | some t => (match t.wb with | some c => d.evictArrives c line | none => d)
        | none => d
      (d.dirAck line).settle line n

/-- The number of rounds a line's transactions need at most. -/
def Dev.settleFuel (d : Dev) (line : Nat) : Nat :=
  match Tab.get? d.mem.txns line with
  | none => 1
  | some t => t.queue.length + 3

/-- An owner of a line keeps it in S, with its dirty data written to the slice (04 Table 4-9). -/
def Dev.ownerShares (d : Dev) (line : Nat) : Dev :=
  let d := d.settle line (d.settleFuel line)
  match d.dirOf line with
  | some (.x o) =>
    let c := d.core o
    (match Tab.get? c.l1 line with
     | some l => (((d.setCore o (c.putL1 line { l with st := .s })).writeBack o line l).setDir line (.sp [o]))
     | none => (d.dropCopy line o).delDir line)
  | _ => d

/-- A read of a line by a unit that is no core (04 Table 4-9): an owner keeps S and its dirty data goes to the slice. -/
def Dev.ncRead (d : Dev) (rq : Rq) (attr line : Nat) : Line × BitVec 16 × Dev :=
  (d.ownerShares line).sliceRead rq attr line

/-- A write of a line by a unit that is no core (04 Table 4-9): every purse copy is invalidated first. -/
def Dev.ncWrite (d : Dev) (rq : Rq) (attr line : Nat) (mask : LineMask) (data : Line) (poison : BitVec 16) : Dev :=
  let d := d.settle line (d.settleFuel line)
  let d := ((d.sharersOf line).foldl (fun d c => d.dropCopy line c) d).delDir line
  d.sliceWrite rq attr line mask data poison

/-! ### Cache maintenance (04 R172) -/

/-- A core's CFLUSH or a maintenance FLUSH of a line at system scope: dirty copies go to the slice and on to memory. -/
def Dev.flushLine (d : Dev) (rq : Rq) (line : Nat) : Dev :=
  let d := d.ownerShares line
  match Tab.get? d.mem.vault line with
  | some v => if v.dirty then (d.memWrite rq line fullMask v.data v.poison).putVault line { v with dirty := false } else d
  | none => d

/-- Every purse copy discarded without write-back. -/
def Dev.discardCopies (d : Dev) (line : Nat) : Dev :=
  let d := d.settle line (d.settleFuel line)
  ((d.sharersOf line).foldl (fun d ci =>
    d.modCore ci (fun c => { c with l1 := Tab.del c.l1 line, leaving := Tab.del c.leaving line })) d).delDir line

/-- CINV at system scope: purse copies and the vault copy discarded without write-back. -/
def Dev.invalidateLine (d : Dev) (line : Nat) : Dev := (d.discardCopies line).delVault line

end Sys2Proof.Machine
end

