-- ==== Sys2Proof/Machine/Translate.lean ====
section
/-! DEFINITION. Address translation (05 R184-R194) and the reads and writes of units that are no cores. -/

namespace Sys2Proof.Machine

/-! ### Windows and permissions (10 R355, 05 R189) -/

def Window.covers (w : Window) (pa : Nat) : Bool :=
  w.v && decide (w.base * 2 ^ 21 ≤ pa) && decide (pa < (w.base + w.size) * 2 ^ 21)

/-- A DRAM address lies inside a window of the partition that permits the access. -/
def Dev.inWindow (d : Dev) (p pa : Nat) (write : Bool) : Bool :=
  (d.part p).wins.any (fun e => e.2.covers pa && (!write || e.2.w))

def Acc.needsW : Acc → Bool
  | .write => true
  | .atomic => true
  | .maint => true
  | _ => false

/-- The bits of an address inside a leaf of cache level 0, 1 or 2; the span of a walk-cache entry for 3 to 5. -/
def tlbShift (level : Nat) : Nat := [12, 16, 21, 21, 30, 39].getD level 12

def ptePa (e : Nat) : Nat := fld e 47 12 * 4096

/-- A leaf's physical address for a DVA. -/
def leafPa (level e dva : Nat) : Nat := alignDown (ptePa e) (2 ^ tlbShift level) + dva % 2 ^ tlbShift level

/-- The checks on a leaf, in order (05 R189): the type of the first that fails. -/
def Dev.leafFail (d : Dev) (p : Nat) (k : Acc) (e pa : Nat) : Option Nat :=
  if k.needsW && !bitOf e 3 then some 5
  else if k = .fetch && !bitOf e 4 then some 6
  else if pa ≥ 2 ^ 47 then none
  else if pa ≥ d.mmu.dramSize then some 7
  else if !d.inWindow p pa k.needsW then some 8
  else none

/-- A valid page-table entry is malformed at its level (05 R187, R189). -/
def badEntry (level e : Nat) : Bool :=
  let leaf := bitOf e 1
  fld e 63 48 != 0 || fld e 11 9 != 0 || bitOf e 2 || (leaf && decide (level ≥ 2)) || (!leaf && level == 0) ||
  (bitOf e 8 && level != 0) || decide (fld e 7 5 ≥ 5) || (!leaf && (fld e 8 5 != 0 || fld e 4 3 != 0)) ||
  (leaf && level == 1 && fld e 20 12 != 0)

/-! ### The walk (05 R189, R193) -/

/-- A cached entry, where one is held. -/
def Dev.tlbFind (d : Dev) (c level dva : Nat) : Option Nat :=
  let tag := dva / 2 ^ tlbShift level
  match d.mmu.tlb.find? (fun t => t.ctx == c && t.level == level && t.tag == tag) with
  | some t => if Config.tlbHeld d.free c tag then some t.entry else none
  | none => none

def Dev.tlbPut (d : Dev) (c level dva e : Nat) : Dev :=
  let t : TlbEnt := { ctx := c, level := level, tag := dva / 2 ^ tlbShift level, entry := e }
  let rest := d.mmu.tlb.filter (fun x => !(x.ctx == c && x.level == level && x.tag == t.tag))
  { d with mmu := { d.mmu with tlb := t :: rest } }

/-- The requester of table walks. -/
def rqWalk : Rq := rqUnit 35 0

/-- Eight bytes of DRAM read by requester 35 as a write-back read. -/
def Dev.read64 (d : Dev) (ea : Nat) : Nat × Bool × Dev :=
  let (l, p, d) := (d.countGlobal 15 1).ncRead rqWalk 0 (ea / 128)
  (leNat (lineBytes l (ea % 128) 8), p.getLsbD (ea % 128 / 8), d)

/-- The walk from a table at `level` down to a leaf: the leaf with its cache level, or the first check that fails. -/
def Dev.walk (d : Dev) (c part dva table : Nat) : Nat → Except AccFail (Nat × Nat × Nat) × Dev
  | 0 => (.error (.xlat 4 0 0 dva), d)
  | n + 1 =>
    let level := n
    let ea := table + 8 * (fld dva (20 + 9 * level) (12 + 9 * level))
    let cached := if level = 0 then none else d.tlbFind c (level + 2) dva
    match cached with
    | some e => d.walk c part dva (ptePa e) n
    | none =>
      if !d.inWindow part ea false then (.error (.xlat 2 level ea dva), d) else
      let (e, bad, d) := d.read64 ea
      if bad then (.error (.poison (alignDown ea 8)), d)
      else if !bitOf e 0 then (.error (.xlat 3 level ea dva), d)
      else if badEntry level e then (.error (.xlat 4 level ea dva), d)
      else if bitOf e 1 then
        (.ok (e, if level = 1 then 2 else if bitOf e 8 then 1 else 0, ea), d)
      else (d.tlbPut c (level + 2) dva e).walk c part dva (ptePa e) n

/-- Translation of a DVA outside the on-chip window in a context: its physical address and vault attribute (05 R189). -/
def Dev.translate (d : Dev) (c dva : Nat) (k : Acc) : Except AccFail (Nat × Nat) × Dev :=
  let x := d.ctx c
  if fld dva 47 40 = 0xFF then (.error (.xlat 0xA 0 0 dva), d)
  else if !x.valid then (.error (.xlat 1 0 0 dva), d)
  else
    let hit := [0, 1, 2].findSome? (fun lv => (d.tlbFind c lv dva).map (fun e => (e, lv)))
    match hit with
    | some (e, lv) =>
      let pa := leafPa lv e dva
      (match d.leafFail x.part k e pa with
       | some t => .error (.xlat t 0 0 dva)
       | none => .ok (pa, fld e 7 5), d)
    | none =>
      let d := d.countGlobal 14 1
      match d.walk c x.part dva (x.root * 4096) 4 with
      | (.error f, d) => (.error f, d)
      | (.ok (e, lv, ea), d) =>
        let pa := leafPa lv e dva
        (match d.leafFail x.part k e pa with
         | some t => (.error (.xlat t (if lv = 2 then 1 else 0) ea dva), d)
         | none => (.ok (pa, fld e 7 5), d.tlbPut c lv dva e))

/-- Translation for an agent, a failure recorded (05 R197, R198). -/
def Dev.xlate (d : Dev) (a : Agent) (dva : Nat) (k : Acc) : Except AccFail (Nat × Nat) × Dev :=
  match d.translate a.ctx dva k with
  | (.ok r, d) => (.ok r, d)
  | (.error (.xlat t lv ea dv), d) => (.error (.xlat t lv ea dv), d.recordFail a k t lv ea dv)
  | (.error (.poison p), d) => (.error (.poison p), d)

/-! ### Reads and writes of units that are no cores -/

/-- A range cut at line boundaries: (address, length) pieces. -/
def pieces (a : Nat) : Nat → Nat → List (Nat × Nat)
  | 0, _ => []
  | _ + 1, 0 => []
  | k + 1, n =>
    let m := min n (128 - a % 128)
    (a, m) :: pieces (a + m) k (n - m)

def piecesOf (a n : Nat) : List (Nat × Nat) := pieces a (n / 128 + 2) n

/-- The vault attribute of an access: the page's, but UC for host memory where the unit says so (07 R256, R276). -/
def attrFor (hostUc : Bool) (pa attr : Nat) : Nat := if hostUc && decide (pa ≥ 2 ^ 47) then 4 else attr

/-- Bytes within one line read by an agent. -/
def Dev.agentRead1 (d : Dev) (a : Agent) (hostUc : Bool) (dva n : Nat) : Except AccFail (List Byte) × Dev :=
  match d.xlate a dva .read with
  | (.error f, d) => (.error f, d)
  | (.ok (pa, attr), d) =>
    if d.hostRefuses a.rq.func (pa / 128) then
      (.error (.xlat 9 0 0 dva), d.recordFail a .read 9 0 0 dva)
    else
      let (l, p, d) := d.ncRead a.rq (attrFor hostUc pa attr) (pa / 128)
      match (onesOf p).find? (touchesGranule (spanMask (pa % 128) n)) with
      | some k => (.error (.poison (pa / 128 * 128 + 8 * k)), d)
      | none => (.ok (lineBytes l (pa % 128) n), d)

/-- Bytes read by an agent; the first failure ends the read. -/
def Dev.agentRead (d : Dev) (a : Agent) (hostUc : Bool) (dva n : Nat) : Except AccFail (List Byte) × Dev :=
  (piecesOf dva n).foldl (fun (r : Except AccFail (List Byte) × Dev) p =>
    match r with
    | (.error f, d) => (.error f, d)
    | (.ok bs, d) => match d.agentRead1 a hostUc (p.1 % 2 ^ 48) p.2 with
      | (.error f, d) => (.error f, d)
      | (.ok x, d) => (.ok (bs ++ x), d)) (.ok [], d)

/-- Bytes within one line written by an agent; `poison` poisons every granule touched (17 R537). -/
def Dev.agentWrite1 (d : Dev) (a : Agent) (hostUc : Bool) (dva : Nat) (bs : List Byte) (poison : Bool) :
    Except AccFail Unit × Dev :=
  match d.xlate a dva .write with
  | (.error f, d) => (.error f, d)
  | (.ok (pa, attr), d) =>
    let m := spanMask (pa % 128) bs.length
    let p := if poison then maskOf 16 ((List.range 16).filter (touchesGranule m)) else 0
    if d.hostRefuses a.rq.func (pa / 128) && d.writeFills a.rq (attrFor hostUc pa attr) (pa / 128) m then
      (.error (.xlat 9 0 0 dva), d.recordFail a .write 9 0 0 dva)
    else (.ok (), d.ncWrite a.rq (attrFor hostUc pa attr) (pa / 128) m (lineSet 0 (pa % 128) bs) p)

/-- Bytes written by an agent; the first failure ends the write. -/
def Dev.agentWrite (d : Dev) (a : Agent) (hostUc : Bool) (dva : Nat) (bs : List Byte) : Except AccFail Unit × Dev :=
  (piecesOf dva bs.length).foldl (fun (r : Except AccFail Unit × Dev) p =>
    match r with
    | (.error f, d) => (.error f, d)
    | (.ok _, d) => d.agentWrite1 a hostUc (p.1 % 2 ^ 48) ((bs.drop (p.1 - dva)).take p.2) false) (.ok (), d)

/-! ### Invalidation (05 R194) -/

/-- The cached entry overlaps a range of 4 KiB pages of a context, or is a walk-cache entry of it. -/
def TlbEnt.overlaps (t : TlbEnt) (c page pages : Nat) : Bool :=
  t.ctx == c && (decide (t.level ≥ 3) ||
    (let lo := t.tag * 2 ^ (tlbShift t.level - 12)
     decide (lo < page + pages) && decide (page < lo + 2 ^ (tlbShift t.level - 12))))

def Dev.tlbDrop (d : Dev) (p : TlbEnt → Bool) : Dev :=
  { d with mmu := { d.mmu with tlb := d.mmu.tlb.filter (fun t => !p t) } }

end Sys2Proof.Machine
end

