-- ==== Sys2Proof/Machine/Issue.lean ====
section
/-! DEFINITION. Issue of a core instruction: which words are legal (02 R82, R83, R585 and the chapters of Table 2-9), the
merge at a repack point (R64), pairing (R76) and the events counted. -/

namespace Sys2Proof.Machine

/-! ### Operands an instruction names -/

/-- How an operand field is used: read as `n` words, written as `n` words, or required to hold 0xFF. -/
inductive Role where
  | rd (code n : Nat)
  | wr (code n : Nat)
  | ff (code : Nat)
  /-- A run of `n` word registers, read or written, that must lie below REGS (03 R127). -/
  | run (write : Bool) (code n : Nat)
  deriving DecidableEq, Repr

/-- Words of a TYPE's operand (02 R585). -/
def tyWords (t : Nat) : Nat := if tyWidth t = 64 then 2 else 1

/-- Words of a SIZE (04 R587). -/
def sizeWords (n : Nat) : Nat := if n ≤ 2 then 1 else if n = 3 then 2 else 4

/-- Element width in bits of a matrix number format (03 Table 3-2); 0 for a code the table does not list. -/
def mxBits (f : Nat) : Nat := [8, 8, 8, 8, 6, 6, 4, 4, 4, 2, 16, 16, 32, 32, 0, 8].getD f 0

/-- A format that a fragment can hold (03 Table 3-4). -/
def mxFragOk (f : Nat) : Bool := mxBits f != 0 && f != 0xC && f != 0xD

/-- Elements of a fragment row (03 Table 3-5). -/
def mxK (f : Nat) : Nat := match mxBits f with
  | 16 => 32
  | 4 => 128
  | 2 => 256
  | _ => 64

/-- Bytes of a fragment row (03 Table 3-4). -/
def mxRowBytes (f : Nat) : Nat := mxK f * mxBits f / 8

/-- Scale bytes of a fragment row (03 R110). -/
def mxScaleBytes (f : Nat) (blk : Bool) : Nat := mxK f / (if blk then 16 else 32)

/-- The operand fields of a legal opcode, with their use. -/
def roles (w : BitVec 64) : List Role :=
  let n := tyWords (typeOf w)
  let d := dstOf w
  let a := srcaOf w
  let b := srcbOf w
  let c := srccOf w
  let sub := subOf w
  let bR := fun (k : Nat) => if isFmtI w then [] else [Role.rd b k]
  match opcOf w with
  | 0x01 => [.wr d 1]
  | 0x02 => [.wr d n, .rd a n]
  | 0x04 => [.wr d n, .rd a n] ++ bR n
  | 0x05 => [.wr d n, .rd a n] ++ bR n
  | 0x06 => [.wr d n, .rd a n] ++ bR n
  | 0x07 => [.wr d n, .rd a n, .rd b n]
  | 0x08 => [.wr d n, .rd a n, .rd b n, .rd c n]
  | 0x09 => [.wr d n, .rd a n] ++ bR n
  | 0x0A => [.wr d n, .rd a n] ++ bR n
  | 0x0C => [.wr d n, .rd a n] ++ bR n
  | 0x0D => [.wr d n, .rd a n] ++ bR n
  | 0x0E => [.wr d n, .rd a n] ++ bR n
  | 0x10 => [.wr d n, .rd a n] ++ bR 1
  | 0x11 => [.wr d n, .rd a n] ++ bR 1
  | 0x12 => [.wr d n, .rd a n] ++ bR 1
  | 0x13 => [.wr d 1, .rd a n]
  | 0x14 => [.wr d 1, .rd a n]
  | 0x15 => [.wr d n, .rd a n]
  | 0x16 => [.wr d n, .rd a n, .rd b 1, .rd c 1]
  | 0x17 => [.wr d n, .rd a n, .rd b 1, .rd c n]
  | 0x20 => [.wr d 1, .rd a 1, .rd b 1]
  | 0x21 => [.wr d 1, .rd a 1, .rd b 1]
  | 0x22 => [.wr d 1, .rd a 1, .rd b 1]
  | 0x23 => [.wr d 1, .rd a 1, .rd b 1, .rd c 1]
  | 0x24 => [.wr d 1, .rd a 1, .rd b 1]
  | 0x25 => [.wr d 1, .rd a 1, .rd b 1]
  | 0x28 => [.wr d 1, .rd a 1]
  | 0x29 => [.wr d 1, .rd a 1]
  | 0x2A => [.wr d 1, .rd a 1]
  | 0x2B => [.wr d 1, .rd a 1]
  | 0x2C => [.wr d 1, .rd a 1]
  | 0x2D => [.wr d 1, .rd a 1]
  | 0x2E => [.wr d 1, .rd a 1]
  | 0x30 => [.wr d 1, .rd a n] ++ bR n
  | 0x31 => [.wr d n, .rd a n, .rd b n, .rd c 1]
  | 0x32 => [.wr d n, .rd a (tyWords (fld (modOf w) 7 4))]
  | 0x33 => [.wr d 1, .rd a 1, .rd b 1, .rd c 1]
  | 0x38 => [.wr d n, .rd a n, .rd b 1]
  | 0x39 => [.wr d 1, .rd a 1]
  | 0x3A => [.wr d 1, .rd a 1]
  | 0x41 => [.rd a 2]
  | 0x42 => [.wr d 2]
  | 0x43 => [.rd a 2]
  | 0x48 => [.rd d 1, .rd a 2]
  | 0x49 => [.wr d 1, .rd a 2]
  | 0x4A => [.ff d, .rd a 2]
  | 0x50 => [.wr d (sizeWords (sizeOf w)), .rd a 2]
  | 0x51 => [.rd d (sizeWords (sizeOf w)), .rd a 2]
  | 0x52 =>
    let k := if bitOf sub 11 then 2 else 1
    [if bitOf sub 9 then .wr d k else .ff d, .rd a 2, .rd b k] ++ (if fld sub 15 12 = 1 then [.rd c k] else [])
  | 0x54 => [.rd a 2]
  | 0x55 => [.rd a 2]
  | 0x60 => [.ff d, .rd a 1, .rd b (if bitOf sub 12 then 2 else 1), .ff c]
  | 0x61 =>
    let k := if bitOf sub 12 then 2 else 1
    [.wr d k, .ff a, .ff b, .ff c] ++ (if bitOf sub 7 then [.wr (d + k) 1] else [])
  | 0x62 => [.ff d, .rd a 1, .rd b 2, .ff c]
  | 0x63 => [.wr d 1, .rd a 1, .rd b 2, .ff c]
  | 0x64 => [.wr d (if bitOf sub 15 then 1 else 2), .rd a 1, .ff b, .ff c]
  | 0x66 => [.wr d 2, .ff a, .ff b, .ff c]
  | 0x67 => [.ff d, .rd a 2, .ff b, .ff c]
  | 0x68 => match fld sub 15 14 with
    | 0 => [.wr d 1, .rd a 2, .ff b, .ff c]
    | 1 => [.wr d 1, .ff a, .rd b 1, .ff c]
    | _ => [.wr d 1, .rd a 2, .rd b 1, .ff c]
  | 0x69 => match fld sub 15 14 with
    | 0 => [.wr d 2, .rd a 2, .ff b, .rd c 2]
    | 1 => [.wr d 2, .rd a 2, .run false b 4, .ff c]
    | _ => [.wr d 2, .rd a 2, .ff b, .ff c]
  | 0x6A => [.wr d 1, .rd a 2, .ff b, .ff c]
  | 0x6C => [.ff d, .run false a 8, .rd b 2, .rd c 1]
  | 0x6D => [.ff d, .ff a, .ff b, .ff c]
  | 0x6E => [.ff d, .ff a, .ff b, .ff c]
  | 0x6F => [.ff d, .ff a, .ff b, .ff c]
  | 0x70 =>
    let f := fld sub 15 12
    if !mxFragOk f then [.ff d, .ff c] else
    if bitOf sub 3 then
      [.ff d, .run false a (mxRowBytes f / 4),
       if bitOf sub 5 then .run false b (ceilDiv (mxScaleBytes f (bitOf sub 4)) 4) else .ff b, .ff c]
    else [.ff d, .rd a 2, if bitOf sub 5 && fld sub 11 8 == f then .rd b 2 else .ff b, .ff c]
  | 0x71 =>
    let f := fld sub 15 12
    if bitOf sub 6 then
      if mxBits f = 0 || (bitOf sub 11 && !mxFragOk f) then [.ff a, .ff b, .ff c] else
      [.run true d ((if bitOf sub 11 then mxRowBytes f / 4 else mxBits f) + b2n (bitOf sub 8)), .ff a, .ff b, .ff c]
    else [.ff d, .rd a 2, if bitOf sub 8 then .rd b 2 else .ff b, .ff c]
  | 0x72 => [.ff d, .ff a, .ff b, .ff c]
  | 0x73 => [.ff d, .ff a, .ff b, .ff c]
  | _ => []

/-! ### Illegal operands (02 R82, R81) -/

/-- Operand code `c` names `n` words below REGS (or below the end of the uniform file), even where more than one; a
predicate, a constant or 0xFF stands for any width. -/
def runOk (regs c n : Nat) : Bool :=
  if c < 0x80 then decide (c + n ≤ regs) && (n == 1 || c % 2 == 0)
  else if c < 0xC0 then decide (c + n ≤ 0xC0) && (n == 1 || c % 2 == 0)
  else c ≤ 0xCF || c == 0xFF

def Role.ok (regs : Nat) : Role → Bool
  | .rd c n => runOk regs c n
  | .wr c n => runOk regs c n && !(decide (0xC7 ≤ c) && decide (c ≤ 0xCF)) && (n == 1 || c < 0xC0 || c == 0xFF)
  | .ff c => c == 0xFF
  | .run _ c n => decide (c + n ≤ regs)

/-- The role list names an operand that is not allowed, or MOVS writes no uniform register. -/
def badOperand (regs : Nat) (w : BitVec 64) : Bool :=
  (roles w).any (fun r => !r.ok regs) ||
  (opcOf w == 0x3A && !(decide (0x80 ≤ dstOf w) && decide (dstOf w < 0xC0)))

/-! ### Illegal instructions (02 R82, R83, R87, R585; 04 R167; and the SUB tables) -/

/-- Opcodes of formats R and I. -/
def isFmtR (o : Nat) : Bool :=
  o == 0 || o == 2 || (4 ≤ o && o ≤ 0x0A) || (0x0C ≤ o && o ≤ 0x0E) || (0x10 ≤ o && o ≤ 0x17) || (0x20 ≤ o && o ≤ 0x25)
  || (0x28 ≤ o && o ≤ 0x2E) || (0x30 ≤ o && o ≤ 0x33) || (0x38 ≤ o && o ≤ 0x3A) || o == 0x41
  || (0x43 ≤ o && o ≤ 0x47) || o == 0x4B

/-- Opcodes that take an immediate source B. -/
def takesImm (o : Nat) : Bool :=
  [0x04, 0x05, 0x06, 0x09, 0x0A, 0x0C, 0x0D, 0x0E, 0x10, 0x11, 0x12, 0x30].contains o

/-- The opcode stands in Table 2-8 or 2-9. -/
def opcodeDefined (o : Nat) : Bool :=
  isFmtR o || o == 1 || o == 0x40 || o == 0x42 || (0x48 ≤ o && o ≤ 0x4A) || (0x50 ≤ o && o ≤ 0x55)
  || (0x60 ≤ o && o ≤ 0x64) || (0x66 ≤ o && o ≤ 0x6A) || (0x6C ≤ o && o ≤ 0x73)

/-- The TYPEs an instruction of format R takes (02 Table 2-8a). -/
def typesTaken (o : Nat) : List Nat :=
  if 4 ≤ o && o ≤ 0x17 then [0, 1, 5, 6]
  else if 0x20 ≤ o && o ≤ 0x25 then [2, 3, 4]
  else if 0x28 ≤ o && o ≤ 0x2E then [2]
  else if o == 0x30 || o == 2 || o == 0x31 || o == 0x38 || o == 0x32 then [0, 1, 2, 3, 4, 5, 6]
  else [0]

/-- The MOD bits an instruction defines (02 Table 2-7). -/
def modMask (o : Nat) : Nat :=
  if o == 0x11 then 0x001
  else if 0x20 ≤ o && o ≤ 0x25 then 0x03F
  else if o == 0x30 then 0x07F
  else if o == 0x32 then 0x0F7
  else if o == 0x33 then 0x0FF
  else if o == 0x38 || o == 0x39 then 0x003
  else 0

def badMod (o m : Nat) : Bool :=
  (m &&& modMask o) != m || (o == 0x30 && 14 ≤ m % 16) || (o == 0x39 && m % 4 == 3) || (o == 0x32 && 7 ≤ fld m 7 4)

/-- A SUB field with a reserved bit, a reserved encoding or an ORDER the instruction does not permit. -/
def badSub (o s : Nat) : Bool :=
  match o with
  | 0x52 => bitOf s 8 || s % 16 != 0 || 0xD ≤ fld s 15 12 || (bitOf s 11 && 0xA ≤ fld s 15 12)
  | 0x53 => fld s 15 8 != 0 || s % 16 != 0 || fld s 7 6 == 0
  | 0x60 => fld s 11 0 != 0
  | 0x61 => fld s 6 0 != 0
  | 0x62 => fld s 14 12 != 0 || fld s 7 0 != 0 || !([0, 2].contains (fld s 11 10))
  | 0x63 => fld s 7 0 != 0 || !([0, 1].contains (fld s 11 10))
  | 0x64 => fld s 14 12 != 0 || fld s 7 0 != 0 || !([0, 1].contains (fld s 11 10))
  | 0x66 => fld s 12 0 != 0
  | 0x67 => fld s 12 0 != 0
  | 0x68 => fld s 15 14 == 3 || fld s 13 0 != 0
  | 0x69 => fld s 15 14 == 3 || fld s 13 12 != 0 || fld s 7 0 != 0 || !([0, 2].contains (fld s 11 10))
  | 0x6A => s != 0
  | 0x6C => fld s 12 11 == 3 || fld s 4 0 != 0
  | 0x6D => fld s 7 0 != 0
  | 0x6E => s != 0
  | 0x6F => s != 0
  | 0x70 =>
    let f := fld s 15 12
    let sf := fld s 11 8
    bitOf s 0 || !mxFragOk f || !(sf == f || sf == 0xC || ((sf == 0xA || sf == 0xB) && decide (mxBits f ≤ 8))) ||
    (bitOf s 3 && sf != f) || (bitOf s 5 && mxBits f == 16)
  | 0x71 =>
    let f := fld s 15 12
    fld s 3 0 != 0 || f == 0xE || (!bitOf s 11 && bitOf s 10) || (bitOf s 6 && bitOf s 11 && !mxFragOk f) ||
    (bitOf s 8 && decide (mxBits f ≥ 16))
  | 0x72 => fld s 8 0 != 0
  | 0x73 => fld s 13 0 != 0
  | _ => false

/-- The word raises ILLEGAL_INSTRUCTION. -/
def badWord (w : BitVec 64) : Bool :=
  let o := opcOf w
  if !opcodeDefined o then true
  else if isFmtR o then
    if isFmtI w then !takesImm o
    else !((typesTaken o).contains (typeOf w)) || badMod o (wf w 11 0)
  else if o == 0x50 then sizeOf w > 4 || ordOf w / 4 ≥ 2
  else if o == 0x51 then sizeOf w > 4 || !([0, 2].contains (ordOf w / 4))
  else if o == 0x48 || o == 0x49 || o == 0x4A then sizeOf w != 2 || ordOf w / 4 != 0
  else if o == 0x54 || o == 0x55 then sizeOf w != 0 || ordOf w / 4 != 0
  else if 0x50 ≤ o then badSub o (subOf w)
  else false

/-- The job fault that a word raises at issue: 2 ILLEGAL_INSTRUCTION, 3 ILLEGAL_OPERAND. -/
def illegal (regs : Nat) (w : BitVec 64) : Option Nat :=
  if badWord w then some 2 else if badOperand regs w then some 3 else none

/-! ### Slots and pairs (02 R74, R76) -/

/-- The instruction issues in slot B. -/
def inSlotB (o : Nat) : Bool := (0x28 ≤ o && o ≤ 0x2E) || (0x38 ≤ o && o ≤ 0x3A) || (0x48 ≤ o && o ≤ 0x4A) || 0x50 ≤ o

def isControl (o : Nat) : Bool := (0x40 ≤ o && o ≤ 0x47) || o == 0x4B

/-- The operand codes an instruction writes. -/
def writesOf (w : BitVec 64) : List Nat :=
  (roles w).flatMap (fun r => match r with
    | .wr c n => if c = 0xFF then [] else (List.range n).map (c + ·)
    | .run true c n => (List.range n).map (c + ·)
    | _ => [])
  ++ (if opcOf w == 0x30 && fld (modOf w) 6 4 != 7 then [0xC0 + fld (modOf w) 6 4] else [])
  ++ (if opcOf w == 0x61 && bitOf (subOf w) 11 && fld (subOf w) 10 8 != 7 then [0xC0 + fld (subOf w) 10 8] else [])

/-- The operand codes an instruction reads, its guard among them. -/
def readsOf (w : BitVec 64) : List Nat :=
  (roles w).flatMap (fun r => match r with
    | .rd c n => if c = 0xFF then [] else (List.range n).map (c + ·)
    | .run false c n => (List.range n).map (c + ·)
    | _ => [])
  ++ (if predOf w = 7 then [] else [0xC0 + predOf w])

/-- `w2` issues in the same a-cycle as `w1` before it. -/
def pairs (w1 w2 : BitVec 64) : Bool :=
  inSlotB (opcOf w1) != inSlotB (opcOf w2) && !isControl (opcOf w1) &&
  !((writesOf w1).any (fun c => (readsOf w2 ++ writesOf w2).contains c))

/-! ### Fetch -/

/-- The poison a line holds where it would be read from. -/
def Dev.peekPoison (d : Dev) (line : Nat) : BitVec 16 :=
  match Tab.get? d.mem.vault line with
  | some v => v.poison
  | none => if isHostLine line || d.outerOff then 0 else Tab.get d.mem.dpoison line 0

/-- The fetch of an instruction fails: its program counter does not translate as a fetch, or the word is poisoned
(05 R189, Table 5-6; 04 R180). -/
def Dev.fetchFail (d : Dev) (ci : Nat) (s : Strand) : Option AccFail :=
  match (d.translate (d.strandCtx ci s) s.pc .fetch).1 with
  | .error x => some x
  | .ok (pa, _) =>
    if d.hostRefuses (d.part (d.strandPart ci s)).cfg.func (pa / 128) then some (.xlat 9 0 0 s.pc)
    else if (d.peekPoison (pa / 128)).getLsbD (pa % 128 / 8) then some (.poison (alignDown pa 8)) else none

/-- A core's job fault for a failed access: TRANSLATION with its record, or MEM_UNCORRECTABLE. -/
def Dev.accFault (d : Dev) (ci : Nat) (s : Strand) (k : Acc) : AccFail → Dev
  | .xlat t lv ea dva =>
    (d.recordFail (d.coreAgent ci (d.strandPart ci s) (d.strandCtx ci s)) k t lv ea dva).coreFault ci s 0x09 dva
  | .poison pa => (let e := d.coreFault ci s 0x0A pa; { e with mem := { e.mem with errLog := pa } })

/-! ### Merging (02 R62, R64) -/

/-- Two strands may merge: same launch and program counter, disjoint lanes, both outside matrix regions. -/
def Dev.mergeable (d : Dev) (ci : Nat) (a b : Strand) : Bool :=
  d.strandLaunch ci a == d.strandLaunch ci b && a.pc == b.pc && !d.inRegion ci a && !d.inRegion ci b &&
  !(a.lanes.any (fun e => Tab.has b.lanes e.1))

/-- Strand `sid` absorbs strand `o`. -/
def Dev.absorb (d : Dev) (ci sid o : Nat) : Dev :=
  match d.strand? ci sid, d.strand? ci o with
  | some a, some b =>
    (((d.setStrand ci sid { a with lanes := b.lanes.foldl (fun t e => Tab.put t e.1 e.2) a.lanes }).delStrand ci o)).countCore
      ci 6 1
  | _, _ => d

/-- Strand `sid` merges with every other strand that waits as `wait` at its program counter and is eligible. -/
def Dev.mergeHere (d : Dev) (ci sid : Nat) (wait : Wait) : Dev :=
  ((d.core ci).strands.map (·.1)).foldl (fun d o =>
    match d.strand? ci sid, d.strand? ci o with
    | some a, some b => if o != sid && b.wait == wait && d.mergeable ci a b then d.absorb ci sid o else d
    | _, _ => d) d

/-! ### Issue -/

/-- The core can issue from the strand. -/
def Dev.canIssue (d : Dev) (ci : Nat) (s : Strand) : Bool :=
  d.running && d.plan.coreOk ci && !(d.core ci).stopped && s.wait == .ready

/-- The matrix instructions a core has accepted and not completed. -/
def Core.mxAll (c : Core) : List MxInsn := c.mxQueue ++ c.mxXfer.toList ++ c.mxMul.toList

/-- A matrix instruction that reads or writes memory. -/
def mxMemory (w : BitVec 64) : Bool :=
  (opcOf w == 0x70 && !bitOf (subOf w) 3) || (opcOf w == 0x71 && !bitOf (subOf w) 6)

/-- The instruction depends on a matrix instruction of its group that has not completed: on the registers an MST writes
(02 R75, 03 R138), or on the order of their accesses to memory (03 R135). -/
def Dev.mxHazard (d : Dev) (ci : Nat) (s : Strand) (w : BitVec 64) : Bool :=
  (d.core ci).mxAll.any (fun m => s.slots.contains m.group &&
    ((writesOf m.word).any (fun c => (readsOf w ++ writesOf w).contains c) ||
     (mxMemory m.word && ((0x48 ≤ opcOf w && opcOf w ≤ 0x4A) || (0x50 ≤ opcOf w && opcOf w ≤ 0x55)))))

/-- What issuing counts: the slot, the active lanes, and a pair that did not hold. -/
def Dev.countIssue (d : Dev) (ci : Nat) (s : Strand) (w : BitVec 64) : Dev :=
  let d := d.countCore ci (if inSlotB (opcOf w) then 2 else 1) 1
  let d := d.countCore ci 3 (d.active ci s w).length
  let d := d.modCore ci (fun c =>
    let g := Tab.get c.groups ((s.slots.head?).getD 0) Group.empty
    { c with lastIssue := some (s.pc, g.index, g.inRegion, d.cycle) })
  match s.pair with
  | some p => if pairs p w then d else d.countCore ci 7 1
  | none => d

/-- The strand arrives at a legal instruction: it merges at a repack point, is counted, and notes its PAIR bit. -/
def Dev.arrive (d : Dev) (ci sid : Nat) (w : BitVec 64) : Dev :=
  let d := if wf w 50 50 = 1 then d.mergeHere ci sid .ready else d
  match d.strand? ci sid with
  | none => d
  | some s => (d.countIssue ci s w).setStrand ci sid { s with pair := if wf w 51 51 = 1 then some w else none }

/-- REGS of a strand's launch. -/
def Dev.strandRegs (d : Dev) (ci : Nat) (s : Strand) : Nat := (d.launch (d.strandLaunch ci s)).regs

/-- An instruction issues: where the strand can issue it and nothing is wrong with its fetch or its word, `eff` acts on
the strand and its active lanes. `takes` says which words this instruction's row is about. -/
def Dev.issue (d : Dev) (i : Issue) (takes : BitVec 64 → Bool)
    (eff : Dev → Strand → List (Nat × Nat) → Dev) : Dev :=
  match d.strand? i.core i.strand with
  | none => d
  | some s =>
    if !(d.canIssue i.core s && takes i.word) || d.mxHazard i.core s i.word then d else
    match d.fetchFail i.core s with
    | some x => d.accFault i.core s .fetch x
    | none =>
      match illegal (d.strandRegs i.core s) i.word with
      | some code => d.coreFault i.core s code 0
      | none =>
        let d := d.arrive i.core i.strand i.word
        match d.strand? i.core i.strand with
        | none => d
        | some s => eff d s (d.active i.core s i.word)

/-- The rows of one opcode. -/
def isOpc (o : Nat) (w : BitVec 64) : Bool := opcOf w == o

end Sys2Proof.Machine
end

