-- ==== Sys2Proof/Machine/Access.lean ====
section
/-! DEFINITION. The memory accesses of a core's lanes: where each lands, and how it is performed or sent out
(04 R141-R146, R163, R168-R171; 10 R359). -/

namespace Sys2Proof.Machine

/-! ### Where an access lands -/

def isOnchip (dva : Nat) : Bool := fld dva 47 40 == 0xFF

/-- The groups of a launch resident on a core. -/
def Dev.resident (d : Dev) (ci l : Nat) : Nat := ((d.core ci).groups.filter (fun e => e.2.launch == l)).length

/-- Byte `off` of cluster `c`'s tile memory lies in a hot region (10 R359). -/
def Dev.inHot (d : Dev) (c off : Nat) : Bool :=
  d.reserves.any (fun e => e.2.cluster == c && decide (off < e.2.hotUnits * 65536))

/-- The target of an on-chip address, none where R142 (or, for a write, R359) forbids the access. -/
def Dev.onchipPlace (d : Dev) (ci slot dva size : Nat) (write : Bool) : Option Place :=
  let l := (d.group ci slot).launch
  let off := fld dva 39 0
  let tile := fun (c o : Nat) =>
    if o + size ≤ 0x400000 && d.plan.clusterOk c && (d.part (d.launch l).part).held.getLsbD c && !(write && d.inHot c o)
    then some (Place.tile c o) else none
  if off < 0x10_0000_0000 then
    if off + size ≤ (d.launch l).lsGroup * 1024 * d.resident ci l then some (.ls off) else none
  else if off < 0x20_0000_0000 then tile (clusterOf ci) (off - 0x10_0000_0000)
  else
    let o := off - 0x20_0000_0000
    if o / 0x400000 < 64 then tile (o / 0x400000) (o % 0x400000) else none

/-- One lane's access: lane, group slot, address and what it does there. -/
structure LaneOp where
  lane : Nat
  slot : Nat
  dva : Nat
  kind : MemKind
  deriving DecidableEq, Repr

def MemKind.acc : MemKind → Acc
  | .load => .read
  | .store _ => .write
  | .rmw .. => .atomic

/-- Every lane's target; or the job fault of the first lane that may not access its own (04 R142, 05 R197). -/
def Dev.places (d : Dev) (ci : Nat) (s : Strand) (size : Nat) (ops : List LaneOp) (k : Acc) :
    Except Unit (List (LaneOp × Place)) × Dev :=
  match ops.find? (fun o => isOnchip o.dva && (d.onchipPlace ci o.slot o.dva size k.needsW).isNone) with
  | some o => (.error (), d.coreFault ci (s.one (o.lane, o.slot)) 0x08 o.dva)
  | none =>
    ops.foldl (fun (r : Except Unit (List (LaneOp × Place)) × Dev) o =>
      match r with
      | (.error u, d) => (.error u, d)
      | (.ok l, d) =>
        if isOnchip o.dva then (.ok (l ++ [(o, (d.onchipPlace ci o.slot o.dva size k.needsW).getD (.ls 0))]), d) else
        match d.translate (d.strandCtx ci s) o.dva k with
        | (.error x, d) => (.error (), d.accFault ci (s.one (o.lane, o.slot)) k x)
        | (.ok (pa, attr), d) => (.ok (l ++ [(o, .mem pa attr)]), d)) (.ok [], d)

/-! ### On-chip memory -/

/-- A byte of local store of a launch; a byte nothing has written is unpredictable, or 0 after zeroing (02 R55). -/
def Core.lsByte (c : Core) (ci l off : Nat) : Byte :=
  match Tab.get? (Tab.get c.ls l []) off with
  | some b => b
  | none => if c.lsZero.contains l then 0 else Config.lsByte ci l off

def Core.lsWrite (c : Core) (l off : Nat) (bs : List Byte) : Core :=
  { c with ls := Tab.put c.ls l ((bs.zipIdx).foldl (fun t e => Tab.put t (off + e.2) e.1) (Tab.get c.ls l [])) }

def Dev.tileRead (d : Dev) (c off n : Nat) : List Byte := Mem.readN (Tab.get d.mem.tile c []) off n

def Dev.tileWrite (d : Dev) (c off : Nat) (bs : List Byte) : Dev :=
  { d with mem := { d.mem with tile := Tab.put d.mem.tile c (Mem.writeN (Tab.get d.mem.tile c []) off bs) } }

/-- The `n` bytes at an on-chip place. -/
def Dev.onchipRead (d : Dev) (ci l n : Nat) : Place → List Byte
  | .ls off => (List.range n).map (fun k => (d.core ci).lsByte ci l (off + k))
  | .tile c off => d.tileRead c off n
  | .mem _ _ => []

def Dev.onchipWrite (d : Dev) (ci l : Nat) (bs : List Byte) : Place → Dev
  | .ls off => d.modCore ci (fun c => c.lsWrite l off bs)
  | .tile c off => d.tileWrite c off bs
  | .mem _ _ => d

/-- What a kind of access leaves at a location, if it writes. -/
def MemKind.after (k : MemKind) (size old : Nat) : Option Nat :=
  match k with
  | .load => none
  | .store v => some v
  | .rmw op signed a cmp => some (atomNew op (8 * size) signed old a cmp)

/-- An access performed at once in on-chip memory: the old value. -/
def Dev.onchipDo (d : Dev) (ci l size : Nat) (k : MemKind) (p : Place) : Nat × Dev :=
  let old := leNat (d.onchipRead ci l size p)
  (old, match k.after size old with
    | none => d
    | some v => d.onchipWrite ci l (toLe size v) p)

/-! ### Device memory -/

/-- An access to device memory is performed at the home slice and not in the purse (04 Table 4-4, R171). -/
def atHomeFor (attr scope : Nat) : MemKind → Bool
  | .load => attr == 4
  | .store _ => attr == 1 || attr == 4
  | .rmw .. => attr == 1 || attr == 4 || scope != 0

/-- The purse asks for a line an operation needs: a miss where the line is absent, an upgrade where it is in S. -/
def Dev.askLine (d : Dev) (ci : Nat) (o : MemOp) : Dev :=
  let c := d.core ci
  if o.atHome || Tab.has c.misses o.line then d else
  let m : Miss := { write := !o.kind.isLoad, granted := false, attr := o.attr, part := o.part }
  match Tab.get? c.l1 o.line with
  | none => (d.setCore ci { c with misses := Tab.put c.misses o.line m }).countCore ci 11 1
  | some l => if l.st == .s && !o.kind.isLoad then d.setCore ci { c with misses := Tab.put c.misses o.line m } else d

/-- One lane's access enters: performed at once on chip (its old value is answered), else as an operation of the core. -/
def Dev.enter (d : Dev) (i : Issue) (s : Strand) (size scope : Nat) (rel : Bool) (o : LaneOp) :
    Place → (Option Nat × Nat) × Dev
  | .mem pa attr =>
    let c := d.core i.core
    let g := d.group i.core o.slot
    let l := d.launch g.launch
    let op : MemOp :=
      { strand := i.strand, lane := o.lane, group := o.slot, kind := o.kind, dva := o.dva, pa := pa, size := size,
        attr := attr, ctx := l.ctx, part := l.part, launch := g.launch, gindex := g.index, pc := s.pc, rel := rel,
        atHome := atHomeFor attr scope o.kind }
    let d := d.setCore i.core { c with ops := Tab.put c.ops c.nextOp op, nextOp := c.nextOp + 1 }
    ((some c.nextOp, 0), d.askLine i.core op)
  | p =>
    let (old, d) := d.onchipDo i.core (d.group i.core o.slot).launch size o.kind p
    ((none, old), d)

/-- All lanes' accesses enter, in lane order: the operation numbers left, and the answers already there. -/
def Dev.enterAll (d : Dev) (i : Issue) (s : Strand) (size scope : Nat) (rel : Bool) (l : List (LaneOp × Place)) :
    List Nat × List (Nat × Nat) × Dev :=
  l.foldl (fun (r : List Nat × List (Nat × Nat) × Dev) x =>
    match r.2.2.enter i s size scope rel x.1 x.2 with
    | ((some id, _), d) => (r.1 ++ [id], r.2.1, d)
    | ((none, v), d) => (r.1, r.2.1 ++ [(x.1.lane, v)], d)) ([], [], d)

/-- Operations of a core that its purse can perform are performed. -/
def Dev.drainAll (d : Dev) (ci : Nat) : Dev := d.drain ci ((d.core ci).ops.length + 1)

/-- The strand blocks until the accesses are answered; those that the purse can perform are performed at once. -/
def Dev.blockOn (d : Dev) (i : Issue) (left : List Nat) (done : List (Nat × Nat)) : Dev :=
  match d.strand? i.core i.strand with
  | none => d
  | some s =>
    if left.isEmpty then d.finishOp i.core i.strand s i.word done
    else (d.setStrand i.core i.strand { s with wait := .op i.word left done }).drainAll i.core

/-- The lowest lane's access whose address is not a multiple of `size` (02 R88). -/
def misaligned (size : Nat) (ops : List LaneOp) : Option LaneOp := ops.find? (fun o => o.dva % size != 0)

/-- The lanes' accesses of an instruction: alignment, bounds and translation first, for the whole instruction; then
`go` with what has entered. -/
def Dev.access (d : Dev) (i : Issue) (s : Strand) (size scope : Nat) (rel : Bool) (k : Acc) (ops : List LaneOp)
    (go : Dev → List Nat → List (Nat × Nat) → Dev) : Dev :=
  match misaligned size ops with
  | some o => d.coreFault i.core (s.one (o.lane, o.slot)) 0x04 o.dva
  | none =>
    match d.places i.core s size ops k with
    | (.error _, d) => d
    | (.ok l, d) =>
      let (left, done, d) := d.enterAll i s size scope rel l
      go d left done

end Sys2Proof.Machine
end

