-- ==== Sys2Proof/Machine/Mailbox.lean ====
section
/-! DEFINITION. The Ohmask mailboxes: requests, responses, the checks of R466 and the notices (14 R460-R470). -/

namespace Sys2Proof.Machine

def Dev.modMgmt (d : Dev) (g : Mgmt → Mgmt) : Dev := { d with mgmt := g d.mgmt }

def Dev.modMbx (d : Dev) (f : Nat) (g : Mbx → Mbx) : Dev := d.modFunc f (fun u => { u with mbx := g u.mbx })

/-! ### Fields of a request (14 Table 14-3) -/

def MbxReq.u (r : MbxReq) (off n : Nat) : Nat := leNat ((r.bytes.drop off).take n)
def MbxReq.msg (r : MbxReq) : Nat := r.u 0 2
def MbxReq.len (r : MbxReq) : Nat := r.u 2 2
/-- `n` payload bytes from `off`. -/
def MbxReq.p (r : MbxReq) (off n : Nat) : Nat := r.u (16 + off) n

/-- Every payload byte of the message (R461: LEN of them) that it does not name is 0, and so are STATUS and DETAIL. -/
def MbxReq.reservedOk (r : MbxReq) (named : List (Nat × Nat)) : Bool :=
  r.u 6 2 == 0 && (List.range (min r.len 240)).all (fun i => named.any (fun e => decide (e.1 ≤ i) && decide (i < e.1 + e.2)) ||
    r.p i 1 == 0)

/-- The resources a request names (R464): kind (0 partition, 1 cluster, 2 context, 3 tallies, 4 reserve slot, 5 port, 6 engine),
first and last. -/
def MbxReq.res (r : MbxReq) : List (Nat × Nat × Nat) :=
  let one := fun (k off : Nat) => [(k, r.p off 1, r.p off 1)]
  let part := fun (off : Nat) => if r.p off 1 = 0xFF then [] else one 0 off
  match r.msg with
  | 0x0100 => part 0
  | 0x0101 => part 0
  | 0x0102 => one 1 0 ++ part 1 ++ part 2
  | 0x0105 => (3, r.p 0 2, r.p 0 2 + r.p 2 2 - 1) :: part 4
  | 0x0106 => part 0
  | 0x0107 => one 4 0 ++ one 1 2
  | 0x0108 => one 4 0 ++ part 1
  | 0x0109 => one 4 0 ++ one 2 1
  | 0x0200 => one 2 0 ++ part 2
  | 0x0400 => one 5 0 ++ part 1
  | 0x0401 => one 6 0
  | 0x0402 => one 6 0 ++ part 2
  | 0x0403 => one 6 0
  | _ => []

def MbxReq.meets (a b : MbxReq) : Bool :=
  a.res.any (fun x => b.res.any (fun y => x.1 == y.1 && decide (x.2.1 ≤ y.2.2) && decide (y.2.1 ≤ x.2.2)))

/-- Partitions the request names. -/
def MbxReq.parts (r : MbxReq) : List Nat := (r.res.filter (fun e => e.1 == 0)).map (fun e => e.2.1)

/-- A request must wait (R464, 10 R378): an earlier one shares a resource with it, or it is a partition or cluster-move
message that names a partition of a function whose FLR is in progress. -/
def Dev.mbxBlocked (d : Dev) (k : Nat) (r : MbxReq) : Bool :=
  (d.mgmt.reqs.take k).any (fun o => o.meets r) ||
  (r.msg / 256 == 1 && r.parts.any (fun p => (d.part p).cfg.valid && (d.func (d.part p).cfg.func).flr.isSome))

/-! ### Serving -/

/-- The boot ROM or firmware serves the mailboxes. -/
def Dev.mailServed (d : Dev) : Bool :=
  !d.mgmt.bring.held && d.mgmt.bring.st != Bring.romStart && !d.mgmt.fw.dead

/-- Every message is served (15 Table 15-2; 14 R467). -/
def Dev.isReady (d : Dev) : Bool := d.mgmt.bring.st == Bring.ready || d.mgmt.bring.st == Bring.recovering

/-- The first request of a function with this message, accepted or not. -/
def Dev.findReq (d : Dev) (f msg : Nat) (accepted : Bool) : Option (Nat × MbxReq) :=
  match d.mgmt.reqs.findIdx? (fun r => r.fn == f && r.msg == msg && r.accepted == accepted) with
  | some k => (d.mgmt.reqs[k]?).map (fun r => (k, r))
  | none => none

/-- The 256 bytes of a response. -/
def MbxReq.answer (r : MbxReq) (status detail : Nat) (payload : List Byte) : List Byte :=
  r.bytes.take 2 ++ toLe 2 payload.length ++ (r.bytes.drop 4).take 2 ++ toLe 1 status ++ toLe 1 detail ++
  (r.bytes.drop 8).take 8 ++ (payload ++ List.replicate 240 0).take 240

/-- Request `k` is answered (R462): the response slot, LAST_SEQ, BUSY, DONE and the interrupt. -/
def Dev.reply (d : Dev) (k status detail : Nat) (payload : List Byte) : Dev :=
  match d.mgmt.reqs[k]? with
  | none => d
  | some r =>
    let d := d.modMgmt (fun m => { m with reqs := m.reqs.eraseIdx k })
    if !r.live then d else
    let bs := r.answer status detail payload
    let slot : Tab Nat := (List.range 32).map (fun i => (i, leNat ((bs.drop (8 * i)).take 8)))
    let d := d.modMbx r.fn (fun m => { m with rsp := slot, lastSeq := r.u 4 2, busy := false, done := true })
    if (d.func r.fn).mbx.doneEn then d.raiseVec r.fn (d.func r.fn).mbx.vec else d

/-- Request `k` has passed its checks and waits. -/
def Dev.acceptReq (d : Dev) (k phase : Nat) : Dev :=
  d.modMgmt (fun m => { m with reqs := m.reqs.modify k (fun r => { r with accepted := true, phase := phase }) })

/-- The checks of R466 in their order, then the message's effect. `pf`: only the physical function may send it. -/
def Dev.onMsg (d : Dev) (f msg : Nat) (ready pf : Bool) (len : MbxReq → Nat) (named : List (Nat × Nat))
    (fields conflict : MbxReq → Bool) (eff : Dev → Nat → MbxReq → Dev) : Dev :=
  match d.findReq f msg false with
  | none => d
  | some (k, r) =>
    if !d.mailServed || d.mbxBlocked k r then d
    else if !ready then d.reply k 0x07 0 []
    else if pf && f != 0 then d.reply k 0x04 0 []
    else if r.len != len r then d.reply k 0x02 0 []
    else if !r.reservedOk named || !fields r then d.reply k 0x03 0 []
    else if conflict r then d.reply k 0x05 0 []
    else eff d k r

/-- GO (R462): the request slot is copied; while BUSY, or with the mailboxes unserved, the write is discarded. -/
def Dev.mbxGo (d : Dev) (f : Nat) : Dev :=
  let m := (d.func f).mbx
  if m.busy || d.mgmt.fw.dead then d.denied f else
  let bs := (List.range 32).flatMap (fun i => toLe 8 (Tab.get m.req i 0))
  let r : MbxReq := { fn := f, bytes := bs, accepted := false, phase := 0, waited := 0, live := true }
  (d.modMbx f (fun m => { m with busy := true })).modMgmt (fun g => { g with reqs := g.reqs ++ [r] })

/-- Messages that Tables 14-6 to 14-8 define. -/
def msgDefined (m : Nat) : Bool :=
  [0x0001, 0x0002, 0x0003, 0x0600, 0x0601, 0x0602, 0x0200, 0x0201, 0x0300, 0x0301, 0x0302, 0x0400, 0x0401, 0x0402, 0x0403,
   0x0500].contains m || (0x0100 ≤ m && m ≤ 0x0109)

/-- UNKNOWN_MESSAGE (R466 step 1). -/
def execUnknownMessage (f : Nat) (s : State) : Host.Outcome State Fault Refusal :=
  s.on (fun d =>
    match d.mgmt.reqs.findIdx? (fun r => r.fn == f && !r.accepted && !msgDefined r.msg) with
    | some k => if d.mailServed then d.reply k 0x01 0 [] else d
    | none => d)

/-- Every accepted request with this message that `p` picks is answered OK with a payload. -/
def Dev.replyAll (d : Dev) (msg : Nat) (p : MbxReq → Bool) (payload : List Byte) : Nat → Dev
  | 0 => d
  | n + 1 =>
    match d.mgmt.reqs.findIdx? (fun r => r.accepted && r.msg == msg && p r) with
    | some k => (d.reply k 0 0 payload).replyAll msg p payload n
    | none => d

/-! ### Notices (R468-R470) -/

/-- A notice is posted to a function, or lost. -/
def Dev.notice (d : Dev) (f kind data : Nat) : Dev :=
  let m := (d.func f).mbx
  if toBits 32 ((m.head : Int) - m.tail) ≥ 8 then d.modMbx f (fun m => { m with noticeLost := true }) else
  let bs := toLe 2 kind ++ toLe 2 0 ++ toLe 4 m.head ++ toLe 16 data ++ toLe 8 d.time.ts
  let d := d.modMbx f (fun m => { m with notices := Tab.put m.notices (m.head % 8) bs, head := (m.head + 1) % 2 ^ 32 })
  if m.noticeEn then d.raiseVec f m.vec else d

/-- NOTICE_TAIL_WRITE (R470). -/
def Dev.noticeTail (d : Dev) (f v : Nat) : Dev :=
  let t : Nat := v % 2 ^ 32
  if toBits 32 (((d.func f).mbx.head : Int) - t) ≤ 8 then d.modMbx f (fun m => { m with tail := t }) else d.denied f

def execNoticeTailWrite (f v : Nat) (s : State) : Host.Outcome State Fault Refusal :=
  s.on (fun d => if f < 16 then d.noticeTail f v else d)

end Sys2Proof.Machine
end

