-- ==== Sys2Proof/Machine/Coherence.lean ====
section
/-! DEFINITION. The events of the vault, its directory and the purses (04 R152-R154, R161-R164, R177-R181; 17 R537, R545). -/

namespace Sys2Proof.Machine

def allPoison : BitVec 16 := BitVec.ofNat 16 0xFFFF

/-- What the decoding of a line read from memory finds (17 R545, R548; a poisoned completion, R537): the poison that
arrives, and what is counted and recorded. With the outer code off nothing is corrected and nothing is poisoned. -/
def Dev.decodeLine (d : Dev) (line : Nat) (scrub : Bool) (ecc : Ecc) : BitVec 16 × Dev :=
  if isHostLine line then (if ecc = .uncorrectable then allPoison else 0, d)
  else if d.outerOff then (0, d)
  else match ecc with
  | .clean => (0, d)
  | .corrected =>
    let (n, d) := d.fresh
    (0, d.countGlobal 10 (pick (fun k => 1 ≤ k && k ≤ 6) n 1))
  | .uncorrectable =>
    (allPoison, { d.countGlobal 11 1 with
      dramc := { d.dramc with errValid := true, errScrub := scrub, errPa := line * 128 } })

/-- What the code of a vault line finds when the line is read (04 Table 4-18): a clean line with an uncorrectable error is
invalidated, a dirty one poisoned. -/
def Dev.vaultEcc (d : Dev) (line : Nat) : Ecc → Dev
  | .clean => d
  | .corrected => d.countSlice (d.sliceOf line) 7 1
  | .uncorrectable =>
    match Tab.get? d.mem.vault line with
    | none => d
    | some v => if v.dirty then d.putVault line { v with poison := allPoison } else d.delVault line

/-! ### Responses -/

/-- The first response for a core and line leaves the list. -/
def takeResp (core line : Nat) : List Resp → Option (Resp × List Resp)
  | [] => none
  | r :: rest =>
    if r.core = core && r.line = line then some (r, rest)
    else (takeResp core line rest).map (fun x => (x.1, r :: x.2))

/-- MEMORY_RESPONSE (04 R177, R179, R180): the oldest response for the core and line arrives. An uncorrectable error of a
dirty vault line poisons what it returns. -/
def execMemoryResponse (core line : Nat) (ecc : Ecc) (s : State) : Host.Outcome State Fault Refusal :=
  s.on (fun d =>
    match takeResp core line d.mem.resps with
    | none => d
    | some (r, rest) =>
      let d := { d with mem := { d.mem with resps := rest } }
      let hurt := ecc == .uncorrectable && ((Tab.get? d.mem.vault line).any (fun v => v.dirty))
      let d := d.vaultEcc line ecc
      let r := if hurt then { r with poison := allPoison } else r
      match r.op with
      | none => d.deliver r
      | some id =>
        match Tab.get? (d.core core).ops id with
        | none => d
        | some o => (match o.consumes r.poison with
          | some k => (d.dropOp core id).opPoisoned core o k
          | none => d.opDone core id o r.value))

/-! ### Requests at the directory -/

/-- A request of this kind is already at the directory for the line. -/
def Dev.requested (d : Dev) (line : Nat) (q : DirReq) : Bool :=
  match Tab.get? d.mem.txns line with
  | none => false
  | some t => t.req == q || t.queue.contains q

/-- The home slice can take a new miss for the line (04 R152): a register for it with fewer than 16 requests, or a free
one of the slice's 64. -/
def Dev.missRoom (d : Dev) (line : Nat) : Bool :=
  match Tab.get? d.mem.missRegs line with
  | some m => decide (m.waiters.length < 16)
  | none => decide ((d.mem.missRegs.filter (fun e => d.sliceOf e.1 == d.sliceOf line)).length < 64)

/-- The purse asks again for a line that it has lost while an operation waited in order to use it (04 R163, R164). -/
def Dev.askAgain (d : Dev) (ci line : Nat) (write : Bool) : Dev :=
  let c := d.core ci
  if Tab.has c.misses line then d else
  match c.ops.find? (fun e => e.2.line == line && !e.2.atHome && e.2.kind.isLoad != write) with
  | none => d
  | some (_, o) =>
    if ((Tab.get? c.l1 line).map (fun l => write && l.st == .s)).getD true then
      d.setCore ci { c with misses := Tab.put c.misses line { write := write, granted := false, attr := o.attr, part := o.part } }
    else d

/-- DIR_READ_MISS (04 R163). A read of an uncached page is served at the slice without a grant. -/
def execDirReadMiss (core line : Nat) (s : State) : Host.Outcome State Fault Refusal :=
  s.on (fun d =>
    let d := d.askAgain core line false
    let c := d.core core
    match Tab.get? c.misses line with
    | some m =>
      if m.write || m.granted || d.requested line (.read core) || Tab.has c.leaving line || !d.missRoom line then d
      else d.dirRequest line (.read core)
    | none =>
      match c.ops.find? (fun e => e.2.line == line && e.2.atHome && e.2.kind.isLoad && c.opClear e.1 e.2 &&
          !(d.mem.resps.any (fun r => r.core == core && r.op == some e.1))) with
      | none => d
      | some (id, _) => if Tab.has d.mem.txns line then d else (d.ownerShares line).performHome core id)

/-- DIR_WRITE_MISS (04 R163, R164): an upgrade from a core that is no longer listed is a write miss with data. -/
def execDirWriteMiss (core line : Nat) (s : State) : Host.Outcome State Fault Refusal :=
  s.on (fun d =>
    let d := d.askAgain core line true
    match Tab.get? (d.core core).misses line with
    | some m =>
      if !m.write || m.granted || d.requested line (.write core) || Tab.has (d.core core).leaving line ||
          !d.missRoom line then d
      else d.dirRequest line (.write core)
    | none => d)

/-- DIR_WT_STORE (04 R163): operation `k` of a core is performed at its home slice once every purse copy is gone. -/
def execDirWtStore (core k : Nat) (s : State) : Host.Outcome State Fault Refusal :=
  s.on (fun d =>
    let c := d.core core
    match Tab.get? c.ops k with
    | none => d
    | some o =>
      if !o.atHome || o.kind.isLoad || !c.opClear k o || d.requested o.line (.op core k) ||
          d.mem.resps.any (fun r => r.core == core && r.op == some k) then d
      else d.dirRequest o.line (.op core k))

/-- DIR_ACK (04 R163). -/
def execDirAck (line : Nat) (s : State) : Host.Outcome State Fault Refusal := s.on (fun d => d.dirAck line)

/-- INVALIDATION_AT_CORE (04 R164). A line already granted to the purse arrives first. -/
def execInvalidationAtCore (core line : Nat) (s : State) : Host.Outcome State Fault Refusal :=
  s.on (fun d => if d.grantInFlight core line then d else d.invalidateAt core line)

/-- FORWARD_AT_CORE (04 R164). -/
def execForwardAtCore (core line : Nat) (s : State) : Host.Outcome State Fault Refusal :=
  s.on (fun d => if d.grantInFlight core line then d else d.forwardAt core line)

/-- PURSE_EVICT (04 R163): the notice or write-back of a line that left the purse reaches its home slice. -/
def execPurseEvict (core line : Nat) (s : State) : Host.Outcome State Fault Refusal :=
  s.on (fun d => d.evictArrives core line)

/-- A vault requester by its number (04 Table 4-5). -/
def Dev.rqOf (d : Dev) (r : Nat) : Rq :=
  if r < 16 then d.rqPart r else if r < 32 then d.rqLedger (r - 16) else rqUnit r 0

/-- NON_CORE_READ (04 R163) by requester `req`, as a write-back read. -/
def execNonCoreRead (req line : Nat) (s : State) : Host.Outcome State Fault Refusal :=
  s.on (fun d =>
    if req > 36 || line ≥ 2 ^ 41 || !d.running || d.hostRefuses (d.rqOf req).func line then d
    else (d.ncRead (d.rqOf req) 0 line).2.2)

/-- NON_CORE_WRITE (04 R163) by requester `req`, as a write-back write. -/
def execNonCoreWrite (req line : Nat) (mask : BitVec 128) (data : BitVec 1024) (s : State) :
    Host.Outcome State Fault Refusal :=
  s.on (fun d =>
    let rq := d.rqOf req
    if req > 36 || line ≥ 2 ^ 41 || !d.running || (d.hostRefuses rq.func line && d.writeFills rq 0 line mask) then d
    else d.ncWrite rq 0 line mask data 0)

/-! ### Fills -/

/-- A hard budget of a partition is reached, and its new requests of the kind are held until the boundary (10 R363). -/
def Dev.heldBudget (d : Dev) (p : Option Nat) (host : Bool) : Bool :=
  match p with
  | none => false
  | some p =>
    let x := d.part p
    if host then x.cfg.hardHost && x.cfg.hostBudget != 0 && decide (x.hostUsed ≥ x.cfg.hostBudget * 4096)
    else x.cfg.hardDram && x.cfg.dramBudget != 0 && decide (x.dramUsed ≥ x.cfg.dramBudget * 65536)

/-- VAULT_FILL (04 R152, 17 R545): the line of a miss register arrives. -/
def execVaultFill (line : Nat) (ecc : Ecc) (s : State) : Host.Outcome State Fault Refusal :=
  s.on (fun d =>
    match Tab.get? d.mem.missRegs line with
    | none => d
    | some m =>
      if d.heldBudget (d.rqOf m.req).part (isHostLine line) then d else
      let (p, d) := d.decodeLine line false ecc
      d.fill line p)

/-- NEXT_LINE_PREFETCH (04 R154): prefetch `k` reaches its slice and is dropped or filled. -/
def execNextLinePrefetch (k : Nat) (s : State) : Host.Outcome State Fault Refusal :=
  s.on (fun d =>
    match d.mem.prefetches[k]? with
    | none => d
    | some p =>
      let d : Dev := { d with mem := { d.mem with prefetches := d.mem.prefetches.eraseIdx k } }
      let slice := d.sliceOf p.line
      let rq := d.rqOf p.req
      let busy : Nat := (d.mem.missRegs.filter (fun e => d.sliceOf e.1 == slice)).length
      if Tab.has d.mem.vault p.line || Tab.has d.mem.missRegs p.line || decide (busy > 48) ||
          (d.allocMask p.req == (0 : BitVec 16)) then d.countSlice slice 4 1
      else if d.hostRefuses rq.func p.line then d
      else
        let (data, q, d) := d.memRead rq p.line
        match d.allocate rq p.line data q false (p.attr == 3) with
        | some (_, d) => d.countSlice slice 3 1
        | none => d)

/-- SLICE_SCRUB (04 R181): the slice's next line in set and way order is checked. -/
def execSliceScrub (slice : Nat) (ecc : Ecc) (s : State) : Host.Outcome State Fault Refusal :=
  s.on (fun d =>
    if !(slice < 64 && d.plan.slices.getLsbD slice) then d else
    let n := Tab.get d.mem.scrub slice 0
    let d := { d with mem := { d.mem with scrub := Tab.put d.mem.scrub slice ((n + 1) % 32768) } }
    match (d.setLines slice (n / 16)).find? (fun e => e.2.way == n % 16) with
    | none => d
    | some (line, _) => d.vaultEcc line ecc)

end Sys2Proof.Machine
end

