-- ==== Sys2Proof/Machine/Alu.lean ====
section
/-! DEFINITION. The ALU instructions (02 Table 2-8, R65, R66, R83-R86, R583-R585). -/

namespace Sys2Proof.Machine

/-! ### Operand values of a lane -/

/-- The value of operand code `c`, `n` words wide. -/
def Dev.rdVal (d : Dev) (ci slot lane c n : Nat) : Nat := if n = 2 then d.readP ci slot lane c else d.readW ci slot lane c

/-- Source B: the immediate in format I (02 Table 2-5). -/
def Dev.rdB (d : Dev) (ci slot lane : Nat) (w : BitVec 64) (n : Nat) : Nat :=
  if isFmtI w then toBits 32 (imm24Of w) else d.rdVal ci slot lane (srcbOf w) n

/-- Each active lane's `v` is written to DST, `n` words wide, and the strand goes on. -/
def Dev.result (d : Dev) (i : Issue) (act : List (Nat × Nat)) (n : Nat) (v : Nat → Nat → Nat) : Dev :=
  (d.writeLanes i.core act (dstOf i.word) n v).advance i.core i.strand

/-- An integer instruction: A, B and C as wide as the TYPE, but for shift counts, BFX's and BFI's position and length,
and the one-word results of POPC and CLZ. -/
def intEff (op : Nat) (i : Issue) (d : Dev) (_ : Strand) (act : List (Nat × Nat)) : Dev :=
  let w := i.word
  let n := tyWords (typeOf w)
  let nb := if 0x10 ≤ op then 1 else n
  let nc := if op = 0x16 then 1 else n
  let nd := if op = 0x13 || op = 0x14 then 1 else n
  d.result i act nd (fun lane slot => intOp op (typeOf w) (modOf w) (d.rdVal i.core slot lane (srcaOf w) n)
    (d.rdB i.core slot lane w nb) (d.rdVal i.core slot lane (srccOf w) nc))

/-- A floating-point instruction (02 R84). -/
def fpEff (op : Nat) (i : Issue) (d : Dev) (_ : Strand) (act : List (Nat × Nat)) : Dev :=
  let w := i.word
  d.result i act 1 (fun lane slot => fpOp op (typeOf w) (modOf w) (d.readW i.core slot lane (srcaOf w))
    (d.readW i.core slot lane (srcbOf w)) (d.readW i.core slot lane (srccOf w)))

/-- A transcendental: a value within the stated error that the manual leaves open (notes/assumptions/1.md). -/
def transEff (op : Nat) (i : Issue) (d : Dev) (_ : Strand) (act : List (Nat × Nat)) : Dev :=
  let w := i.word
  { d with free := d.free + 32 }.result i act 1 (fun lane slot =>
    transOp op (Config.free (d.free + lane)) (d.readW i.core slot lane (srcaOf w)))

/-- The one path of a core instruction of opcode `op`. -/
def runIssue (i : Issue) (op : Nat) (eff : Issue → Dev → Strand → List (Nat × Nat) → Dev) (s : State) :
    Host.Outcome State Fault Refusal :=
  s.on (fun d => d.issue i (isOpc op) (eff i))

/-! ### The instructions -/

/-- NOP (02 R86). A word with a reserved opcode (R87) is issued under this row too, and raises ILLEGAL_INSTRUCTION. -/
def execNop (i : Issue) (s : State) : Host.Outcome State Fault Refusal :=
  s.on (fun d => d.issue i (fun w => opcOf w == 0 || !opcodeDefined (opcOf w)) (fun d _ _ => d.advance i.core i.strand))

/-- MOVI (02 R86). -/
def execMovi (i : Issue) (s : State) : Host.Outcome State Fault Refusal :=
  runIssue i 0x01 (fun i d _ act => d.result i act 1 (fun _ _ => imm32Of i.word)) s

/-- MOV (02 R86). -/
def execMov (i : Issue) (s : State) : Host.Outcome State Fault Refusal :=
  runIssue i 0x02 (fun i d _ act =>
    let n := tyWords (typeOf i.word)
    d.result i act n (fun lane slot => d.rdVal i.core slot lane (srcaOf i.word) n)) s

/-- IADD (02 R85, R86). -/
def execIadd (i : Issue) (s : State) : Host.Outcome State Fault Refusal := runIssue i 0x04 (intEff 0x04) s

/-- ISUB (02 R85, R86). -/
def execIsub (i : Issue) (s : State) : Host.Outcome State Fault Refusal := runIssue i 0x05 (intEff 0x05) s

/-- IMUL (02 R85, R86). -/
def execImul (i : Issue) (s : State) : Host.Outcome State Fault Refusal := runIssue i 0x06 (intEff 0x06) s

/-- IMULH (02 R85, R86). -/
def execImulh (i : Issue) (s : State) : Host.Outcome State Fault Refusal := runIssue i 0x07 (intEff 0x07) s

/-- IMAD (02 R85, R86). -/
def execImad (i : Issue) (s : State) : Host.Outcome State Fault Refusal := runIssue i 0x08 (intEff 0x08) s

/-- IMIN (02 R85, R86). -/
def execImin (i : Issue) (s : State) : Host.Outcome State Fault Refusal := runIssue i 0x09 (intEff 0x09) s

/-- IMAX (02 R85, R86). -/
def execImax (i : Issue) (s : State) : Host.Outcome State Fault Refusal := runIssue i 0x0A (intEff 0x0A) s

/-- AND (02 R85, R86). -/
def execAndOp (i : Issue) (s : State) : Host.Outcome State Fault Refusal := runIssue i 0x0C (intEff 0x0C) s

/-- OR (02 R85, R86). -/
def execOrOp (i : Issue) (s : State) : Host.Outcome State Fault Refusal := runIssue i 0x0D (intEff 0x0D) s

/-- XOR (02 R85, R86). -/
def execXorOp (i : Issue) (s : State) : Host.Outcome State Fault Refusal := runIssue i 0x0E (intEff 0x0E) s

/-- SHL (02 R85, R86). -/
def execShl (i : Issue) (s : State) : Host.Outcome State Fault Refusal := runIssue i 0x10 (intEff 0x10) s

/-- SHR (02 R83, R86). -/
def execShr (i : Issue) (s : State) : Host.Outcome State Fault Refusal := runIssue i 0x11 (intEff 0x11) s

/-- ROT (02 R85, R86). -/
def execRot (i : Issue) (s : State) : Host.Outcome State Fault Refusal := runIssue i 0x12 (intEff 0x12) s

/-- POPC (02 R85, R86). -/
def execPopc (i : Issue) (s : State) : Host.Outcome State Fault Refusal := runIssue i 0x13 (intEff 0x13) s

/-- CLZ (02 R85, R86). -/
def execClz (i : Issue) (s : State) : Host.Outcome State Fault Refusal := runIssue i 0x14 (intEff 0x14) s

/-- BREV (02 R85, R86). -/
def execBrev (i : Issue) (s : State) : Host.Outcome State Fault Refusal := runIssue i 0x15 (intEff 0x15) s

/-- BFX (02 R583). -/
def execBfx (i : Issue) (s : State) : Host.Outcome State Fault Refusal := runIssue i 0x16 (intEff 0x16) s

/-- BFI (02 R583). -/
def execBfi (i : Issue) (s : State) : Host.Outcome State Fault Refusal := runIssue i 0x17 (intEff 0x17) s

/-- FADD (02 R84, R86). -/
def execFadd (i : Issue) (s : State) : Host.Outcome State Fault Refusal := runIssue i 0x20 (fpEff 0x20) s

/-- FSUB (02 R84, R86). -/
def execFsub (i : Issue) (s : State) : Host.Outcome State Fault Refusal := runIssue i 0x21 (fpEff 0x21) s

/-- FMUL (02 R84, R86). -/
def execFmul (i : Issue) (s : State) : Host.Outcome State Fault Refusal := runIssue i 0x22 (fpEff 0x22) s

/-- FFMA (02 R84, R86). -/
def execFfma (i : Issue) (s : State) : Host.Outcome State Fault Refusal := runIssue i 0x23 (fpEff 0x23) s

/-- FMIN (02 R84, R86). -/
def execFmin (i : Issue) (s : State) : Host.Outcome State Fault Refusal := runIssue i 0x24 (fpEff 0x24) s

/-- FMAX (02 R84, R86). -/
def execFmax (i : Issue) (s : State) : Host.Outcome State Fault Refusal := runIssue i 0x25 (fpEff 0x25) s

/-- FRCP (02 R86). -/
def execFrcp (i : Issue) (s : State) : Host.Outcome State Fault Refusal := runIssue i 0x28 (transEff 0x28) s

/-- FRSQ (02 R86). -/
def execFrsq (i : Issue) (s : State) : Host.Outcome State Fault Refusal := runIssue i 0x29 (transEff 0x29) s

/-- FSQRT (02 R86). -/
def execFsqrt (i : Issue) (s : State) : Host.Outcome State Fault Refusal := runIssue i 0x2A (transEff 0x2A) s

/-- FEXP2 (02 R86). -/
def execFexp2 (i : Issue) (s : State) : Host.Outcome State Fault Refusal := runIssue i 0x2B (transEff 0x2B) s

/-- FLOG2 (02 R86). -/
def execFlog2 (i : Issue) (s : State) : Host.Outcome State Fault Refusal := runIssue i 0x2C (transEff 0x2C) s

/-- FSIN (02 R86). -/
def execFsin (i : Issue) (s : State) : Host.Outcome State Fault Refusal := runIssue i 0x2D (transEff 0x2D) s

/-- FCOS (02 R86). -/
def execFcos (i : Issue) (s : State) : Host.Outcome State Fault Refusal := runIssue i 0x2E (transEff 0x2E) s

/-- CMP (02 R86): DST gets the condition, the second predicate its inverse. -/
def execCmp (i : Issue) (s : State) : Host.Outcome State Fault Refusal :=
  runIssue i 0x30 (fun i d _ act =>
    let w := i.word
    let n := tyWords (typeOf w)
    let v := fun (lane slot : Nat) => condHolds (modOf w % 16) (orderOf (typeOf w)
      (d.rdVal i.core slot lane (srcaOf w) n) (d.rdB i.core slot lane w n))
    let e := d.writeLanes i.core act (dstOf w) 1 (fun l g => b2n (v l g))
    let e := if fld (modOf w) 6 4 = 7 then e else
      e.writeLanes i.core act (0xC0 + fld (modOf w) 6 4) 1 (fun l g => b2n (!v l g))
    e.advance i.core i.strand) s

/-- SEL (02 R86). -/
def execSel (i : Issue) (s : State) : Host.Outcome State Fault Refusal :=
  runIssue i 0x31 (fun i d _ act =>
    let w := i.word
    let n := tyWords (typeOf w)
    d.result i act n (fun lane slot =>
      if d.readW i.core slot lane (srccOf w) % 2 = 1 then d.rdVal i.core slot lane (srcaOf w) n
      else d.rdVal i.core slot lane (srcbOf w) n)) s

/-- CVT (02 R584). -/
def execCvt (i : Issue) (s : State) : Host.Outcome State Fault Refusal :=
  runIssue i 0x32 (fun i d _ act =>
    let w := i.word
    d.result i act (tyWords (typeOf w)) (fun lane slot =>
      cvtOp (typeOf w) (modOf w) (d.rdVal i.core slot lane (srcaOf w) (tyWords (fld (modOf w) 7 4))))) s

/-- PLOP (02 R86). -/
def execPlop (i : Issue) (s : State) : Host.Outcome State Fault Refusal :=
  runIssue i 0x33 (fun i d _ act =>
    let w := i.word
    let r := fun (lane slot c : Nat) => d.readW i.core slot lane c % 2
    d.result i act 1 (fun l g => plopOp (modOf w) (r l g (srcaOf w)) (r l g (srcbOf w)) (r l g (srccOf w)))) s

/-- The lane a shuffle reads (02 Table 2-7): index, up, down or xor. -/
def shflLane (mode lane b : Nat) : Nat :=
  match mode with
  | 0 => b
  | 1 => if b ≤ lane then lane - b else 32
  | 2 => lane + b
  | _ => lane ^^^ b

/-- SHFL (02 R66): a source lane that is no active lane of the reading thread's group gives the thread's own operand. -/
def execShfl (i : Issue) (s : State) : Host.Outcome State Fault Refusal :=
  runIssue i 0x38 (fun i d _ act =>
    let w := i.word
    let n := tyWords (typeOf w)
    d.result i act n (fun lane slot =>
      let src := shflLane (modOf w % 4) lane (d.readW i.core slot lane (srcbOf w))
      d.rdVal i.core slot (if act.contains (src, slot) then src else lane) (srcaOf w) n)) s

/-- VOTE (02 R66): any, all, or the mask of the group's active lanes whose predicate is 1. -/
def execVote (i : Issue) (s : State) : Host.Outcome State Fault Refusal :=
  runIssue i 0x39 (fun i d _ act =>
    let w := i.word
    let yes := act.filter (fun e => d.readW i.core e.2 e.1 (srcaOf w) % 2 == 1)
    d.result i act 1 (fun _ slot =>
      let mine := yes.filter (fun e => e.2 == slot)
      match modOf w % 4 with
      | 0 => b2n !mine.isEmpty
      | 1 => b2n (mine.length == (act.filter (fun e => e.2 == slot)).length)
      | _ => (maskOf 32 (mine.map (·.1))).toNat)) s

/-- MOVS (02 R65). -/
def execMovs (i : Issue) (s : State) : Host.Outcome State Fault Refusal :=
  runIssue i 0x3A (fun i d _ act => d.result i act 1 (fun lane slot => d.readW i.core slot lane (srcaOf i.word))) s

end Sys2Proof.Machine
end

