-- ==== Sys2Proof/Machine/TallyOps.lean ====
section
/-! DEFINITION. The tally block's operations (06 R221-R229). -/

namespace Sys2Proof.Machine

def Tally.none : Tally :=
  { value := 0, lost := false, stale := false, owner := Option.none, resetGen := 0, lastSrc := 0, moved := false }

def Dev.tally (d : Dev) (n : Nat) : Tally := Tab.get d.tly.tallies n Tally.none

def Dev.setTally (d : Dev) (n : Nat) (t : Tally) : Dev :=
  { d with tly := { d.tly with tallies := Tab.put d.tly.tallies n t } }

/-- Index `n` names a tally owned by partition `p` (06 R229). -/
def Dev.tallyOwned (d : Dev) (p n : Nat) : Bool := n < 16384 && (d.tally n).owner == some p

/-- VALUE is equal to or ahead of the target: the target is not ahead of VALUE, one that is 2^63 away included (06 R224). -/
def tallyMet (v target : BitVec 64) : Bool := !serialAhead target.toNat v.toNat 64

/-- The waiters of tally `n` that `met` accepts leave as wakes, in registration order (06 R235). -/
def Dev.wakeWaiters (d : Dev) (n : Nat) (ok : Bool) (met : TallyWaiter → Bool) : Dev :=
  let go := d.tly.waiters.filter (fun w => w.tally == n && met w)
  { d with tly := { d.tly with
      waiters := d.tly.waiters.filter (fun w => !(w.tally == n && met w))
      wakes := d.tly.wakes ++ go.map (fun w => { who := w.who, met := ok }) } }

/-- The rings whose doorbell tally is `n` read their slot again (07 R258, R259). -/
def Dev.ringsHear (d : Dev) (n : Nat) : Dev :=
  { d with funcs := Tab.mapv d.funcs (fun u => { u with rings := Tab.mapv u.rings (fun r =>
      if r.kind && r.dbTally == n && r.st == .active then { r with slotEmpty := false } else r) }) }

/-- LAST_SRC of a source (06 Table 6-11); for the ledger and a composition engine the table gives none, and the value is
a free one. -/
def TallySrc.code (s : TallySrc) (x : Nat) : Nat :=
  match s with
  | .core _ => 1
  | .teller _ => 2
  | .frontEnd => 3
  | .window _ => 4
  | .ingest _ => 5
  | .mint => 6
  | .firmware => 7
  | .ledger => x % 16
  | .composition _ => x % 16

/-- A change of VALUE by `src`, with the wakes and ring watches it causes. -/
def Dev.tallyTo (d : Dev) (src : TallySrc) (n : Nat) (v : BitVec 64) : Dev :=
  let (x, d) := d.fresh
  let d := d.setTally n { d.tally n with value := v, lastSrc := src.code x }
  (d.wakeWaiters n true (fun w => tallyMet v w.target)).ringsHear n

/-- A SET or ADD changed VALUE in this epoch (15 R508). -/
def Dev.tallyMoved (d : Dev) (n : Nat) : Dev := d.setTally n { d.tally n with moved := true }

/-- A SET or ADD that is ignored: STALE, and the owner's TALLY_STALE (06 R222). -/
def Dev.tallyStale (d : Dev) (n : Nat) : Dev :=
  let t := d.tally n
  let d := d.setTally n { t with stale := true }
  match t.owner with
  | some p => d.violPart p 7
  | none => d

/-- SET, performed by the block (06 R222, R226). -/
def Dev.tallySet (d : Dev) (src : TallySrc) (n : Nat) (v : BitVec 64) : Dev :=
  let d := d.countGlobal 4 1
  let t := d.tally n
  if t.lost then (match t.owner with | some p => d.violPart p 8 | none => d)
  else if v = t.value then d.ringsHear n
  else if serialAhead v.toNat t.value.toNat 64 then (d.tallyTo src n v).tallyMoved n
  else d.tallyStale n

/-- ADD, performed by the block (06 R222, R226). -/
def Dev.tallyAdd (d : Dev) (src : TallySrc) (n : Nat) (v : BitVec 64) : Dev :=
  let d := d.countGlobal 4 1
  let t := d.tally n
  if t.lost then (match t.owner with | some p => d.violPart p 8 | none => d)
  else if v = 0 then d.ringsHear n
  else if v.toNat < 2 ^ 63 then (d.tallyTo src n (t.value + v)).tallyMoved n
  else d.tallyStale n

/-- REARM (06 R222): VALUE whatever the relation, LOST and STALE cleared, RESET_GEN from the count of resets. -/
def Dev.tallyRearm (d : Dev) (src : TallySrc) (n : Nat) (v : BitVec 64) : Dev :=
  let d := d.countGlobal 4 1
  let d := d.setTally n { d.tally n with lost := false, stale := false, resetGen := d.dp.count % 256 }
  if (d.tally n).value = v then d.wakeWaiters n true (fun w => tallyMet v w.target) else d.tallyTo src n v

/-- SET or ADD by its OP bit. -/
def Dev.tallySignal (d : Dev) (src : TallySrc) (n : Nat) (isAdd : Bool) (v : BitVec 64) : Dev :=
  if isAdd then d.tallyAdd src n v else d.tallySet src n v

/-- A signal by an agent that is no core: of an unowned tally, none, and TALLY_DENIED counts (06 R229). -/
def Dev.agentSignal (d : Dev) (src : TallySrc) (p n : Nat) (isAdd : Bool) (v : BitVec 64) : Dev :=
  if d.tallyOwned p n then d.tallySignal src n isAdd v else d.violPart p 9

/-- WAIT reaches the block (06 R224, R226): lost answers 0 at once, a met target 1 at once, else it is registered. -/
def Dev.tallyWait (d : Dev) (who : TallyWho) (n : Nat) (target : BitVec 64) : Dev :=
  let d := d.countGlobal 4 1
  let t := d.tally n
  if t.lost then { d with tly := { d.tly with wakes := d.tly.wakes ++ [{ who := who, met := false }] } }
  else if tallyMet t.value target then
    { d with tly := { d.tly with wakes := d.tly.wakes ++ [{ who := who, met := true }] } }
  else { d with tly := { d.tly with waiters := d.tly.waiters ++ [{ who := who, tally := n, target := target }] } }

/-- A wait withdrawn, with any wake still on its way (06 R235). -/
def Dev.unwait (d : Dev) (who : TallyWho) : Dev :=
  { d with tly := { d.tly with
      waiters := d.tly.waiters.filter (fun w => w.who != who)
      wakes := d.tly.wakes.filter (fun w => w.who != who) } }

/-- The status word of a tally (06 Table 6-11). -/
def Dev.tallyStatus (d : Dev) (n : Nat) : Nat :=
  let t := d.tally n
  at_ 31 (b2n t.lost) + at_ 30 (b2n t.stale) + at_ 29 (b2n (d.tly.waiters.any (fun w => w.tally == n)))
    + at_ 28 (b2n t.owner.isSome) + at_ 24 (t.owner.getD 0 % 16) + at_ 8 (t.resetGen % 256) + t.lastSrc % 16

/-- A tally's owner changes, or an FLR clears it: VALUE and status 0, its waiters complete with 0 (06 R227). -/
def Dev.tallyClear (d : Dev) (n : Nat) (owner : Option Nat) : Dev :=
  (d.setTally n { Tally.none with owner := owner, moved := (d.tally n).moved }).wakeWaiters n false (fun _ => true)

/-- Every tally at a data-plane reset (06 R226). RESET_GEN and LAST_SRC of an owned tally are kept. -/
def Dev.talliesLost (d : Dev) : Dev :=
  { d with tly :=
      { tallies := Tab.mapv d.tly.tallies (fun t => if t.owner.isSome then
          { t with value := 0, lost := true, stale := false } else
          { t with value := 0, lost := false, stale := false })
        waiters := [], wakes := [], ops := [] } }

end Sys2Proof.Machine
end

