-- ==== Sys2Proof/Machine/TallyInsn.lean ====
section
/-! DEFINITION. The tally instructions, the tally block's operations, and the tally window (06 R222-R238). -/

namespace Sys2Proof.Machine

/-- The groups of the active lanes, each with its lowest active lane (02 R87). -/
def groupLanes (act : List (Nat × Nat)) : List (Nat × Nat) :=
  act.filter (fun e => (act.find? (fun x => x.2 == e.2)).any (fun x => x.1 == e.1))

/-- The first lane that names a tally that the strand's partition does not own (06 R233). -/
def Dev.badTally (d : Dev) (i : Issue) (st : Strand) (lanes : List (Nat × Nat)) : Option (Nat × Nat) :=
  lanes.find? (fun e => !d.tallyOwned (d.strandPart i.core st) (d.readW i.core e.2 e.1 (srcaOf i.word)))

/-- Operations of a core set out for the block, and the strand blocks on their answers. -/
def Dev.tallyOut (d : Dev) (i : Issue) (st : Strand) (ops : List (Nat × TallyOp)) : Dev :=
  if ops.isEmpty then d.advance i.core i.strand else
  let new : List TallyOp := ops.map (fun (e : Nat × TallyOp) => e.2)
  let keys : List Nat := ops.map (fun (e : Nat × TallyOp) => e.1)
  let d := { d with tly := { d.tly with ops := d.tly.ops ++ new } }
  (d.countCluster (clusterOf i.core) 14 ops.length).setStrand i.core i.strand { st with wait := .op i.word keys [] }

/-- The earlier operations of the active threads of one group of a strand (06 R230). -/
def Dev.groupOps (d : Dev) (ci slot : Nat) (act : List (Nat × Nat)) : List Nat :=
  ((d.core ci).ops.filter (fun e => e.2.group == slot && act.contains (e.2.lane, slot))).map (·.1)

/-- TSIG (06 R230). -/
def execTsig (i : Issue) (s : State) : Host.Outcome State Fault Refusal :=
  runIssue i 0x62 (fun i d st act =>
    let w := i.word
    let gs := groupLanes act
    match d.badTally i st gs with
    | some e => d.coreFault i.core (st.one e) 0x0C 0
    | none =>
    d.tallyOut i st (gs.map (fun e =>
      let v := BitVec.ofNat 64 (d.readP i.core e.2 e.1 (srcbOf w))
      (e.2, { src := .core i.core, part := d.strandPart i.core st, tally := d.readW i.core e.2 e.1 (srcaOf w),
              act := if bitOf (subOf w) 15 then .add v else .set v, answer := .strand i.core i.strand e.2,
              after := if fld (subOf w) 11 10 = 2 then d.groupOps i.core e.2 act else [] })))) s

/-- TWAIT (06 R231). -/
def execTwait (i : Issue) (s : State) : Host.Outcome State Fault Refusal :=
  runIssue i 0x63 (fun i d st act =>
    let w := i.word
    let gs := groupLanes act
    match d.badTally i st gs with
    | some e => d.coreFault i.core (st.one e) 0x0C 0
    | none =>
    d.tallyOut i st (gs.map (fun e =>
      (e.2, { src := .core i.core, part := d.strandPart i.core st, tally := d.readW i.core e.2 e.1 (srcaOf w),
              act := .wait (BitVec.ofNat 64 (d.readP i.core e.2 e.1 (srcbOf w))), answer := .strand i.core i.strand e.2,
              after := [] })))) s

/-- TREAD (06 R232). -/
def execTread (i : Issue) (s : State) : Host.Outcome State Fault Refusal :=
  runIssue i 0x64 (fun i d st act =>
    let w := i.word
    match d.badTally i st act with
    | some e => d.coreFault i.core (st.one e) 0x0C 0
    | none =>
    d.tallyOut i st (act.map (fun e =>
      (e.1, { src := .core i.core, part := d.strandPart i.core st, tally := d.readW i.core e.2 e.1 (srcaOf w),
              act := .read (bitOf (subOf w) 15), answer := .strand i.core i.strand e.1, after := [] })))) s

/-- A strand waits in a TWAIT with a timeout for the given group slot. -/
def twaitOf (s : Strand) (slot : Nat) : Bool :=
  match s.wait with
  | .op w left _ => opcOf w == 0x63 && fld (subOf w) 15 12 != 0 && left.contains slot
  | _ => false

/-- TWAIT_TIMEOUT (06 R231, R235): the wait is withdrawn and ends with result 0. -/
def execTwaitTimeout (core strand group : Nat) (s : State) : Host.Outcome State Fault Refusal :=
  s.on (fun d =>
    match d.strand? core strand with
    | none => d
    | some st =>
      if !twaitOf st group then d else
      let d := d.unwait (.core core strand group)
      let d := { d with tly := { d.tly with
        ops := d.tly.ops.filter (fun o => o.answer != TallyAnswer.strand core strand group) } }
      d.answer core strand group group 0)

/-- The accesses a release covers have been performed (06 R225). -/
def Dev.released (d : Dev) (o : TallyOp) : Bool :=
  match o.src with
  | .core ci => !(o.after.any (fun id => Tab.has (d.core ci).ops id))
  | _ => true

/-- The answer of a SET, ADD, REARM or READ goes back. -/
def Dev.tallyAnswer (d : Dev) (o : TallyOp) (v : Nat) : Dev :=
  match o.answer with
  | .strand ci sid key => d.answer ci sid key key v
  | _ => d

/-- An operation performed by the block (06 R222-R226). One of a partition that no longer owns the tally has no effect and
is answered (06 R227). -/
def Dev.tallyDo (d : Dev) (o : TallyOp) : Dev :=
  if !d.tallyOwned o.part o.tally then d.tallyAnswer o 0 else
  match o.act with
  | .set v => (d.tallySet o.src o.tally v).tallyAnswer o 0
  | .add v => (d.tallyAdd o.src o.tally v).tallyAnswer o 0
  | .rearm v => (d.tallyRearm o.src o.tally v).tallyAnswer o 0
  | .read st =>
    (d.countGlobal 4 1).tallyAnswer o (if st then d.tallyStatus o.tally else (d.tally o.tally).value.toNat)
  | .wait t =>
    match o.answer with
    | .strand ci sid key => d.tallyWait (.core ci sid key) o.tally t
    | _ => d

/-- TALLY_OPERATION (06 R223): operation `k` is performed; one source's operations on one tally keep their order, and a
release waits for the accesses it covers. -/
def execTallyOperation (k : Nat) (s : State) : Host.Outcome State Fault Refusal :=
  s.on (fun d =>
    match d.tly.ops[k]? with
    | none => d
    | some o =>
      if (d.tly.ops.take k).any (fun x => x.src == o.src && x.tally == o.tally) || !d.released o then d
      else ({ d with tly := { d.tly with ops := d.tly.ops.eraseIdx k } }).tallyDo o)

/-! ### The tally window (06 R237, R238) -/

/-- A host operation through function `f`'s window on a tally of a partition bound to it; any other is denied. -/
def Dev.windowOp (d : Dev) (f n : Nat) (op : Dev → Dev) : Dev :=
  match (d.tally n).owner with
  | some p => if n < 16384 && d.bound f p then op d else d.denied f
  | none => d.denied f

/-- TLY_SET (06 R237). -/
def execTlySet (f n v : Nat) (s : State) : Host.Outcome State Fault Refusal :=
  s.on (fun d => d.windowOp f n (fun d => d.tallySet (.window f) n (BitVec.ofNat 64 v)))

/-- TLY_ADD (06 R237). -/
def execTlyAdd (f n v : Nat) (s : State) : Host.Outcome State Fault Refusal :=
  s.on (fun d => d.windowOp f n (fun d => d.tallyAdd (.window f) n (BitVec.ofNat 64 v)))

/-- TLY_REARM (06 R222, R237). -/
def execTlyRearm (f n v : Nat) (s : State) : Host.Outcome State Fault Refusal :=
  s.on (fun d => d.windowOp f n (fun d => d.tallyRearm (.window f) n (BitVec.ofNat 64 v)))

end Sys2Proof.Machine
end

