-- ==== Sys2Proof/Machine/MintOps.lean ====
section
/-! DEFINITION. The mint (05 R199-R208): pools, calls, MALLOC and MFREE. -/

namespace Sys2Proof.Machine

def Pool.none : Pool :=
  { valid := false, users := 0, sizeLog2 := 0, tallyEn := false, tally := 0, lowWater := 0, count := 0, ctx := 0,
    metaDva := 0, base := 0, cursor := 0, free := 0, minFree := 0, below := false, exhausted := false }

def Dev.pool (d : Dev) (p i : Nat) : Pool := Tab.get d.mint.pools (8 * p + i) Pool.none

def Dev.setPool (d : Dev) (p i : Nat) (x : Pool) : Dev :=
  { d with mint := { d.mint with pools := Tab.put d.mint.pools (8 * p + i) x } }

/-- The mint's agent: requester 35, UNIT 10. -/
def mintAgent (ctx : Nat) : Agent := { rq := rqUnit 35 0, unit := 10, index := 0, ctx := ctx }

/-- A byte of a bitmap. One that no longer translates, or is poisoned, reads as all allocated (notes/assumptions/7.md). -/
def Dev.mapByte (d : Dev) (x : Pool) (k : Nat) : Nat × Dev :=
  match d.translate x.ctx (x.metaDva + k) .write with
  | (.error _, d) => (255, d)
  | (.ok (pa, _), d) =>
    let (l, p, d) := d.ncRead (rqUnit 35 0) 4 (pa / 128)
    (if p.getLsbD (pa % 128 / 8) then 255 else (lineByte l (pa % 128)).toNat, d)

/-- A byte of a bitmap written to DRAM, uncached (05 R202). -/
def Dev.setMapByte (d : Dev) (x : Pool) (k v : Nat) : Dev :=
  match d.translate x.ctx (x.metaDva + k) .write with
  | (.error _, d) => d
  | (.ok (pa, _), d) =>
    d.ncWrite (rqUnit 35 0) 4 (pa / 128) (spanMask (pa % 128) 1) (lineSet 0 (pa % 128) (toLe 1 v)) 0

/-- Bit `i` of a pool's bitmap: object `i` is allocated. -/
def Dev.mapBit (d : Dev) (x : Pool) (i : Nat) : Bool × Dev :=
  let (b, d) := d.mapByte x (i / 8)
  (bitOf b (i % 8), d)

def Dev.setMapBit (d : Dev) (x : Pool) (i : Nat) (v : Bool) : Dev :=
  let (b, d) := d.mapByte x (i / 8)
  d.setMapByte x (i / 8) (setFld b (i % 8) (i % 8) (b2n v))

/-- The first clear bit at or after `i`, cyclically; `n` bits are still to look at. -/
def Dev.firstClear (d : Dev) (x : Pool) (i : Nat) : Nat → Option Nat × Dev
  | 0 => (none, d)
  | n + 1 =>
    match d.mapBit x (i % max 1 x.count) with
    | (false, d) => (some (i % max 1 x.count), d)
    | (true, d) => d.firstClear x (i + 1) n

/-- An empty answer: EXHAUSTED and MINT_EMPTY (05 R206). -/
def Dev.mintEmpty (d : Dev) (p i : Nat) : Dev := (d.setPool p i { d.pool p i with exhausted := true }).violPart p 5

/-- One object of a pool granted; none where the pool is empty (05 R202, R207). -/
def Dev.mintTake (d : Dev) (p i : Nat) : Option Nat × Dev :=
  let x := d.pool p i
  if x.free = 0 then (none, d) else
  match d.firstClear x x.cursor x.count with
  | (none, d) => (none, d)
  | (some k, d) =>
    let d := d.setMapBit x k true
    let free := x.free - 1
    let falls := x.lowWater != 0 && x.free == x.lowWater
    let d := d.setPool p i { x with cursor := (k + 1) % max 1 x.count, free := free, minFree := min x.minFree free,
                                    below := x.below || falls }
    let d := if falls && x.tallyEn then d.agentSignal .mint p x.tally true 1 else d
    (some (x.base + k * 2 ^ x.sizeLog2), d)

/-- A call for one object by a user of the pool (05 R206): bit `user` of USERS must be set. -/
def Dev.mintCall (d : Dev) (p i user : Nat) : Option Nat × Dev :=
  let d := d.countGlobal 3 1
  let x := d.pool p i
  if !x.valid || !bitOf x.users user then (none, (d.violPart p 3).mintEmpty p i) else
  match d.mintTake p i with
  | (some a, d) => (some a, d)
  | (none, d) => (none, d.mintEmpty p i)

/-- An object returned (05 R202, R206). -/
def Dev.mintReturn (d : Dev) (p i user a : Nat) : Dev :=
  let d := d.countGlobal 3 1
  let x := d.pool p i
  if !x.valid || !bitOf x.users user then (d.violPart p 3).mintEmpty p i else
  let k := (a - x.base) / 2 ^ x.sizeLog2
  if a < x.base || (a - x.base) % 2 ^ x.sizeLog2 != 0 || k ≥ x.count then d.violPart p 4 else
  match d.mapBit x k with
  | (false, d) => d.violPart p 4
  | (true, d) =>
    let d := d.setMapBit x k false
    let free := x.free + 1
    d.setPool p i { x with free := free, below := x.below && decide (free < x.lowWater) }

/-- The lowest-numbered valid pool with a USERS bit and an object size (05 Table 5-10). -/
def Dev.poolFor (d : Dev) (p user size : Nat) : Option Nat :=
  (List.range 8).find? (fun i => (d.pool p i).valid && bitOf (d.pool p i).users user && (d.pool p i).sizeLog2 == size)

/-- The lanes of a MALLOC served in order: once the pool is empty, the rest receive 0. -/
def Dev.mintLanes (d : Dev) (q : MintReq) : List Nat → Dev
  | [] => d
  | l :: rest =>
    match d.mintTake q.part q.pool with
    | (some a, d) => (d.answer q.core q.strand l l a).mintLanes q rest
    | (none, d) => (l :: rest).foldl (fun (d : Dev) k => d.answer q.core q.strand k k 0) (d.mintEmpty q.part q.pool)

/-- MINT_CALL (05 R202, R206): call `k` is served; a pool's calls are served in arrival order, and an MFREE only after the
accesses its release covers. -/
def execMintCall (k : Nat) (s : State) : Host.Outcome State Fault Refusal :=
  s.on (fun d =>
    match d.mint.calls[k]? with
    | none => d
    | some q =>
      if !d.running || (d.mint.calls.take k).any (fun x => x.part == q.part && x.pool == q.pool) ||
          q.after.any (fun id => Tab.has (d.core q.core).ops id) then d else
      let d := { d with mint := { d.mint with calls := d.mint.calls.eraseIdx k } }
      match q.free with
      | some a => d.mintReturn q.part q.pool 0 a
      | none =>
        let d := d.countGlobal 3 1
        let x := d.pool q.part q.pool
        if !x.valid || !bitOf x.users 0 then
          q.lanes.foldl (fun (d : Dev) l => d.answer q.core q.strand l l 0)
            ((d.violPart q.part 3).mintEmpty q.part q.pool)
        else d.mintLanes q q.lanes)

/-- MALLOC (05 R204). -/
def execMalloc (i : Issue) (s : State) : Host.Outcome State Fault Refusal :=
  runIssue i 0x66 (fun i d st act =>
    let lanes := act.map (·.1)
    if lanes.isEmpty then d.advance i.core i.strand else
    let q : MintReq := { part := d.strandPart i.core st, pool := fld (subOf i.word) 15 13, core := i.core,
                         strand := i.strand, lanes := lanes, free := none, after := [] }
    ({ d with mint := { d.mint with calls := d.mint.calls ++ [q] } }).setStrand i.core i.strand
      { st with wait := .op i.word lanes [] }) s

/-- MFREE (05 R204, R205): the strand goes on once the mint has accepted the lanes' calls. -/
def execMfree (i : Issue) (s : State) : Host.Outcome State Fault Refusal :=
  runIssue i 0x67 (fun i d st act =>
    let q : Nat × Nat → MintReq := fun e =>
      { part := d.strandPart i.core st, pool := fld (subOf i.word) 15 13, core := i.core, strand := i.strand, lanes := [],
        free := some (d.laneAddr i.core e.2 e.1 i.word 0), after := d.groupOps i.core e.2 [e] }
    ({ d with mint := { d.mint with calls := d.mint.calls ++ act.map q } }).advance i.core i.strand) s

end Sys2Proof.Machine
end

