-- ==== Sys2Proof/Machine/Rings.lean ====
section
/-! DEFINITION. Command rings: their registers, doorbells, the fetch and start of commands, and their completion actions
(07 R245-R268, R588). -/

namespace Sys2Proof.Machine

/-! ### Fields of a command (07 Tables 7-16, 7-17) -/

def Cmd.f (c : Cmd) (hi lo : Nat) : Nat := fld c.raw.toNat hi lo
def Cmd.bit (c : Cmd) (n : Nat) : Bool := c.raw.getLsbD n
def Cmd.op (c : Cmd) : Nat := c.f 7 0
def Cmd.id (c : Cmd) (fn r : Nat) : CmdId := { fn := fn, ring := r, count := c.count, inner := c.inner }

/-- Opcodes that a chapter defines (07 R262). -/
def opDefined (o : Nat) : Bool :=
  [0x00, 0x01, 0x02, 0x08, 0x09, 0x10, 0x11, 0x18, 0x19, 0x1A, 0x40, 0x50, 0x58, 0x59, 0x5A].contains o ||
  (0x20 ≤ o && o ≤ 0x27) || (0x30 ≤ o && o ≤ 0x35)

/-- The reserved bit fields of each command's body. -/
def bodyReserved (o : Nat) : List (Nat × Nat) :=
  match o with
  | 0x00 => [(511, 256)]
  | 0x01 => [(511, 352), (335, 334)]
  | 0x02 => [(511, 334)]
  | 0x08 => [(511, 333), (319, 304)]
  | 0x09 => [(511, 324), (319, 304)]
  | 0x10 => [(511, 416), (383, 368), (319, 304)]
  | 0x11 => [(447, 416), (383, 368), (319, 256)]
  | 0x18 => [(511, 366), (359, 355), (351, 344), (319, 304)]
  | 0x19 => [(511, 354), (351, 344), (319, 304)]
  | 0x1A => [(511, 304)]
  | 0x20 => [(511, 314)]
  | 0x21 => [(511, 266)]
  | 0x22 => [(383, 280), (271, 266)]
  | 0x23 => [(511, 314)]
  | 0x24 => [(511, 384), (319, 290), (288, 288), (271, 266)]
  | 0x25 => [(383, 290), (288, 286), (271, 266)]
  | 0x26 => [(511, 266)]
  | 0x27 => [(511, 384), (319, 268)]
  | 0x30 => [(511, 384), (339, 266)]
  | 0x31 => [(511, 384), (319, 266)]
  | 0x32 => [(511, 400), (319, 266)]
  | 0x33 => [(447, 417), (351, 321), (319, 266)]
  | 0x34 => [(511, 263)]
  | 0x35 => [(511, 304)]
  | 0x40 => [(511, 304)]
  | 0x50 => [(511, 310)]
  | 0x58 => [(511, 313), (305, 305)]
  | 0x59 => [(511, 307)]
  | 0x5A => [(365, 306)]
  | _ => []

/-- The command is malformed by its header alone or by a reserved bit (07 R263). -/
def Cmd.malformed (c : Cmd) (fn : Nat) : Bool :=
  c.bad || !opDefined c.op || c.f 191 176 != 0 || c.f 63 58 != 0 || c.f 15 8 != 0 ||
  (bodyReserved c.op).any (fun e => c.f e.1 e.2 != 0) || (c.bit 51 && decide (c.f 57 52 ≥ vecCount fn))

/-! ### Ring state -/

/-- The commands that have started and not completed; a BATCH stands for its inner commands (07 R252, R272). -/
def Ring.inFlight (r : Ring) : List Cmd := r.cmds.filter (fun c => c.phase != .fetched && c.batch.isNone)

/-- N, the entries of a ring. -/
def Ring.entries (r : Ring) : Nat := 2 ^ r.log2n

def Ring.baseDva (r : Ring) : Nat := r.base * 4096

/-- FE_RING_STATUS STATE (07 Table 7-12): RUNNING while commands are in flight or fetched, WAITING while a WAIT holds the
ring or its slot is empty. -/
def Ring.stateCode (r : Ring) : Nat :=
  match r.st with
  | .disabled => 0
  | .zeroing => 0
  | .draining => 4
  | .error => 5
  | .lost => 6
  | .active =>
    if r.cmds.any (fun c => c.op == 0x01 && c.phase == .running) then 3
    else if !r.cmds.isEmpty then 2
    else if r.kind && r.slotEmpty then 3
    else if !r.kind && r.head != r.tail then 2 else 1

/-- Partition `p` is being released (14 R475). -/
def Dev.releasing (d : Dev) (p : Nat) : Bool := d.mgmt.reqs.any (fun r => r.accepted && r.msg == 0x0106 && r.p 0 1 == p)

/-- Commands of ring `r` are fetched and started: the data plane runs, no FLR of the function is in progress (10 R376), and the
ring's partition is not being released (14 R475). -/
def Dev.feOk (d : Dev) (f r : Nat) : Bool :=
  d.running && (d.func f).flr.isNone && !d.releasing (d.ctx (d.ring f r).ctx).part

/-- The front end as an agent: requester 36, UNIT 2. -/
def feAgent (f ctx : Nat) : Agent := { rq := rqUnit 36 f, unit := 2, index := 0, ctx := ctx }

/-- The partition of a context. -/
def Dev.ctxPart (d : Dev) (c : Nat) : Nat := (d.ctx c).part

/-! ### Tags (07 R245-R247) -/

/-- The context of local tag `i` of a function, where it resolves. -/
def Dev.resolveTag (d : Dev) (f i : Nat) : Option Nat :=
  let u := d.func f
  let e := Tab.get d.tags (u.tagBase + i) 0
  if i < u.tagCount && bitOf e 63 && d.ownsCtx f (fld e 55 48) then some (fld e 55 48) else none

/-- TAG_WRITE (07 R246). -/
def Dev.tagWrite (d : Dev) (f i v : Nat) : Dev :=
  let u := d.func f
  if i ≥ u.tagCount then d
  else if bitOf v 63 && !d.ownsCtx f (fld v 55 48) then d.denied f
  else { d with tags := Tab.put d.tags (u.tagBase + i) (at_ 63 (fld v 63 63) + at_ 48 (fld v 55 48)) }

def execTagWrite (f i v : Nat) (s : State) : Host.Outcome State Fault Refusal := s.on (fun d => d.tagWrite f i v)

/-! ### Ring registers (07 R250, R251) -/

/-- The configuration check as EN rises. -/
def Dev.ringConfigOk (d : Dev) (f : Nat) (r : Ring) : Bool :=
  d.ownsCtx f r.ctx && decide (6 ≤ r.log2n) && decide (r.log2n ≤ 16) &&
  (!r.kind || d.tallyOwned (d.ctxPart r.ctx) r.dbTally)

/-- EN rises: the ring is checked and its counters are cleared. -/
def Dev.ringEnable (d : Dev) (f r : Nat) : Dev :=
  let x := d.ring f r
  if d.ringConfigOk f x then
    d.modRing f r (fun x => { x with en := true, head := 0, tail := 0, done := 0, err := 0, cmds := [], slotIssued := false,
                                     slotEmpty := false, st := if x.kind then .zeroing else .active })
  else d.modRing f r (fun x => { x with en := true, st := .error, err := 2 })

/-- EN falls: commands that have started run on, the others are dropped; a ring in ERROR or LOST is then DISABLED once
they have ended. -/
def Dev.ringDisable (d : Dev) (f r : Nat) : Dev :=
  d.modRing f r (fun x =>
    let keep := x.cmds.filter (fun c => c.phase != .fetched)
    { x with en := false, cmds := keep, st := if keep.isEmpty && x.st != .active then .disabled else .draining })

/-- A write of FE_RING_CFG_r. -/
def Dev.ringCfgWrite (d : Dev) (f r v : Nat) : Dev :=
  let x := d.ring f r
  let en := bitOf v 31
  let log2n := if 6 ≤ fld v 4 0 && fld v 4 0 ≤ 16 then fld v 4 0 else x.log2n
  let same := bitOf v 30 == x.kind && fld v 27 14 == x.dbTally && fld v 11 8 == x.weight && log2n == x.log2n
  if (x.en && !same) || (en && x.st == .draining) then d.denied f
  else
    let d := d.modRing f r (fun x => { x with kind := bitOf v 30, dbTally := fld v 27 14, weight := fld v 11 8, log2n := log2n })
    if en && !x.en then d.ringEnable f r else if !en && x.en then d.ringDisable f r else d

/-- RING_ENABLE (07 R250): the configuration is written with EN = 1. -/
def execRingEnable (f r v : Nat) (s : State) : Host.Outcome State Fault Refusal :=
  s.on (fun d => if f < 16 && r < 16 && bitOf v 31 then d.ringCfgWrite f r v else d)

/-- RING_DISABLE (07 R251): the configuration is written with EN = 0. -/
def execRingDisable (f r v : Nat) (s : State) : Host.Outcome State Fault Refusal :=
  s.on (fun d => if f < 16 && r < 16 && !bitOf v 31 then d.ringCfgWrite f r v else d)

/-- A front-end access failed: the job fault of Table 5-6, or of a poisoned granule. -/
def Dev.feFault (d : Dev) (f ctx : Nat) (x : AccFail) : Dev := d.agentFault (feAgent f ctx) (d.ctxPart ctx) x

/-- RING_IDLE (07 R250): the header and slots of a device-written ring are zero, and the ring is IDLE. -/
def execRingIdle (f r : Nat) (s : State) : Host.Outcome State Fault Refusal :=
  s.on (fun d =>
    let x := d.ring f r
    if x.st != .zeroing || !d.running then d else
    match d.agentWrite (feAgent f x.ctx) true x.baseDva (List.replicate (64 + 8 * x.entries) 0) with
    | (.error e, d) => d.feFault f x.ctx e
    | (.ok _, d) => d.modRing f r (fun x => { x with st := .active }))

/-- RING_DRAINED (07 R251): a draining ring with no command left becomes DISABLED. -/
def execRingDrained (f r : Nat) (s : State) : Host.Outcome State Fault Refusal :=
  s.on (fun d => if (d.ring f r).st == .draining && (d.ring f r).cmds.isEmpty then
    d.modRing f r (fun x => { x with st := .disabled }) else d)

/-- DOORBELL (07 R254). -/
def Dev.doorbell (d : Dev) (f r v : Nat) : Dev :=
  let x := d.ring f r
  let t := v % 2 ^ 32
  if x.st != .active || x.kind then d.denied f
  else if !serialAhead t x.tail 32 then d
  else if toBits 32 ((t : Int) - x.head) ≤ x.entries then d.modRing f r (fun x => { x with tail := t })
  else d.modRing f r (fun x => { x with st := .error, err := 1 })

def execDoorbell (f r v : Nat) (s : State) : Host.Outcome State Fault Refusal :=
  s.on (fun d => if f < 16 && r < 16 then d.doorbell f r v else d)

/-! ### Fetch (07 R247, R255-R258) -/

/-- A command copied into the front end: its tag is resolved as it is fetched. -/
def Dev.fetched (d : Dev) (f count inner : Nat) (bs : List Byte) (bad : Bool) : Cmd :=
  let raw := BitVec.ofNat 512 (leNat bs)
  let ctx := d.resolveTag f (fld raw.toNat 31 16)
  { count := count, inner := inner, raw := raw, ctx := ctx, part := d.ctxPart (ctx.getD 0), bad := bad, phase := .fetched,
    status := 0, detail := 0, epochs := 0, batch := none, discarded := false }

/-- Up to `n` published commands of a host-written ring copied, in count order. -/
def Dev.fetchMany (d : Dev) (f r : Nat) : Nat → Dev
  | 0 => d
  | n + 1 =>
    let x := d.ring f r
    if x.head = x.tail then d else
    match d.agentRead (feAgent f x.ctx) true (x.baseDva + 64 * (x.head % x.entries)) 64 with
    | (.error e, d) => d.feFault f x.ctx e
    | (.ok bs, d) =>
      let c := d.fetched f x.head 0 bs false
      (d.modRing f r (fun x => { x with head := (x.head + 1) % 2 ^ 32, cmds := x.cmds ++ [c] })).fetchMany f r n

/-- COMMAND_FETCH (07 R255, R256, R588): up to 8 published commands of a host-written ring are read, or the read of the
next slot of a device-written ring is issued. Commands read and not started are at most 8. -/
def execCommandFetch (f r : Nat) (s : State) : Host.Outcome State Fault Refusal :=
  s.on (fun d =>
    let x := d.ring f r
    if !d.feOk f r || x.st != .active then d
    else if x.kind then (if x.slotEmpty then d else d.modRing f r (fun x => { x with slotIssued := true }))
    else d.fetchMany f r (8 - (x.cmds.filter (fun c => c.phase == .fetched)).length))

/-- A slot of a device-written ring has a reserved bit set (07 Table 7-15). -/
def badSlot (v : Nat) : Bool := fld v 63 48 != 0 || bitOf v 5 || bitOf v 3

/-- SLOT_READ (07 R258): slot HEAD mod N is read; a command found there is copied, its object returned where FREE = 1, the
slot zeroed and HEAD advanced in memory and in the register. -/
def execSlotRead (f r : Nat) (s : State) : Host.Outcome State Fault Refusal :=
  s.on (fun d =>
    let x := d.ring f r
    if !d.feOk f r || x.st != .active || !x.slotIssued || (x.cmds.filter (fun c => c.phase == .fetched)).length ≥ 8 then d
    else
      let a := feAgent f x.ctx
      let slot := x.baseDva + 64 + 8 * (x.head % x.entries)
      let d := d.modRing f r (fun x => { x with slotIssued := false })
      match d.agentRead a true slot 8 with
      | (.error e, d) => d.feFault f x.ctx e
      | (.ok bs, d) =>
        let v := leNat bs
        if v = 0 then d.modRing f r (fun x => { x with slotEmpty := true }) else
        let cmd := fld v 47 6 * 64
        match d.agentRead a true cmd 64 with
        | (.error e, d) => d.feFault f x.ctx e
        | (.ok bs, d) =>
          let d := if bitOf v 4 then d.mintReturn (d.ctxPart x.ctx) (fld v 2 0) 2 cmd else d
          match d.agentWrite a true slot (toLe 8 0) with
          | (.error e, d) => d.feFault f x.ctx e
          | (.ok _, d) =>
            match d.agentWrite a true (x.baseDva + 8) (toLe 8 ((x.head + 1) % 2 ^ 32)) with
            | (.error e, d) => d.feFault f x.ctx e
            | (.ok _, d) =>
              let c := d.fetched f x.head 0 bs (badSlot v)
              d.modRing f r (fun x => { x with head := (x.head + 1) % 2 ^ 32, cmds := x.cmds ++ [c] }))

/-! ### Commands in the front end -/

def Dev.cmd? (d : Dev) (x : CmdId) : Option Cmd :=
  (d.ring x.fn x.ring).cmds.find? (fun c => c.count == x.count && c.inner == x.inner)

def Dev.modCmd (d : Dev) (x : CmdId) (g : Cmd → Cmd) : Dev :=
  d.modRing x.fn x.ring (fun r => { r with cmds := r.cmds.map (fun c =>
    if c.count = x.count && c.inner = x.inner then g c else c) })

/-- A command's effects are performed, with this status and DETAIL. -/
def Dev.cmdDone (d : Dev) (x : CmdId) (status detail : Nat) : Dev :=
  d.modCmd x (fun c => { c with phase := .performed, status := status, detail := detail })

/-- A command has been taken up by its unit and is performed later. -/
def Dev.cmdRuns (d : Dev) (x : CmdId) : Dev := d.modCmd x (fun c => { c with phase := .running })

/-- The effect of a started command of opcode `op`, given its command and context. -/
def Dev.runCmd (d : Dev) (x : CmdId) (op : Nat) (eff : Dev → Cmd → Nat → Dev) : Dev :=
  match d.cmd? x with
  | some c => if c.phase == .started && c.op == op && d.running then eff d c (c.ctx.getD 0) else d
  | none => d

/-- The shape of every ring command's meaning. -/
def runRing (x : CmdId) (op : Nat) (eff : Dev → Cmd → Nat → Dev) (s : State) : Host.Outcome State Fault Refusal :=
  s.on (fun d => d.runCmd x op eff)

/-! ### Start (07 R265, R272) -/

/-- The commands before position `k`, a BATCH left out. -/
def Ring.before (r : Ring) (k : Nat) : List Cmd := (r.cmds.take k).filter (fun c => c.batch.isNone)

/-- What may start next: `inner` a command of the started BATCH at position `k`, else the fetched command there. -/
inductive NextCmd where
  | none
  | inner (k : Nat)
  | at (k : Nat)
  deriving DecidableEq, Repr

/-- The next command in ring order. A BATCH not yet taken up, and a WAIT, let no later command start. -/
def Ring.nextCmd (r : Ring) : NextCmd :=
  match r.cmds.findIdx? (fun c => c.op == 0x08 && c.inner == 0 && c.phase == .started) with
  | some _ => .none
  | none =>
    if r.cmds.any (fun c => c.op == 0x01 && c.phase != .fetched) then .none else
    match r.cmds.findIdx? (fun c => match c.batch with | some b => decide (b.next < b.count) | none => false) with
    | some k => .inner k
    | none =>
      match r.cmds.findIdx? (fun c => c.phase == .fetched) with
      | some k => .at k
      | none => .none

/-- A command starts: one whose tag did not resolve, that is malformed, or that is a NOP is performed at once. -/
def Dev.startCmd (d : Dev) (x : CmdId) (c : Cmd) : Dev :=
  if c.ctx.isNone then d.cmdDone x 0x11 0
  else if c.malformed x.fn || (c.inner != 0 && c.op == 0x08) then d.cmdDone x 0x10 0
  else if c.op = 0x00 then d.cmdDone x 0 0
  else d.modCmd x (fun c => { c with phase := .started })

/-- COMMAND_START (07 R247, R252, R265, R272). -/
def execCommandStart (f r : Nat) (s : State) : Host.Outcome State Fault Refusal :=
  s.on (fun d =>
    let x := d.ring f r
    if !d.feOk f r || x.st != .active || x.inFlight.length ≥ 8 then d else
    match x.nextCmd with
    | .none => d
    | .at k =>
      match x.cmds[k]? with
      | none => d
      | some c => if c.bit 32 && !(x.before k).isEmpty then d else d.startCmd (c.id f r) c
    | .inner k =>
      match x.cmds[k]? with
      | none => d
      | some b =>
        let bt := b.batch.getD { addr := 0, count := 0, next := 0 }
        let ctx := b.ctx.getD 0
        match d.agentRead (feAgent f ctx) true ((bt.addr + 64 * bt.next) % 2 ^ 48) 64 with
        | (.error e, d) => d.feFault f ctx e
        | (.ok bs, d) =>
          let c := d.fetched f b.count (bt.next + 1) bs false
          if c.bit 32 && x.cmds.any (fun o => o.batch.isNone && o.phase != .fetched) then d else
          let d := d.modCmd (b.id f r) (fun b => { b with batch := some { bt with next := bt.next + 1 } })
          -- the inner command stands behind the batch's earlier ones and before what follows the batch
          let d := d.modRing f r (fun x =>
            let m := x.cmds.findIdx (fun o => o.phase == .fetched)
            { x with cmds := x.cmds.take m ++ [c] ++ x.cmds.drop m })
          d.startCmd (c.id f r) c)

/-! ### Completion (07 R264-R269) -/

/-- The 32 bytes of a receipt (07 Table 7-28). -/
def Dev.receiptBytes (d : Dev) (c : Cmd) : List Byte :=
  [c.status % 256, c.op].flatMap (toLe 1) ++ toLe 2 c.inner ++ toLe 4 c.count ++ toLe 8 (c.f 255 192) ++
  toLe 8 d.time.ts ++ toLe 8 c.detail

/-- The receipt (07 R267, R268): one posted write to host memory, or dropped. While the function may issue no request it
is as a write that the host discarded (17 R536). -/
def Dev.receipt (d : Dev) (f : Nat) (c : Cmd) : Dev :=
  if !c.bit 33 then d else
  let addr := c.f 175 128
  let drop := fun (d : Dev) => d.violFn f 1
  match c.ctx with
  | none => drop d
  | some ctx =>
    if addr % 32 != 0 then drop d else
    match d.xlate { feAgent f ctx with rq := { id := 36, part := some c.part, func := f } } addr .write with
    | (.error _, d) => drop d
    | (.ok (pa, _), d) =>
      if pa < 2 ^ 47 || (d.func f).flr.isSome then drop d else
      if !d.masterOk f || d.mem.refused.contains (pa / 128) then d else
      let bs := d.receiptBytes c
      let d := { d with mem := { d.mem with host := Mem.writeN d.mem.host (pa - 2 ^ 47) bs } }
      (d.countGlobal 13 32).useHost (some c.part) 32

/-- The completion actions of a command, in their order: receipt, signal, counters, interrupt (07 R266). -/
def Dev.complete (d : Dev) (x : CmdId) (c : Cmd) : Dev :=
  let d := d.receipt x.fn c
  let p := match c.ctx with | some _ => c.part | none => d.ctxPart (d.ring x.fn x.ring).ctx
  let d := if c.bit 34 then d.agentSignal .frontEnd p (c.f 50 37) (c.bit 35) (BitVec.ofNat 64 (c.f 127 64)) else d
  let d := d.countGlobal 1 1
  let d := if c.status = 0 then d else d.countGlobal 2 1
  let d := d.modRing x.fn x.ring (fun r =>
    { r with done := if c.inner = 0 then (r.done + 1) % 2 ^ 32 else r.done, notOk := r.notOk || c.status != 0 })
  if c.bit 51 then d.raiseVec x.fn (c.f 57 52) else d

/-- A BATCH whose last inner command has completed is performed. -/
def Dev.batchCheck (d : Dev) (x : CmdId) : Dev :=
  let r := d.ring x.fn x.ring
  match d.cmd? { x with inner := 0 } with
  | none => d
  | some b =>
    match b.batch with
    | some bt =>
      if bt.next = bt.count && !(r.cmds.any (fun c => c.count == x.count && c.inner != 0)) then
        d.cmdDone { x with inner := 0 } 0 0
      else d
    | none => d

/-- COMMAND_COMPLETE (07 R266). A command whose function is in a function-level reset ends with none of its completion
actions (10 R376). -/
def execCommandComplete (x : CmdId) (s : State) : Host.Outcome State Fault Refusal :=
  s.on (fun d =>
    match d.cmd? x with
    | none => d
    | some c =>
      if c.phase != .performed || !d.running then d else
      let d := if c.discarded || (d.func x.fn).flr.isSome then d else d.complete x c
      let d := d.modRing x.fn x.ring (fun r => { r with cmds := r.cmds.filter (fun o =>
        !(o.count == x.count && o.inner == x.inner)) })
      if x.inner = 0 then d else d.batchCheck x)

end Sys2Proof.Machine
end

