-- ==== Sys2Proof/Machine/Commands.lean ====
section
/-! DEFINITION. The ring commands of 07 (R270-R280), range maintenance (04 R175, R176), invalidations (05 R194-R196) and
failed host reads (05 R192). -/

namespace Sys2Proof.Machine

/-- An agent for a command's own accesses: requester `p` of its partition, UNIT 2. -/
def Dev.cmdAgent (d : Dev) (c : Cmd) (ctx : Nat) : Agent := { rq := d.rqPart c.part, unit := 2, index := 0, ctx := ctx }

/-! ### WAIT, REARM (07 R270, R271) -/

/-- WAIT: DENIED at once for a tally not owned; otherwise the tally block answers or registers it. -/
def execWait (x : CmdId) (s : State) : Host.Outcome State Fault Refusal :=
  runRing x 0x01 (fun d c _ =>
    if d.tallyOwned c.part (c.f 333 320) then
      (d.cmdRuns x).tallyWait (.command x) (c.f 333 320) (BitVec.ofNat 64 (c.f 319 256))
    else (d.violPart c.part 9).cmdDone x 0x05 0) s

/-- A WAIT's wake (07 R270): COMPLETED with the VALUE observed, or TALLY_LOST or DENIED. -/
def Dev.waitWoken (d : Dev) (x : CmdId) (met : Bool) : Dev :=
  match d.cmd? x with
  | none => d
  | some c =>
    if c.phase != .running then d else
    let t := d.tally (c.f 333 320)
    d.cmdDone x (if met then 0 else if t.lost && t.owner == some c.part then 0x04 else 0x05) t.value.toNat

/-- WAIT_TIMEOUT (07 R270): the TMO-th boundary since the start has passed. -/
def execWaitTimeout (x : CmdId) (s : State) : Host.Outcome State Fault Refusal :=
  s.on (fun d =>
    match d.cmd? x with
    | none => d
    | some c =>
      if c.op == 0x01 && c.phase == .running && c.f 351 336 != 0 && decide (c.epochs ≥ c.f 351 336) then
        (d.unwait (.command x)).cmdDone x 0x03 (d.tally (c.f 333 320)).value.toNat
      else d)

/-- REARM (07 R271). -/
def execRearm (x : CmdId) (s : State) : Host.Outcome State Fault Refusal :=
  runRing x 0x02 (fun d c _ =>
    let n := c.f 333 320
    if d.tallyOwned c.part n then (d.tallyRearm .frontEnd n (BitVec.ofNat 64 (c.f 319 256))).cmdDone x 0 0
    else (d.violPart c.part 9).cmdDone x 0x05 0) s

/-! ### BATCH, ENQ (07 R272-R274) -/

/-- BATCH: its inner commands start after it, in its place. -/
def execBatch (x : CmdId) (s : State) : Host.Outcome State Fault Refusal :=
  runRing x 0x08 (fun d c _ =>
    let n := c.f 332 320
    let a := c.f 303 256
    if n = 0 || n > 4096 || a % 64 != 0 || x.inner != 0 then d.cmdDone x 0x10 0
    else (d.cmdRuns x).modCmd x (fun c => { c with batch := some { addr := a, count := n, next := 0 } })) s

/-- ENQ: check, allocate, copy, reserve and store, signal. -/
def execEnq (x : CmdId) (s : State) : Host.Outcome State Fault Refusal :=
  runRing x 0x09 (fun d c ctx =>
    let t := d.ring x.fn (c.f 323 320)
    let src := c.f 303 256
    if src % 64 != 0 || !(t.en && t.kind && t.st == .active) || d.ctxPart t.ctx != c.part then d.cmdDone x 0x10 0 else
    match d.poolFor c.part 2 6 with
    | none => d.cmdDone x 0x02 0
    | some i =>
      match d.mintCall c.part i 2 with
      | (none, d) => d.cmdDone x 0x02 0
      | (some obj, d) =>
        let a := d.cmdAgent c ctx
        match d.agentRead a true src 64 with
        | (.error e, d) => d.agentFault a c.part e
        | (.ok bs, d) =>
          let ao := { a with ctx := (d.pool c.part i).ctx }
          match d.agentWrite ao true obj bs with
          | (.error e, d) => d.agentFault ao c.part e
          | (.ok _, d) =>
            let ar := { a with ctx := t.ctx }
            match d.agentRead ar true t.baseDva 16 with
            | (.error e, d) => d.agentFault ar c.part e
            | (.ok hd, d) =>
              let res := leNat (hd.take 8)
              let head := leNat (hd.drop 8)
              if toBits 64 ((res : Int) - head) ≥ t.entries then (d.mintReturn c.part i 2 obj).cmdDone x 0x02 0 else
              match d.agentWrite ar true t.baseDva (toLe 8 (res + 1)) with
              | (.error e, d) => d.agentFault ar c.part e
              | (.ok _, d) =>
                match d.agentWrite ar true (t.baseDva + 64 + 8 * (res % t.entries)) (toLe 8 (obj + 16 + i)) with
                | (.error e, d) => d.agentFault ar c.part e
                | (.ok _, d) => (d.agentSignal .frontEnd c.part t.dbTally true 1).cmdDone x 0 res) s

/-! ### COPY, FILL (07 R275-R277) -/

/-- `n` open bytes. -/
def Dev.freshBytes (d : Dev) (n : Nat) : List Byte × Dev :=
  ((List.range n).map (fun k => BitVec.ofNat 8 (Config.free (d.free + k))), { d with free := d.free + n })

/-- COPY: bytes of the destination that lie in the source range too are unpredictable. -/
def execCopy (x : CmdId) (s : State) : Host.Outcome State Fault Refusal :=
  runRing x 0x10 (fun d c ctx =>
    let n := c.f 415 384
    let dst := c.f 367 320
    let src := c.f 303 256
    let a := d.cmdAgent c ctx
    match d.agentRead a true src n with
    | (.error e, d) => d.agentFault a c.part e
    | (.ok bs, d) =>
      let overlap := decide (src < dst + n) && decide (dst < src + n)
      let (fr, d) := if overlap then d.freshBytes n else ([], d)
      let bs := if overlap then (bs.zipIdx).map (fun (e : Byte × Nat) =>
        if src ≤ dst + e.2 && dst + e.2 < src + n then fr.getD e.2 0 else e.1) else bs
      match d.agentWrite a true dst bs with
      | (.error e, d) => d.agentFault a c.part e
      | (.ok _, d) => d.cmdDone x 0 n) s

/-- FILL: byte `a mod 8` of PATTERN at address `a`. -/
def execFill (x : CmdId) (s : State) : Host.Outcome State Fault Refusal :=
  runRing x 0x11 (fun d c ctx =>
    let n := c.f 415 384
    let dst := c.f 367 320
    let a := d.cmdAgent c ctx
    let bs : List Byte := (List.range n).map (fun k => BitVec.ofNat 8 (c.f 511 448 / 2 ^ (8 * ((dst + k) % 8))))
    match d.agentWrite a true dst bs with
    | (.error e, d) => d.agentFault a c.part e
    | (.ok _, d) => d.cmdDone x 0 n) s

/-! ### Range maintenance (04 R175, R176; 07 R278) -/

/-- MAINT: an operation over LINES lines. -/
def execMaint (x : CmdId) (s : State) : Host.Outcome State Fault Refusal :=
  runRing x 0x18 (fun d c ctx =>
    let op := c.f 354 352
    let req := c.f 365 360
    let n := c.f 343 320
    if op = 0 || op > 4 || (req != c.part && req != 16 + c.part) then d.cmdDone x 0x10 0
    else if n = 0 then d.cmdDone x 0 0
    else
      let m : MaintOp := { who := .command x, op := op, ctx := ctx, dva := alignDown (c.f 303 256) 128, left := n, req := req,
                           done := 0, conflicts := 0 }
      (({ d with mem := { d.mem with maints := d.mem.maints ++ [m] } }).cmdRuns x)) s

/-- An allocating read of a line by a requester, and how many valid lines it evicted from the requester's ways. -/
def Dev.maintFillLine (d : Dev) (rq : Rq) (attr line : Nat) : Nat × Dev :=
  let d := d.ownerShares line
  if Tab.has d.mem.vault line then (0, d) else
  let (data, p, d) := d.memRead rq line
  match d.allocate rq line data p false (attr == 3) with
  | some (ev, d) => (b2n ev, d)
  | none => (0, d)

/-- The requester of a maintenance operation: REQ for FILL, else its context's partition. -/
def Dev.maintRq (d : Dev) (m : MaintOp) : Rq := if m.op = 4 then d.rqOf m.req else d.rqPart (d.ctxPart m.ctx)

/-- One line processed; answers the lines it evicted. -/
def Dev.maintLineDo (d : Dev) (m : MaintOp) (attr line : Nat) : Nat × Dev :=
  let rq := d.maintRq m
  match m.op with
  | 1 => (0, d.flushLine rq line)
  | 2 => (0, d.invalidateLine line)
  | 3 => (0, (d.flushLine rq line).invalidateLine line)
  | _ => d.maintFillLine rq attr line

def setMaints (d : Dev) (l : List MaintOp) : Dev := { d with mem := { d.mem with maints := l } }

/-- A maintenance operation ends: at its last line, or at a translation failure. -/
def Dev.maintEnd (d : Dev) (m : MaintOp) (fault : Bool) : Dev :=
  match m.who with
  | .regs => { d with mem := { d.mem with maintBusy := false, maintXlat := fault, maintDone := m.done,
                                          maintConflicts := m.conflicts } }
  | .command x => d.cmdDone x (if fault then 0x07 else 0) (m.done % 2 ^ 24 + 2 ^ 24 * (m.conflicts % 2 ^ 24))

/-- MAINT_LINE (04 R176): the next line of maintenance operation `k`. -/
def execMaintLine (k : Nat) (s : State) : Host.Outcome State Fault Refusal :=
  s.on (fun d =>
    match d.mem.maints[k]? with
    | none => d
    | some m =>
      if !d.running then d else
      let a : Agent := { rq := d.maintRq m, unit := 9, index := 0, ctx := m.ctx }
      let stop := fun (d : Dev) => (setMaints d (d.mem.maints.eraseIdx k)).maintEnd m true
      match d.xlate a m.dva .maint with
      | (.error _, d) => stop d
      | (.ok (pa, attr), d) =>
        if m.op = 4 && d.hostRefuses a.rq.func (pa / 128) then stop (d.recordFail a .maint 9 0 0 m.dva) else
        let (ev, d) := d.maintLineDo m attr (pa / 128)
        let m := { m with dva := (m.dva + 128) % 2 ^ 48, left := m.left - 1, done := m.done + 1, conflicts := m.conflicts + ev }
        if m.left = 0 then (setMaints d (d.mem.maints.eraseIdx k)).maintEnd m false
        else
          let d := setMaints d (d.mem.maints.set k m)
          match m.who with
          | .regs => { d with mem := { d.mem with maintDone := m.done, maintConflicts := m.conflicts } }
          | .command _ => d)

/-- A write of VLT_MAINT_CTRL by the physical function (04 R175, R176). -/
def Dev.maintCtrl (d : Dev) (v : Nat) : Dev :=
  let op := if 1 ≤ fld v 2 0 && fld v 2 0 ≤ 4 then fld v 2 0 else d.mem.maintOp
  let req := if fld v 13 8 ≤ 36 then fld v 13 8 else d.mem.maintReq
  if bitOf v 31 && d.mem.maintBusy then d.denied 0
  else if bitOf v 31 && !(1 ≤ fld v 2 0 && fld v 2 0 ≤ 4) then
    ({ d with mem := { d.mem with maintReq := req } }).denied 0
  else
    let d := { d with mem := { d.mem with maintOp := op, maintReq := req } }
    if !bitOf v 31 then d else
    let m : MaintOp := { who := .regs, op := op, ctx := fld d.mem.maintAddr 55 48, dva := fld d.mem.maintAddr 47 7 * 128,
                         left := d.mem.maintLen, req := req, done := 0, conflicts := 0 }
    let d := { d with mem := { d.mem with maintBusy := true, maintXlat := false, maintAborted := false, maintDone := 0,
                                          maintConflicts := 0 } }
    if m.left = 0 then d.maintEnd m false else setMaints d (d.mem.maints ++ [m])

/-- The physical function's write with GO = 1 and OP `op`; other writes are those of REGISTER_WRITE. -/
def Dev.maintGo (d : Dev) (f v op : Nat) : Dev :=
  if f = 0 && bitOf v 31 && fld v 2 0 == op then d.maintCtrl v else d

/-- MAINT_FLUSH (04 R175). -/
def execMaintFlush (f v : Nat) (s : State) : Host.Outcome State Fault Refusal := s.on (fun d => d.maintGo f v 1)

/-- MAINT_INVALIDATE (04 R175). -/
def execMaintInvalidate (f v : Nat) (s : State) : Host.Outcome State Fault Refusal := s.on (fun d => d.maintGo f v 2)

/-- MAINT_FLUSH_INV (04 R175). -/
def execMaintFlushInv (f v : Nat) (s : State) : Host.Outcome State Fault Refusal := s.on (fun d => d.maintGo f v 3)

/-- MAINT_FILL (04 R175). -/
def execMaintFill (f v : Nat) (s : State) : Host.Outcome State Fault Refusal := s.on (fun d => d.maintGo f v 4)

/-! ### Invalidation (05 R194-R196; 07 R279) -/

/-- The contexts an invalidation covers. -/
def Dev.invCovers (d : Dev) (o : InvOp) (c : Nat) : Bool :=
  match o.mode with
  | 2 => true
  | 3 => (d.ctx c).func == o.ctx
  | _ => c == o.ctx

/-- A cached translation is dropped by an invalidation: with mode 0 every leaf that overlaps its pages, and every
walk-cache entry of the context. -/
def Dev.invDrops (d : Dev) (o : InvOp) (t : TlbEnt) : Bool :=
  if o.mode = 0 then t.overlaps o.ctx o.page o.pages else d.invCovers o t.ctx

/-- An access translated in a context that the invalidation covers has not been performed yet. -/
def Dev.invWaits (d : Dev) (o : InvOp) : Bool :=
  d.cores.any (fun c =>
    c.2.ops.any (fun e => d.invCovers o e.2.ctx &&
      (o.mode != 0 || (decide (o.page ≤ e.2.dva / 4096) && decide (e.2.dva / 4096 < o.page + o.pages)))) ||
    c.2.mxAll.any (fun m => mxMemory m.word &&
      d.invCovers o (d.launch (Tab.get c.2.groups m.group Group.empty).launch).ctx))

/-- INVALIDATION_COMPLETE (05 R194): the entries are dropped, the accesses through them have been performed, and BUSY
clears or the command completes. -/
def execInvalidationComplete (k : Nat) (s : State) : Host.Outcome State Fault Refusal :=
  s.on (fun d =>
    match d.mmu.invs[k]? with
    | none => d
    | some o =>
      if d.invWaits o then d else
      let d := d.tlbDrop (d.invDrops o)
      let d := { d with mmu := { d.mmu with invs := d.mmu.invs.eraseIdx k } }
      let d := if o.regs then { d with mmu := { d.mmu with invBusy := false } } else d
      match o.cmd with
      | some x => d.cmdDone x 0 0
      | none => d)

/-- An invalidation begins; a range of no pages is complete at once. -/
def Dev.invStart (d : Dev) (o : InvOp) : Dev :=
  if o.mode = 0 && o.pages = 0 then
    match o.cmd with
    | some x => d.cmdDone x 0 0
    | none => d
  else
    let d := { d with mmu := { d.mmu with invs := d.mmu.invs ++ [o], invBusy := d.mmu.invBusy || o.regs } }
    match o.cmd with
    | some x => d.cmdRuns x
    | none => d

/-- TLB_INV (07 R279). -/
def execTlbInv (x : CmdId) (s : State) : Host.Outcome State Fault Refusal :=
  runRing x 0x19 (fun d c ctx =>
    let o : InvOp := { mode := 0, ctx := ctx, page := c.f 303 256 / 4096, pages := c.f 343 320, regs := false, cmd := some x }
    match c.f 353 352 with
    | 0 => d.invStart o
    | 1 => d.invStart { o with mode := 1 }
    | 2 => d.invStart { o with mode := 3, ctx := x.fn }
    | _ => d.cmdDone x 0x10 0) s

/-- A write of MMU_INV_CTRL by the physical function (05 R196). -/
def Dev.invCtrl (d : Dev) (v : Nat) : Dev :=
  if bitOf v 31 && d.mmu.invBusy then d.denied 0 else
  let mode := if fld v 25 24 = 3 then d.mmu.invMode else fld v 25 24
  let d := { d with mmu := { d.mmu with invMode := mode, invPages := fld v 23 0 } }
  if bitOf v 31 then d.invStart { mode := mode, ctx := d.mmu.invCtx, page := d.mmu.invPage, pages := fld v 23 0, regs := true,
                                  cmd := none } else d

def Dev.invGo (d : Dev) (f v mode : Nat) : Dev :=
  if f = 0 && bitOf v 31 && fld v 25 24 == mode then d.invCtrl v else d

/-- MMU_INV_RANGE (05 R196). -/
def execMmuInvRange (f v : Nat) (s : State) : Host.Outcome State Fault Refusal := s.on (fun d => d.invGo f v 0)

/-- MMU_INV_CONTEXT (05 R196). -/
def execMmuInvContext (f v : Nat) (s : State) : Host.Outcome State Fault Refusal := s.on (fun d => d.invGo f v 1)

/-- MMU_INV_ALL (05 R196). -/
def execMmuInvAll (f v : Nat) (s : State) : Host.Outcome State Fault Refusal := s.on (fun d => d.invGo f v 2)

/-! ### Mint loads (05 R199-R201; 07 R280) -/

/-- A pool descriptor's own fields are in range (05 R201). -/
def poolDescOk (v : Nat) : Bool :=
  let size := fld v 250 246
  let count := fld v 159 136
  let base := fld v 47 0
  fld v 244 206 == 0 && fld v 191 184 == 0 && fld v 127 112 == 0 && fld v 63 48 == 0 &&
  6 ≤ size && size ≤ 21 && 1 ≤ count && fld v 183 160 ≤ count && fld v 111 64 % 64 == 0 && base != 0 &&
  base % 2 ^ size == 0 && base + count * 2 ^ size ≤ 0xFF * 2 ^ 40 && fld v 111 64 + ceilDiv count 512 * 64 ≤ 0xFF * 2 ^ 40

/-- An address translates as a write, to DRAM. -/
def Dev.mapsToDram (d : Dev) (a : Agent) (dva : Nat) : Bool × Dev :=
  match d.xlate a dva .write with
  | (.ok (pa, _), d) => (decide (pa < 2 ^ 47), d)
  | (.error _, d) => (false, d)

/-- Every address of a list translates as a write, to DRAM. -/
def Dev.allMapped (d : Dev) (a : Agent) : List Nat → Bool × Dev
  | [] => (true, d)
  | x :: r =>
    match d.mapsToDram a x with
    | (true, d) => d.allMapped a r
    | (false, d) => (false, d)

/-- Clear bits of a pool's bitmap. -/
def Dev.countFree (d : Dev) (x : Pool) : Nat → Nat × Dev
  | 0 => (0, d)
  | n + 1 =>
    let (k, d) := d.countFree x n
    let (b, d) := d.mapBit x n
    (if b then k else k + 1, d)

/-- One pool loaded from its descriptor, valid or invalid. -/
def Dev.loadPool (d : Dev) (p i v : Nat) : Dev :=
  let bad := fun (d : Dev) => d.setPool p i Pool.none
  let ctx := fld v 135 128
  if !bitOf v 255 || !poolDescOk v || !((d.ctx ctx).valid && (d.ctx ctx).part == p) then bad d else
  let base := fld v 47 0
  let size := fld v 250 246
  let count := fld v 159 136
  let metaDva := fld v 111 64
  let mapBytes := ceilDiv count 512 * 64
  let mapPages := (List.range (mapBytes / 4096 + 2)).map (fun k => alignDown metaDva 4096 + 4096 * k)
  let pages := mapPages.filter (fun a => decide (a < metaDva + mapBytes))
  match d.allMapped (mintAgent ctx) ([base, base + count * 2 ^ size - 1] ++ pages.map (fun a => max a metaDva)) with
  | (false, d) => bad d
  | (true, d) =>
    let x : Pool :=
      { valid := true, users := fld v 254 251, sizeLog2 := size, tallyEn := bitOf v 245, tally := fld v 205 192,
        lowWater := fld v 183 160, count := count, ctx := ctx, metaDva := metaDva, base := base, cursor := 0, free := 0,
        minFree := 0, below := false, exhausted := false }
    let (n, d) := d.countFree x count
    d.setPool p i { x with free := n, minFree := n, below := decide (n < x.lowWater) }

/-- MINT_LOAD (07 R280): all eight pools of the partition, from the table. -/
def execMintLoad (x : CmdId) (s : State) : Host.Outcome State Fault Refusal :=
  runRing x 0x1A (fun d c ctx =>
    let t := c.f 303 256
    if t % 64 != 0 then d.cmdDone x 0x10 0 else
    match d.agentRead (feAgent x.fn ctx) true t 256 with
    | (.error e, d) => d.feFault x.fn ctx e
    | (.ok bs, d) =>
      ((List.range 8).foldl (fun (d : Dev) i => d.loadPool c.part i (leNat ((bs.drop (32 * i)).take 32))) d).cmdDone x 0 0) s

/-! ### Failed host reads and fault records (05 R192, R198) -/

/-- HOST_READ_ERROR (05 R192). `fill`: the host read of a waiting fill completes with UR or CA or times out. `refuse` and `accept`:
from now on the host refuses, or again serves, requests for a line; each access that reads it then fails with HOST_ERROR, and posted
writes to it are lost. -/
def execHostReadError (a : HostReader) (s : State) : Host.Outcome State Fault Refusal :=
  s.on (fun d =>
    let put := fun (l : List Nat) => { d with mem := { d.mem with refused := l } }
    match a with
    | .fill line =>
      match Tab.get? d.mem.missRegs line with
      | some m => if d.running && isHostLine line then d.fillFails line m else d
      | none => d
    | .refuse line => if d.mem.refused.contains line then d else put (d.mem.refused ++ [line])
    | .accept line => put (d.mem.refused.filter (· != line)))

/-- A write to VALID and MORE of a fault record by a function that owns its context (05 R198, 07 R241): the bytes written
are the record's first word, of which bits 63 and 62 count. -/
def Dev.clearRecord (d : Dev) (f n v : Nat) : Dev :=
  if f != 0 && !d.ownsCtx f n then d else
  let r := Tab.get d.mmu.recs n FaultRec.none
  if bitOf v 63 then { d with mmu := { d.mmu with recs := Tab.put d.mmu.recs n { r with valid := false, more := false } } }
  else if bitOf v 62 then { d with mmu := { d.mmu with recs := Tab.put d.mmu.recs n { r with more := false } } }
  else d

/-- FAULT_RECORD_CLEAR (05 R198): function `f` writes `v` to the word of VALID and MORE of record `n`. -/
def execFaultRecordClear (f n v : Nat) (s : State) : Host.Outcome State Fault Refusal :=
  s.on (fun d => if n < 256 && bitOf v 63 then d.clearRecord f n v else d)

/-! ### The BAR2 window (07 R242, R244; 04 R174) -/

/-- The agent of host accesses through a function's window: requester 34. -/
def Dev.barAgent (d : Dev) (f : Nat) : Agent :=
  let c := (d.func f).winCtx
  { rq := { id := 34, part := some (d.ctxPart c), func := f }, unit := 0, index := 0, ctx := c }

/-- The physical address of an access at offset `off` of the window, where it is allowed (07 R242). -/
def Dev.barPa (d : Dev) (f off : Nat) (k : Acc) : Option (Nat × Nat) × Dev :=
  let u := d.func f
  let dva := u.winBase * 2 ^ 30 + off
  if !d.ownsCtx f u.winCtx || dva ≥ 2 ^ 48 || off ≥ (if f = 0 then 2 ^ 36 else 2 ^ 34) then (none, d) else
  match d.translate u.winCtx dva k with
  | (.error _, d) => (none, d)
  | (.ok r, d) => (some r, d)

/-- The function exists: a virtual function above NumVFs does not (17 R535), nor does any while VF Enable is 0 (SR-IOV). -/
def Dev.funcThere (d : Dev) (f : Nat) : Bool :=
  decide (f < 16) && (f == 0 || (d.mgmt.vfEnable && decide (f ≤ d.mgmt.numVfs)))

/-- The host can reach the function's BARs: not during its function-level reset (10 R376), in D3hot (17 R539), or while it does not
exist. -/
def Dev.hostOk (d : Dev) (f : Nat) : Bool := d.funcThere f && (d.func f).flr.isNone && !(d.func f).d3hot

/-- A read through BAR2 within one line, and whether it consumed poison (17 R537); a failure reads as zero and counts. The
manual gives the host interface no UNIT code: that of its fault record is an open value. -/
def Dev.barRead1 (d : Dev) (f off n : Nat) : List Byte × Bool × Dev :=
  match d.barPa f off .read with
  | (none, d) => (List.replicate n 0, false, d.denied f)
  | (some (pa, attr), d) =>
    if d.hostRefuses f (pa / 128) then (List.replicate n 0, false, d.denied f) else
    let (l, p, d) := d.ncRead (d.barAgent f).rq attr (pa / 128)
    match (onesOf p).find? (touchesGranule (spanMask (pa % 128) n)) with
    | some k =>
      let (u, d) := d.fresh
      (lineBytes l (pa % 128) n, true,
        d.agentFault { d.barAgent f with unit := u % 16 } (d.ctxPart (d.func f).winCtx) (.poison (pa / 128 * 128 + 8 * k)))
    | none => (lineBytes l (pa % 128) n, false, d)

/-- BAR2_READ (07 R242): the completion returns to the host. -/
def execBar2Read (f off n : Nat) (s : State) : Host.Outcome State Fault Refusal :=
  s.on (fun d =>
    if f ≥ 16 then d else if !d.hostOk f then d.send (.readUr f) else
    let (bs, ep, d) := (piecesOf off n).foldl (fun (r : List Byte × Bool × Dev) p =>
      let (x, ep, d) := r.2.2.barRead1 f p.1 p.2
      (r.1 ++ x, r.2.1 || ep, d)) ([], false, d)
    (d.countGlobal 13 n).send (.readData f bs ep))

/-- A poisoned TLP received is logged (17 R537). -/
def Dev.poisonedTlp (d : Dev) : Dev := { d with mgmt := { d.mgmt with poisonTlps := d.mgmt.poisonTlps + 1 } }

/-- BAR2_WRITE (04 R174, 07 R242; 17 R537: a poisoned write is logged and poisons every granule it touches). -/
def execBar2Write (f off : Nat) (data : List (BitVec 8)) (poisoned : Bool) (s : State) :
    Host.Outcome State Fault Refusal :=
  s.on (fun d =>
    if !d.hostOk f then d else
    (piecesOf off data.length).foldl (fun (d : Dev) p =>
      match d.barPa f p.1 .write with
      | (none, d) => d.denied f
      | (some (pa, attr), d) =>
        let bs := (data.drop (p.1 - off)).take p.2
        let m := spanMask (pa % 128) bs.length
        let q := if poisoned then maskOf 16 ((List.range 16).filter (touchesGranule m)) else 0
        let rq := (d.barAgent f).rq
        if d.hostRefuses f (pa / 128) && d.writeFills rq attr (pa / 128) m then d.denied f else
        d.ncWrite rq attr (pa / 128) m (lineSet 0 (pa % 128) bs) q)
      ((if poisoned then d.poisonedTlp else d).countGlobal 12 data.length))

/-- A write of HIF_WIN (07 R244). -/
def Dev.winWrite (d : Dev) (f v : Nat) : Dev :=
  if d.ownsCtx f (fld v 55 48) then d.modFunc f (fun u => { u with winCtx := fld v 55 48, winBase := fld v 47 30 })
  else d.denied f

/-- HIF_WIN_WRITE (07 R244). -/
def execHifWinWrite (f v : Nat) (s : State) : Host.Outcome State Fault Refusal :=
  s.on (fun d => if d.hostOk f then d.winWrite f v else d)

end Sys2Proof.Machine
end

