-- ==== Sys2Proof/Machine/Sfd.lean ====
section
/-! DEFINITION. The SFD depth format (11 R406, R407). A surface's blocks are numbers of 512 bits; `none` is an invalid pixel. -/

namespace Sys2Proof.Machine

/-- The prediction at (x, y). -/
def sfdPred (base dx dy : Int) (shift x y : Nat) : Int := base + (dx * x + dy * y) * 2 ^ shift / 8

/-- sfd_decode; a reserved SHIFT or reserved bit makes every pixel invalid (R407). -/
def sfdDecode (blk x y : Nat) : Option Nat :=
  let res := sext 7 (blk >>> (64 + 7 * (8 * y + x)))
  let shift := fld blk 43 40
  if bitOf blk 44 || fld blk 63 45 != 0 || shift > 12 || res = -64 then none else
  let p := sfdPred (fld blk 15 0 : Nat) (sext 12 (fld blk 27 16)) (sext 12 (fld blk 39 28)) shift x y
  some (max 0 (min 65535 (p + res * 2 ^ shift))).toNat

/-- The slope between two corners at a shift. -/
def sfdSlope (a b : Nat) (s : Nat) : Int :=
  max (-2048) (min 2047 (mkQ (((b : Int) - a) * 8) (7 * 2 ^ s)).roundAway)

/-- BASE, DX and DY at a shift. -/
def sfdPlane (v : Nat → Option Nat) (s : Nat) : Nat × Int × Int :=
  let base := match v 0 with
    | some b => b
    | none => (((List.range 64).filterMap v).min?).getD 0
  match v 0, v 7, v 56 with
  | some a, some b, some c => (base, sfdSlope a b s, sfdSlope a c s)
  | _, _, _ => (base, 0, 0)

/-- The residuals at a shift; an invalid pixel has −64. -/
def sfdResiduals (v : Nat → Option Nat) (s : Nat) : List Int :=
  let (base, dx, dy) := sfdPlane v s
  (List.range 64).map (fun i => match v i with
    | none => -64
    | some x => (mkQ ((x : Int) - sfdPred base dx dy s (i % 8) (i / 8)) (2 ^ s)).roundAway)

/-- The block of a plane, a shift and its residuals. -/
def sfdPack (v : Nat → Option Nat) (s : Nat) : Nat :=
  let (base, dx, dy) := sfdPlane v s
  base % 65536 + at_ 16 (toBits 12 dx) + at_ 28 (toBits 12 dy) + at_ 40 s +
  (((sfdResiduals v s).zipIdx).map (fun (e : Int × Nat) => at_ (64 + 7 * e.2) (toBits 7 e.1))).sum

/-- sfd_encode: the values of a block, numbered 8y + x. -/
def sfdEncode (v : Nat → Option Nat) : Nat :=
  if ((List.range 64).filterMap v).isEmpty then 2 ^ 44 else
  let fits := fun s => (sfdResiduals v s).zipIdx.all (fun (e : Int × Nat) => (v e.2).isNone || decide (e.1.natAbs ≤ 63))
  sfdPack v (((List.range 13).find? fits).getD 12)

end Sys2Proof.Machine
end

