-- ==== Sys2Proof/Machine/Ingest.lean ====
section
/-! DEFINITION. Sensor ingest: ports, streams and frames (13 R430-R441). -/

namespace Sys2Proof.Machine

def IngStream.idle : IngStream :=
  { cfg := Option.none, pend := [], delivered := 0, frames := 0, dropFull := 0, dropOther := 0, frame := Option.none }

def IngPort.unbound : IngPort := { up := false, bound := Option.none, phy := false, width := 0, rate := 0, streams := [] }

def Dev.port (d : Dev) (n : Nat) : IngPort := Tab.get d.ports n IngPort.unbound

def Dev.modPort (d : Dev) (n : Nat) (g : IngPort → IngPort) : Dev := { d with ports := Tab.put d.ports n (g (d.port n)) }

def Dev.stream (d : Dev) (n s : Nat) : IngStream := Tab.get (d.port n).streams s IngStream.idle

def Dev.modStream (d : Dev) (n s : Nat) (g : IngStream → IngStream) : Dev :=
  d.modPort n (fun p => { p with streams := Tab.put p.streams s (g (Tab.get p.streams s IngStream.idle)) })

/-! ### The stream descriptor (13 Table 13-5) -/

def IngCfg.f (c : IngCfg) (hi lo : Nat) : Nat := fld c.desc.toNat hi lo
def IngCfg.vc (c : IngCfg) : Nat := c.f 289 286
def IngCfg.dt (c : IngCfg) : Nat := c.f 295 290
def IngCfg.out (c : IngCfg) : Nat := c.f 297 296
def IngCfg.width (c : IngCfg) : Nat := c.f 365 352
def IngCfg.height (c : IngCfg) : Nat := c.f 351 338
def IngCfg.pitch (c : IngCfg) : Nat := c.f 383 366
def IngCfg.stride (c : IngCfg) : Nat := c.f 415 384
def IngCfg.base (c : IngCfg) : Nat := c.f 463 416
def IngCfg.bufs (c : IngCfg) : Nat := c.f 337 334 + 1
def IngCfg.tile (c : IngCfg) : Bool := bitOf c.desc.toNat 304
def IngCfg.cluster (c : IngCfg) : Nat := c.f 303 298

/-- Bits of a pixel as packed on the link; 0 for a data type that Table 13-1 does not list. -/
def dtBits (dt : Nat) : Nat :=
  match dt with
  | 0x2A => 8 | 0x2B => 10 | 0x2C => 12 | 0x2D => 14 | 0x2E => 16 | 0x1E => 16 | 0x24 => 24
  | _ => if 0x30 ≤ dt && dt ≤ 0x37 then 8 else 0

/-- The line size in bytes; for SFD that of a row of blocks. -/
def IngCfg.lineSize (c : IngCfg) : Nat :=
  match c.out with
  | 0 => ceilDiv (c.width * dtBits c.dt) 8
  | 1 => 2 * c.width
  | _ => 64 * ceilDiv c.width 8

/-- The frame size (R433). -/
def IngCfg.frameSize (c : IngCfg) : Nat := c.pitch * (if c.out = 2 then ceilDiv c.height 8 else c.height)

/-- Bytes of the whole buffer ring. -/
def IngCfg.span (c : IngCfg) : Nat := c.bufs * c.stride

/-- The descriptor's own fields are bad (R433). -/
def IngCfg.bad (c : IngCfg) : Bool :=
  c.f 268 0 != 0 || dtBits c.dt == 0 || c.out == 3 || (c.out != 0 && !(0x2B ≤ c.dt && c.dt ≤ 0x2E)) ||
  c.width == 0 || decide (c.width > 8192) || c.height == 0 || decide (c.height > 8192) ||
  c.base % 128 != 0 || c.stride % 128 != 0 || c.pitch % 16 != 0 || decide (c.pitch < c.lineSize) ||
  c.f 511 464 % 32 != 0 || decide (c.span < c.frameSize) ||
  (c.tile && (c.f 463 438 != 0 || decide (c.base + c.span > 4 * 2 ^ 20)))

/-- The 4 KiB pages of a range. -/
def pagesOf (a n : Nat) : List Nat := (List.range (ceilDiv (a % 4096 + n) 4096)).map (fun k => (a / 4096 + k) * 4096 % 2 ^ 48)

/-- A tile-memory range meets the hot region of a reserve cluster (10 R359). -/
def Dev.meetsHot (d : Dev) (cl off : Nat) : Bool :=
  d.reserves.any (fun e => e.2.cluster == cl && decide (off < e.2.hotUnits * 65536))

/-- Partition `p` holds usable cluster `cl`. -/
def Dev.heldBy (d : Dev) (p cl : Nat) : Bool := d.plan.clusterOk cl && (d.part p).held.getLsbD cl

/-- Sensor ingest as an agent: requester 32, UNIT 7, INDEX the port. -/
def Dev.ingAgent (d : Dev) (n : Nat) (c : IngCfg) : Agent :=
  { rq := rqUnit 32 (d.part c.part).cfg.func, unit := 7, index := n, ctx := c.ctx }

/-- Another enabled stream of the port matches the same VC and DT. -/
def Dev.streamClash (d : Dev) (n s : Nat) (c : IngCfg) : Bool :=
  (d.port n).streams.any (fun e => e.1 != s && (match e.2.cfg with
    | some o => o.vc == c.vc && o.dt == c.dt
    | none => false))

/-- A stream's configuration changes (R434): from disabled to enabled its counts start at 0. -/
def IngStream.apply (s : IngStream) (cfg : Option IngCfg) : IngStream :=
  match s.cfg, cfg with
  | none, some _ => { s with cfg := cfg, delivered := 0, frames := 0 }
  | _, _ => { s with cfg := cfg }

/-- The accepted ING_CONFIGs of a stream take effect, in order, and complete with DELIVERED. -/
def Dev.streamApply (d : Dev) (n s : Nat) : Dev :=
  let st := d.stream n s
  st.pend.foldl (fun (d : Dev) p =>
    let d := d.modStream n s (fun t => t.apply p.cfg)
    d.cmdDone p.cmd 0 ((d.stream n s).delivered % 2 ^ 32)) (d.modStream n s (fun t => { t with pend := [] }))

/-- An ING_CONFIG is accepted (R434): on an idle stream (disabled, or its port down) it takes effect at once. -/
def Dev.streamAccept (d : Dev) (x : CmdId) (n s : Nat) (cfg : Option IngCfg) : Dev :=
  let d := (d.cmdRuns x).modStream n s (fun t => { t with pend := t.pend ++ [{ cmd := x, cfg := cfg }] })
  if (d.stream n s).cfg.isNone || !(d.port n).up then d.streamApply n s else d

/-- ING_CONFIG (R433). -/
def execIngConfig (x : CmdId) (s : State) : Host.Outcome State Fault Refusal :=
  runRing x 0x50 (fun d c ctx =>
    let n := c.f 306 304
    let k := c.f 308 307
    let desc := c.f 303 256
    if (d.port n).bound != some c.part then d.cmdDone x 0x10 0
    else if !c.bit 309 then d.streamAccept x n k none
    else if desc % 64 != 0 then d.cmdDone x 0x10 0
    else
      let a := d.cmdAgent c ctx
      match d.agentRead a true desc 64 with
      | (.error e, d) => d.agentFault a c.part e
      | (.ok bs, d) =>
        let g : IngCfg := { desc := BitVec.ofNat 512 (leNat bs), ctx := ctx, part := c.part }
        if g.bad || !d.tallyOwned c.part (g.f 333 320) || (bitOf g.desc.toNat 305 && !d.tallyOwned c.part (g.f 319 306)) ||
           d.streamClash n k g then d.cmdDone x 0x10 0
        else if g.tile then
          (if !d.heldBy c.part g.cluster || d.meetsHot g.cluster g.base then d.cmdDone x 0x10 0
           else d.streamAccept x n k (some g))
        else
          match d.allMapped (d.ingAgent n g) (pagesOf g.base g.span) with
          | (true, d) => d.streamAccept x n k (some g)
          | (false, d) => d.cmdDone x 0x10 0) s

/-! ### Frames -/

def InFrame.begin (i num ts : Nat) (written : Bool) : InFrame :=
  { index := i, num := num, start := ts, written := written, y := 0, lines := 0, crcErrs := 0, widthErr := false,
    hdrLost := false, long := false, rows := [], boundaries := 0 }

/-- A frame of a stream is dropped (R435): the port's violation counter and the stream's own count. -/
def Dev.dropCount (d : Dev) (n s : Nat) (full : Bool) : Dev :=
  (d.violPort n).modStream n s (fun t => if full then { t with dropFull := satAdd 16 t.dropFull 1 }
    else { t with dropOther := satAdd 16 t.dropOther 1 })

/-- The EMPTY check (R436). A tally the partition does not own reads as 0, and TALLY_DENIED counts (06 R229). -/
def Dev.emptyCheck (d : Dev) (c : IngCfg) (i : Nat) : Bool × Dev :=
  if !bitOf c.desc.toNat 305 then (true, d) else
  let e := c.f 319 306
  let own := d.tallyOwned c.part e
  let v := if own then (d.tally e).value.toNat else 0
  let d := if own then d.countGlobal 4 1 else d.violPart c.part 9
  (decide (i < c.bufs) || serialGe v (toBits 64 ((i : Int) - c.bufs + 1)) 64, d)

/-- Buffer `i mod D` of a stream. -/
def IngCfg.buffer (c : IngCfg) (i : Nat) : Nat := c.base + (i % c.bufs) * c.stride

/-- The timestamp recorded for a short packet: the k-cycle count 0 to 4 k-cycles after it (R438). -/
def Dev.packetTime (d : Dev) : Nat × Dev :=
  let (x, d) := d.fresh
  ((d.time.ts + x % 5) % 2 ^ 64, d)

/-- A Frame Start reaches an enabled stream without a frame in progress. -/
def Dev.beginFrame (d : Dev) (n s num : Nat) (c : IngCfg) : Dev :=
  let (ts, d) := d.packetTime
  let i := (d.stream n s).delivered
  let (ok, d) := d.emptyCheck c i
  let held := !c.tile || d.heldBy c.part c.cluster
  let go := ok && held && d.running
  let d := if go then d else d.dropCount n s (!ok)
  d.modStream n s (fun t => { t with frame := some (InFrame.begin i num ts go) })

/-- A Frame Start at one stream: while a frame is in progress it is only counted; else accepted configurations take
effect, and a matching enabled stream begins a frame. -/
def Dev.startAt (d : Dev) (n vc num s : Nat) : Dev :=
  let t := d.stream n s
  let hits := fun (o : Option IngCfg) => match o with
    | some c => c.vc == vc
    | none => false
  if !(hits t.cfg || t.pend.any (fun p => hits p.cfg)) then d
  else if t.frame.isSome then (if hits t.cfg then d.modStream n s (fun t => { t with frames := (t.frames + 1) % 2 ^ 32 }) else d)
  else
    let d := d.streamApply n s
    match (d.stream n s).cfg with
    | none => d
    | some c =>
      if c.vc != vc then d else
      (d.modStream n s (fun t => { t with frames := (t.frames + 1) % 2 ^ 32 })).beginFrame n s num c

/-- FRAME_START (R434-R436). -/
def execFrameStart (port vc frameNum : Nat) (s : State) : Host.Outcome State Fault Refusal :=
  s.on (fun d => if (d.port port).up && vc < 16 then
    [0, 1, 2, 3].foldl (fun (d : Dev) k => d.startAt port vc (frameNum % 65536) k) d else d)

def Dev.modFrame (d : Dev) (n s : Nat) (g : InFrame → InFrame) : Dev :=
  d.modStream n s (fun t => { t with frame := t.frame.map g })

/-- Bytes written to a stream's buffer range; false where a write failed translation. -/
def Dev.ingWrite (d : Dev) (n : Nat) (c : IngCfg) (a : Nat) (bs : List Byte) : Bool × Dev :=
  if c.tile then (true, (d.tileWrite c.cluster a bs).countGlobal 18 bs.length) else
  match d.agentWrite (d.ingAgent n c) true a bs with
  | (.error _, d) => (false, d)
  | (.ok _, d) => (true, d.countGlobal 18 bs.length)

/-- A write failed: the rest of the frame is dropped (R440). -/
def Dev.frameFails (d : Dev) (n s : Nat) : Dev := (d.dropCount n s false).modFrame n s (fun f => { f with written := false })

/-- The 16-bit samples of a RAW10 to RAW16 payload. The order of the bits of a packed pixel is MIPI CSI-2's own
(PRESUMED, notes/assumptions/20.md). -/
def rawSamples (dt : Nat) (bs : List Byte) : List Nat :=
  let b := fun k => (bs.getD k 0).toNat
  (List.range (8 * bs.length / max 1 (dtBits dt))).map (fun p =>
    match dt with
    | 0x2B => 4 * b (5 * (p / 4) + p % 4) + b (5 * (p / 4) + 4) / 4 ^ (p % 4) % 4
    | 0x2C => 16 * b (3 * (p / 2) + p % 2) + b (3 * (p / 2) + 2) / 16 ^ (p % 2) % 16
    | 0x2D =>
      let low := b (7 * (p / 4) + 4) + 256 * b (7 * (p / 4) + 5) + 65536 * b (7 * (p / 4) + 6)
      64 * b (7 * (p / 4) + p % 4) + low / 64 ^ (p % 4) % 64
    | _ => 256 * b (2 * p) + b (2 * p + 1))

/-- Sample x of a received line as the SFD encoder sees it. -/
def IngCfg.sample (c : IngCfg) (row : Option (List Nat)) (x : Nat) : Option Nat :=
  match row with
  | none => none
  | some l =>
    match (l.take c.width)[x]? with
    | none => none
    | some v => if bitOf c.desc.toNat 285 && v == c.f 284 269 then none else some v

/-- The encoded blocks of one block row (R439). -/
def IngCfg.blockRow (c : IngCfg) (rows : Tab (List Nat)) : List Byte :=
  (List.range (ceilDiv c.width 8)).flatMap (fun bx =>
    toLe 64 (sfdEncode (fun i => c.sample (Tab.get? rows (i / 8)) (8 * bx + i % 8))))

/-- A block row is written, and the row buffer emptied. -/
def Dev.writeBlockRow (d : Dev) (n s : Nat) (c : IngCfg) (f : InFrame) (row : Nat) : Dev :=
  match d.ingWrite n c (c.buffer f.index + row * c.pitch) (c.blockRow f.rows) with
  | (true, d) => d.modFrame n s (fun f => { f with rows := [] })
  | (false, d) => d.frameFails n s

/-- A line of a written frame (R435, R437, R439). -/
def Dev.writeLine (d : Dev) (n s : Nat) (c : IngCfg) (f : InFrame) (bs : List Byte) (crc : Bool) : Dev :=
  let px := 8 * bs.length / max 1 (dtBits c.dt)
  let d := d.modFrame n s (fun f => { f with y := f.y + 1, lines := f.lines + 1, crcErrs := satAdd 16 f.crcErrs (b2n crc),
                                             widthErr := f.widthErr || px != c.width })
  match c.out with
  | 2 =>
    let rows := Tab.put f.rows (f.y % 8) (rawSamples c.dt bs)
    let d := d.modFrame n s (fun f => { f with rows := rows })
    if f.y % 8 = 7 then d.writeBlockRow n s c { f with rows := rows } (f.y / 8) else d
  | 1 =>
    let l := (rawSamples c.dt bs).take c.width
    match d.ingWrite n c (c.buffer f.index + f.y * c.pitch) (l.flatMap (toLe 2)) with
    | (true, d) => d
    | (false, d) => d.frameFails n s
  | _ =>
    match d.ingWrite n c (c.buffer f.index + f.y * c.pitch) (bs.take c.lineSize) with
    | (true, d) => d
    | (false, d) => d.frameFails n s

/-- A long packet at one stream. -/
def Dev.lineAt (d : Dev) (n vc dt : Nat) (bs : List Byte) (crc : Bool) (s : Nat) : Dev :=
  match (d.stream n s).cfg, (d.stream n s).frame with
  | some c, some f =>
    if c.vc != vc || c.dt != dt || !f.written then d
    else if f.y ≥ c.height then d.modFrame n s (fun f => { f with y := f.y + 1, long := true })
    else d.writeLine n s c f bs crc
  | _, _ => d

/-- LINE_PACKET (R430, R435, R439). A packet whose header could not be corrected is discarded; its stream is not known, so
every frame of the port in progress notes it. -/
def execLinePacket (port vc dt : Nat) (data : List (BitVec 8)) (crcErr hdrErr : Bool) (s : State) :
    Host.Outcome State Fault Refusal :=
  s.on (fun d =>
    if !(d.port port).up then d
    else if hdrErr then [0, 1, 2, 3].foldl (fun (d : Dev) k => d.modFrame port k (fun f => { f with hdrLost := true })) d
    else [0, 1, 2, 3].foldl (fun (d : Dev) k => d.lineAt port vc dt data crcErr k) d)

/-- The 32 bytes of a frame record (13 Table 13-6). -/
def frameRecord (c : IngCfg) (f : InFrame) (ts : Nat) (timeout : Bool) : List Byte :=
  let flags := b2n (decide (f.lines < c.height)) + at_ 1 (b2n f.long) + at_ 2 (b2n (decide (f.crcErrs ≥ 1))) +
    at_ 3 (b2n f.hdrLost) + at_ 4 (b2n timeout) + at_ 5 (b2n f.widthErr)
  toLe 6 flags ++ toLe 2 f.crcErrs ++ toLe 2 f.lines ++ toLe 2 f.num ++ toLe 4 (f.index % 2 ^ 32) ++ toLe 8 f.start ++
  toLe 8 ts

/-- A frame ends (R437): record, SET of i + 1 on FULL, DELIVERED := i + 1. -/
def Dev.endFrame (d : Dev) (n s : Nat) (timeout : Bool) : Dev :=
  match (d.stream n s).cfg, (d.stream n s).frame with
  | some c, some f =>
    let d := if f.written && c.out == 2 && !f.rows.isEmpty then d.writeBlockRow n s c f (f.y / 8) else d
    let f := ((d.stream n s).frame).getD f
    let d := d.modStream n s (fun t => { t with frame := none })
    if !f.written then d else
    let (ts, d) := d.packetTime
    let rec_ := c.f 511 464
    let (ok, d) := if rec_ = 0 then (true, d) else
      match d.agentWrite (d.ingAgent n c) true ((rec_ + 32 * (f.index % c.bufs)) % 2 ^ 48) (frameRecord c f ts timeout) with
      | (.error _, d) => (false, d)
      | (.ok _, d) => (true, d.countGlobal 18 32)
    if !ok then d.dropCount n s false else
    let d := d.agentSignal (.ingest n) c.part (c.f 333 320) false (BitVec.ofNat 64 (f.index + 1))
    d.modStream n s (fun t => { t with delivered := f.index + 1 })
  | _, _ => d.modStream n s (fun t => { t with frame := none })

/-- FRAME_END (R437). -/
def execFrameEnd (port vc : Nat) (s : State) : Host.Outcome State Fault Refusal :=
  s.on (fun d => if (d.port port).up then
    [0, 1, 2, 3].foldl (fun (d : Dev) k =>
      match (d.stream port k).cfg with
      | some c => if c.vc = vc && (d.stream port k).frame.isSome then d.endFrame port k false else d
      | none => d) d else d)

/-- FRAME_TIMEOUT (R434): two boundaries have passed since the Frame Start. -/
def execFrameTimeout (port stream : Nat) (s : State) : Host.Outcome State Fault Refusal :=
  s.on (fun d =>
    match (d.stream port stream).frame with
    | some f => if f.boundaries ≥ 2 then d.endFrame port stream true else d
    | none => d)

/-- Every stream of a port becomes idle: a frame in progress is lost, and accepted configurations take effect. -/
def Dev.portIdle (d : Dev) (n : Nat) : Dev :=
  [0, 1, 2, 3].foldl (fun (d : Dev) k =>
    let d := if (d.stream n k).frame.isSome then
        d.modStream n k (fun t => { t with frame := none, dropOther := satAdd 16 t.dropOther 1 }) else d
    if (d.stream n k).pend.isEmpty then d else d.streamApply n k) d

/-- The frames in progress when a data-plane reset begins are dropped (01 R46), and the commands that wait are discarded
with their rings (07 R281). -/
def Dev.ingestReset (d : Dev) : Dev :=
  [0, 1, 2, 3, 4, 5, 6, 7].foldl (fun (d : Dev) n =>
    [0, 1, 2, 3].foldl (fun (d : Dev) k =>
      match (d.stream n k).frame with
      | some f => if f.written then d.frameFails n k else d
      | none => d) d) d

/-- The configurations that wait are discarded with their commands (07 R281). -/
def Dev.ingestDiscard (d : Dev) : Dev :=
  { d with ports := Tab.mapv d.ports (fun p => { p with streams := Tab.mapv p.streams (fun t => { t with pend := [] }) }) }

end Sys2Proof.Machine
end

