-- ==== Sys2Proof/Machine/Texture.lean ====
section
/-! DEFINITION. The texture units (11 R401-R405): bindings, texel addresses, filtering. A binding is a number of 128 bits. -/

namespace Sys2Proof.Machine

/-! ### Formats (11 Table 11-12) -/

/-- The ASTC footprints in the table's order. -/
def astcBlocks : List (Nat × Nat) :=
  [(4, 4), (5, 4), (5, 5), (6, 5), (6, 6), (8, 5), (8, 6), (8, 8), (10, 5), (10, 6), (10, 8), (10, 10), (12, 10), (12, 12)]

/-- Block width, block height and bytes per block of a format; none for a reserved code. -/
def texFormat (f : Nat) : Option (Nat × Nat × Nat) :=
  if f ≤ 0x09 then some (1, 1, [1, 2, 4, 4, 2, 4, 8, 4, 2, 4].getD f 1)
  else if f = 0x0A then some (8, 8, 64)
  else if 0x10 ≤ f && f ≤ 0x19 then some (4, 4, [8, 8, 8, 8, 16, 16, 8, 8, 16, 16].getD (f - 0x10) 8)
  else if (0x20 ≤ f && f ≤ 0x2D) || (0x30 ≤ f && f ≤ 0x3D) then
    (astcBlocks[f % 16]?).map (fun e => (e.1, e.2, 16))
  else none

/-- A channel of a texel: a number, or an infinity or NaN of a floating-point format. -/
inductive TexVal where
  | num (x : Q)
  | special (x : FVal)
  deriving DecidableEq, Repr

def TexVal.ofF (v : FVal) : TexVal := if v.isFin then .num v.toQ else .special v

def chan0 : TexVal := .num (qInt 0)
def chan1 : TexVal := .num (qInt 1)

/-- Channels in order, the absent ones G = 0, B = 0 and A = 1. -/
def rgba (l : List TexVal) : List TexVal := [l.getD 0 chan0, l.getD 1 chan0, l.getD 2 chan0, l.getD 3 chan1]

def unorm8 (blk k : Nat) : TexVal := .num (mkQ (fld blk (8 * k + 7) (8 * k) : Nat) 255)
def srgb8 (blk k : Nat) : TexVal := .num (mkQ (min (Config.srgbLinear (fld blk (8 * k + 7) (8 * k))) (2 ^ 32) : Nat) (2 ^ 32))
def half16 (blk k : Nat) : TexVal := TexVal.ofF (fmtF16.decode (fld blk (16 * k + 15) (16 * k)))

/-- The texel (x, y) of a block. -/
def texelOf (f blk x y : Nat) : List TexVal :=
  match f with
  | 0x00 => rgba [unorm8 blk 0]
  | 0x01 => rgba [unorm8 blk 0, unorm8 blk 1]
  | 0x02 => rgba ((List.range 4).map (unorm8 blk))
  | 0x03 => rgba [srgb8 blk 0, srgb8 blk 1, srgb8 blk 2, unorm8 blk 3]
  | 0x04 => rgba [half16 blk 0]
  | 0x05 => rgba [half16 blk 0, half16 blk 1]
  | 0x06 => rgba ((List.range 4).map (half16 blk))
  | 0x07 => rgba [TexVal.ofF (fmtF32.decode (fld blk 31 0))]
  | 0x08 => rgba [.num (mkQ (fld blk 15 0 : Nat) 65535)]
  | 0x09 => rgba [TexVal.ofF (fmtF32.decode (fld blk 31 0))]
  | 0x0A => match sfdDecode blk x y with
    | some v => rgba [.num (mkQ v 65535)]
    | none => [chan0, chan0, chan0, chan0]
  | _ => rgba ((Config.texDecode f blk x y).map (fun c => TexVal.ofF (fmtF32.decode c)))

/-! ### Bindings (11 Table 11-11) -/

/-- A binding of a draw with NUV attributes is well formed (11 R409). A disabled one has only its reserved bits checked. -/
def bindingOk (b nuv : Nat) : Bool :=
  fld b 4 0 == 0 && (!bitOf b 127 ||
    ((texFormat (fld b 126 121)).isSome && decide (fld b 120 119 < nuv) &&
     decide (1 ≤ fld b 118 105) && decide (fld b 118 105 ≤ 8192) && decide (1 ≤ fld b 104 91) && decide (fld b 104 91 ≤ 8192) &&
     decide (1 ≤ fld b 90 87) && decide (fld b 90 87 ≤ 14) && fld b 86 39 % 256 == 0 && fld b 36 35 != 3 && fld b 30 29 != 3))

def levelW (b l : Nat) : Nat := max 1 (fld b 118 105 / 2 ^ l)
def levelH (b l : Nat) : Nat := max 1 (fld b 104 91 / 2 ^ l)

/-- The pitch of a level's rows of blocks, and the level's bytes (11 R403). -/
def levelPitch (b l : Nat) : Nat :=
  let (bw, _, bytes) := (texFormat (fld b 126 121)).getD (1, 1, 1)
  ceilDiv (ceilDiv (levelW b l) bw * bytes) 64 * 64
def levelBytes (b l : Nat) : Nat :=
  let (_, bh, _) := (texFormat (fld b 126 121)).getD (1, 1, 1)
  levelPitch b l * ceilDiv (levelH b l) bh

/-- The address of a level. -/
def levelBase (b : Nat) : Nat → Nat
  | 0 => fld b 86 39
  | l + 1 => ceilDiv (levelBase b l + levelBytes b l) 256 * 256

/-! ### Level of detail and taps (11 R404) -/

/-- log2 of a positive fraction to 64 fraction bits. -/
def log2Q (a : Q) : Q :=
  let n := a.n.natAbs
  let k : Int := (n.log2 : Int) - a.d.log2
  let scaled := fun (e : Int) => if e ≥ 0 then n * 2 ^ 96 / (a.d * 2 ^ e.toNat) else n * 2 ^ 96 * 2 ^ (-e).toNat / a.d
  let k := if scaled k < 2 ^ 96 then k - 1 else k
  Q.add (qInt k) (mkQ (log2Frac (scaled k) : Nat) (2 ^ 64))

/-- λ from the coordinates at pixels (0, 0), (1, 0) and (0, 1) of the quad. -/
def lodOf (b : Nat) (p00 p10 p01 : Q × Q) : Q :=
  let len2 := fun (p : Q × Q) =>
    let du := Q.mul (Q.sub p.1 p00.1) (qNat (levelW b 0))
    let dv := Q.mul (Q.sub p.2 p00.2) (qNat (levelH b 0))
    Q.add (Q.mul du du) (Q.mul dv dv)
  let r := Q.max (len2 p10) (len2 p01)
  let raw := if r.isZero then qInt (-4096) else Q.mul (log2Q r) (mkQ 1 2)
  let l := Q.add raw (mkQ (sext 8 (fld b 28 21)) 16)
  Q.min (Q.min (Q.max l (mkQ (fld b 20 13 : Nat) 16)) (mkQ (fld b 12 5 : Nat) 16)) (qInt ((fld b 90 87 : Nat) - 1))

/-- A fraction quantised to 1/256. -/
def quant256 (f : Q) : Q := mkQ (Q.mul f (qInt 256)).roundEven 256

/-- The levels sampled and their weights. -/
def lodLevels (b : Nat) (l : Q) : List (Q × Nat) :=
  let top := fld b 90 87 - 1
  match fld b 36 35 with
  | 0 => [(qInt 1, 0)]
  | 1 => [(qInt 1, min top (Q.floor (Q.add l (mkQ 1 2))).toNat)]
  | _ =>
    let k := l.floor.toNat
    let f := quant256 (Q.sub l (qInt l.floor))
    [(Q.sub (qInt 1) f, min top k), (f, min top (k + 1))]

/-- The texels of one level around (u, v), with their weights. -/
def levelTaps (b lv : Nat) (linear : Bool) (u v : Q) : List (Q × Int × Int) :=
  let x := Q.mul u (qNat (levelW b lv))
  let y := Q.mul v (qNat (levelH b lv))
  if linear then
    let x := Q.sub x (mkQ 1 2)
    let y := Q.sub y (mkQ 1 2)
    let fx := quant256 (Q.sub x (qInt x.floor))
    let fy := quant256 (Q.sub y (qInt y.floor))
    let gx := Q.sub (qInt 1) fx
    let gy := Q.sub (qInt 1) fy
    [(Q.mul gx gy, x.floor, y.floor), (Q.mul fx gy, x.floor + 1, y.floor), (Q.mul gx fy, x.floor, y.floor + 1),
     (Q.mul fx fy, x.floor + 1, y.floor + 1)]
  else [(qInt 1, x.floor, y.floor)]

/-- An integer texel coordinate under an addressing mode; none is the border. -/
def texAddr (mode n : Nat) (i : Int) : Option Nat :=
  match mode with
  | 0 => some (i % (n : Int)).toNat
  | 1 =>
    let m := (i % (2 * n : Nat)).toNat
    some (if m < n then m else 2 * n - 1 - m)
  | 2 => some (max 0 (min ((n : Int) - 1) i)).toNat
  | _ => if 0 ≤ i && i < n then some i.toNat else none

def borderTexel (b : Nat) : List TexVal :=
  match fld b 30 29 with
  | 0 => [chan0, chan0, chan0, chan0]
  | 1 => [chan0, chan0, chan0, chan1]
  | _ => [chan1, chan1, chan1, chan1]

/-- A weighted sum; an infinity or NaN takes part as IEEE arithmetic has it. -/
def mixChan (l : List (Q × TexVal)) : TexVal :=
  let specials := l.filterMap (fun e => match e.2 with
    | .special v => some (FVal.mul (.fin false (if e.1.isZero then 0 else 1) 0) v)
    | .num _ => none)
  match specials with
  | [] => .num (l.foldl (fun (a : Q) e => match e.2 with | .num x => Q.add a (Q.mul e.1 x) | .special _ => a) (qInt 0))
  | v :: r => .special (r.foldl (FVal.add 0) v)

def TexVal.toF16 : TexVal → Nat
  | .num x => fmtF16.ofQ x
  | .special v => fmtF16.encode 0 false v

/-! ### Texel reads (11 R405) -/

/-- A block's bytes read through cluster `cl`'s texel cache. -/
def Dev.texelBlock (d : Dev) (a : Agent) (cl dva n : Nat) : Except AccFail Nat × Dev :=
  match d.xlate a dva .read with
  | (.error f, d) => (.error f, d)
  | (.ok (pa, attr), d) =>
    let line := pa / 128
    let cache := Tab.get d.render.texels cl []
    let held := match Tab.get? cache line with
      | some l => if Config.lineHeld d.free then some l else none
      | none => none
    match held with
    | some l => (.ok (leNat (lineBytes l (pa % 128) n)), { d with free := d.free + 1 })
    | none =>
      let (l, p, d) := d.ncRead a.rq attr line
      match (onesOf p).find? (touchesGranule (spanMask (pa % 128) n)) with
      | some k => (.error (.poison (line * 128 + 8 * k)), d)
      | none =>
        (.ok (leNat (lineBytes l (pa % 128) n)),
          { d with free := d.free + 1
                   render := { d.render with texels := Tab.put d.render.texels cl (Tab.put cache line l) } })

/-- One texel of a level. -/
def Dev.texel (d : Dev) (a : Agent) (cl b lv : Nat) (i j : Int) : Except AccFail (List TexVal) × Dev :=
  match texAddr (fld b 34 33) (levelW b lv) i, texAddr (fld b 32 31) (levelH b lv) j with
  | some x, some y =>
    let (bw, bh, bytes) := (texFormat (fld b 126 121)).getD (1, 1, 1)
    let dva := (levelBase b lv + y / bh * levelPitch b lv + x / bw * bytes) % 2 ^ 48
    match d.texelBlock a cl dva bytes with
    | (.error f, d) => (.error f, d)
    | (.ok blk, d) => (.ok (texelOf (fld b 126 121) blk (x % bw) (y % bh)), d)
  | _, _ => (.ok (borderTexel b), d)

/-- Weighted texels read in order. -/
def Dev.texels (d : Dev) (a : Agent) (cl b : Nat) : List (Q × Nat × Int × Int) → Except AccFail (List (Q × List TexVal)) × Dev
  | [] => (.ok [], d)
  | (w, lv, i, j) :: r =>
    match d.texel a cl b lv i j with
    | (.error f, d) => (.error f, d)
    | (.ok t, d) =>
      match d.texels a cl b r with
      | (.error f, d) => (.error f, d)
      | (.ok l, d) => (.ok ((w, t) :: l), d)

/-- A binding sampled at (u, v) with a level of detail: the four FP16 channels as one number (11 R404). -/
def Dev.texSample (d : Dev) (a : Agent) (cl b : Nat) (lod u v : Q) : Except AccFail Nat × Dev :=
  let linear := if Q.le lod (qInt 0) then bitOf b 38 else bitOf b 37
  let taps := (lodLevels b lod).flatMap (fun (e : Q × Nat) =>
    (levelTaps b e.2 linear u v).map (fun (t : Q × Int × Int) => (Q.mul e.1 t.1, e.2, t.2.1, t.2.2)))
  match d.texels a cl b taps with
  | (.error f, d) => (.error f, d)
  | (.ok l, d) =>
    let chan := fun k => (mixChan (l.map (fun (e : Q × List TexVal) => (e.1, e.2.getD k chan0)))).toF16
    (.ok (chan 0 + 2 ^ 16 * chan 1 + 2 ^ 32 * chan 2 + 2 ^ 48 * chan 3), d)

end Sys2Proof.Machine
end

