-- ==== Sys2Proof/Machine/Display.lean ====
section
/-! DEFINITION. How a composition engine fetches, scales and blends an output line (13 R442-R453). -/

namespace Sys2Proof.Machine

/-! ### Engines -/

/-- The linear coefficient set (R449). -/
def Coefs.linear : Coefs :=
  let tap := fun (n one : Nat) (i : Nat) => (if i % n = one then (256 - 4 * (i / n) : Int)
    else if i % n = one + 1 then ((4 * (i / n) : Nat) : Int) else 0)
  { h := (List.range 512).map (tap 8 3), v := (List.range 256).map (tap 4 1) }

def Engine.empty : Engine :=
  { mode := 0, running := false, starting := false, stopping := false, refresh := 0, underrun := 0, scanning := false,
    latched := false, line := 0, ahead := [], bound := [], layers := [], commits := [], coefs := [], coefPend := [],
    strong := none, strongFail := false, failShown := false, checked := false, te := false, strongBank := 0, banks := [],
    strongPend := [] }

def Dev.engine (d : Dev) (e : Nat) : Engine := Tab.get d.engines e Engine.empty

def Dev.modEngine (d : Dev) (e : Nat) (g : Engine → Engine) : Dev := { d with engines := Tab.put d.engines e (g (d.engine e)) }

/-- A field of CMP_MODE_e (13 Table 13-13). -/
def Engine.m (g : Engine) (hi lo : Nat) : Nat := fld g.mode.toNat hi lo
def Engine.hact (g : Engine) : Nat := g.m 187 176
def Engine.vact (g : Engine) : Nat := g.m 139 128
def Engine.bpp30 (g : Engine) : Bool := bitOf g.mode.toNat 251

/-- The largest value of an output channel. -/
def Engine.chanMax (g : Engine) : Nat := if g.bpp30 then 1023 else 255

/-- An 8-bit value as an output channel (R453). -/
def Engine.expand (g : Engine) (v : Nat) : Nat := if g.bpp30 then v * 4 + v / 64 else v

/-! ### Layer descriptors (13 Table 13-8) -/

def Layer.f (l : Layer) (hi lo : Nat) : Nat := fld l.desc.toNat hi lo
def Layer.bit (l : Layer) (n : Nat) : Bool := bitOf l.desc.toNat n
def Layer.base (l : Layer) : Nat := l.f 511 464
def Layer.pitch (l : Layer) : Nat := l.f 463 446
def Layer.sw (l : Layer) : Nat := l.f 445 432
def Layer.sh (l : Layer) : Nat := l.f 431 418
def Layer.sx (l : Layer) : Nat := l.f 417 404
def Layer.sy (l : Layer) : Nat := l.f 403 390
def Layer.dx (l : Layer) : Nat := l.f 389 378
def Layer.dy (l : Layer) : Nat := l.f 377 366
def Layer.dw (l : Layer) : Nat := l.f 365 354
def Layer.dh (l : Layer) : Nat := l.f 353 342
def Layer.fmt (l : Layer) : Nat := l.f 301 299
def Layer.isOpaque (l : Layer) : Bool := l.bit 296
def Layer.premult (l : Layer) : Bool := l.bit 295
def Layer.survive (l : Layer) : Bool := l.bit 294
def Layer.tile (l : Layer) : Bool := l.bit 293
def Layer.cluster (l : Layer) : Nat := l.f 292 287
def Layer.en (l : Layer) : Bool := l.bit 286
def Layer.alpha (l : Layer) : Nat := l.f 309 302
def Layer.scaled (l : Layer) : Bool := l.sw != l.dw || l.sh != l.dh
def Layer.filled (l : Layer) : Bool := l.fillHold || l.fillNow

/-- Bytes of a source pixel; 64 for a block of SFD. -/
def fmtBytes (f : Nat) : Nat := [4, 4, 2, 1, 8, 64].getD f 0

/-- The descriptor is bad by itself or for the engine's mode (R444, R448). -/
def Layer.bad (l : Layer) (g : Engine) : Bool :=
  l.f 285 0 != 0 || decide (l.fmt > 5) || l.sw == 0 || decide (l.sw > 8192) || l.sh == 0 || decide (l.sh > 8192) ||
  l.dw == 0 || l.dh == 0 || l.base % (if l.fmt = 5 then 1 else fmtBytes l.fmt) != 0 ||
  decide (l.dx + l.dw > g.hact) || decide (l.dy + l.dh > g.vact) ||
  decide (l.sw > 4 * l.dw) || decide (l.dw > 8 * l.sw) || decide (l.sh > 4 * l.dh) || decide (l.dh > 8 * l.sh)

/-- Offset from BASE, and length, of what a source row needs for columns `x0` to `x1`. -/
def Layer.rowSpan (l : Layer) (x0 x1 y : Nat) : Nat × Nat :=
  if l.fmt = 5 then (y / 8 * l.pitch + x0 / 8 * 64, (x1 / 8 - x0 / 8 + 1) * 64)
  else (y * l.pitch + x0 * fmtBytes l.fmt, (x1 - x0 + 1) * fmtBytes l.fmt)

/-- The pages of a layer's source rectangle. -/
def Layer.pages (l : Layer) : List Nat :=
  ((List.range l.sh).flatMap (fun y =>
    let (o, n) := l.rowSpan l.sx (l.sx + l.sw - 1) (l.sy + y)
    pagesOf (l.base + o) n)).eraseDups

/-- A composition engine as an agent: requester 33, UNIT 8. -/
def Dev.cmpAgent (d : Dev) (e part ctx : Nat) : Agent :=
  { rq := rqUnit 33 (d.part part).cfg.func, unit := 8, index := e, ctx := ctx }

/-- Every address of a list translates as a read. -/
def Dev.allReadable (d : Dev) (a : Agent) : List Nat → Bool × Dev
  | [] => (true, d)
  | x :: r =>
    match d.xlate a x .read with
    | (.ok _, d) => d.allReadable a r
    | (.error _, d) => (false, d)

/-! ### Source bytes (R446) -/

/-- The bytes of one line that a layer read takes, each with whether its granule is poisoned; during a data-plane reset
the vault is bypassed. -/
def Dev.cmpRead1 (d : Dev) (a : Agent) (dva n : Nat) : Option (List (Byte × Bool)) × Dev :=
  match d.xlate a dva .read with
  | (.error _, d) => (none, d)
  | (.ok (pa, attr), d) =>
    if d.hostRefuses a.rq.func (pa / 128) then (none, d.recordFail a .read 9 0 0 dva) else
    let (l, p, d) := if d.running then d.ncRead a.rq (attrFor true pa attr) (pa / 128) else d.memRead a.rq (pa / 128)
    ((some ((List.range n).map (fun k => (lineByte l (pa % 128 + k), p.getLsbD ((pa % 128 + k) / 8)))) : Option (List (Byte × Bool))),
      match (onesOf p).find? (touchesGranule (spanMask (pa % 128) n)) with
      | some k => d.agentFault a (d.ctxPart a.ctx) (.poison (pa / 128 * 128 + 8 * k))
      | none => d)

/-- A layer's source bytes from offset `o`; none where the read fails. -/
def Dev.cmpRead (d : Dev) (e : Nat) (l : Layer) (o n : Nat) (counted : Bool) : Option (List (Byte × Bool)) × Dev :=
  let count := fun (d : Dev) => if counted then d.countGlobal 19 n else d
  if l.tile then
    if !d.heldBy l.part l.cluster then (none, d)
    else (some ((List.range n).map (fun k =>
      (Mem.read (Tab.get d.mem.tile l.cluster []) ((l.base + o + k) % 2 ^ 22), false))), count d)
  else
    (piecesOf ((l.base + o) % 2 ^ 48) n).foldl (fun (r : Option (List (Byte × Bool)) × Dev) p =>
      match r with
      | (none, d) => (none, d)
      | (some bs, d) => match d.cmpRead1 (d.cmpAgent e l.part l.ctx) (p.1 % 2 ^ 48) p.2 with
        | (none, d) => (none, d)
        | (some x, d) => (some (bs ++ x), d)) (some [], count d)

/-! ### Samples -/

/-- A sample: four channels, the layer's FILL, or a value the manual does not state (an infinite or NaN texel). -/
inductive Px where
  | val (r g b a : Q)
  | fill
  | unstated
  deriving DecidableEq, Repr

def unorm (v m : Nat) : Q := mkQ (v : Int) m

/-- The sample of a pixel of `fmtBytes` bytes (R442); for SFD the bytes are the pixel's block and x, y its place there. -/
def sampleOf (fmt : Nat) (bs : List (Byte × Bool)) (x y : Nat) : Px :=
  let b := fun k => ((bs.map (fun (e : Byte × Bool) => e.1)).getD k 0).toNat
  let one := qInt 1
  if bs.any (fun e => e.2) then .fill else
  match fmt with
  | 0 => .val (unorm (b 0) 255) (unorm (b 1) 255) (unorm (b 2) 255) (unorm (b 3) 255)
  | 1 => .val (unorm (b 2) 255) (unorm (b 1) 255) (unorm (b 0) 255) (unorm (b 3) 255)
  | 2 =>
    let v := b 0 + 256 * b 1
    .val (unorm (fld v 15 11) 31) (unorm (fld v 10 5) 63) (unorm (fld v 4 0) 31) one
  | 3 => .val (unorm (b 0) 255) (unorm (b 0) 255) (unorm (b 0) 255) one
  | 4 =>
    let h := fun k => fmtF16.decode (b (2 * k) + 256 * b (2 * k + 1))
    if (h 0).isFin && (h 1).isFin && (h 2).isFin && (h 3).isFin
    then .val (h 0).toQ (h 1).toQ (h 2).toQ (h 3).toQ else .unstated
  | _ =>
    match sfdDecode (leNat (bs.map (fun (e : Byte × Bool) => e.1))) (x % 8) (y % 8) with
    | some v => .val (unorm (v / 256) 255) (unorm (v / 256) 255) (unorm (v / 256) 255) one
    | none => .val (qInt 0) (qInt 0) (qInt 0) (qInt 0)

/-- The samples of source row `y` for columns `x0` to `x1`; none where the read fails. -/
def Dev.cmpRow (d : Dev) (e : Nat) (l : Layer) (x0 x1 y : Nat) (counted : Bool) : Option (List Px) × Dev :=
  let (o, n) := l.rowSpan x0 x1 y
  match d.cmpRead e l o n counted with
  | (none, d) => (none, d)
  | (some bs, d) =>
    let w := fmtBytes l.fmt
    (some ((List.range (x1 - x0 + 1)).map (fun k =>
      let j := if l.fmt = 5 then (x0 + k) / 8 - x0 / 8 else k
      sampleOf l.fmt ((bs.drop (w * j)).take w) (x0 + k) y)), d)

/-! ### Scaling (R448) -/

/-- Base and phase of destination position `t` when `s` source pixels become `n`. -/
def scalePos (s n t : Nat) : Int × Nat :=
  let step := s * 65536 / n
  let pos : Int := ((2 * t + 1) * step / 2 : Nat) - 32768
  (pos / 65536, ((pos % 65536) / 1024).toNat)

/-- A source index clamped to the rectangle. -/
def clampIdx (i : Int) (n : Nat) : Nat := (max 0 (min i ((n : Int) - 1))).toNat

/-- The weighted sum of samples, over 256. -/
def mixPx (l : List (Int × Px)) : Px :=
  l.foldl (fun (acc : Px) (e : Int × Px) =>
    if e.1 = 0 then acc else
    match acc, e.2 with
    | .val r g b a, .val r' g' b' a' =>
      let k := mkQ e.1 256
      .val (Q.add r (Q.mul k r')) (Q.add g (Q.mul k g')) (Q.add b (Q.mul k b')) (Q.add a (Q.mul k a'))
    | .fill, _ => .fill
    | _, .fill => .fill
    | _, _ => .unstated) (.val (qInt 0) (qInt 0) (qInt 0) (qInt 0))

/-- Source rows fetched by the time destination row `t` has been. -/
def Layer.fetchedTo (l : Layer) (t : Nat) : Nat :=
  if t + 1 ≥ l.dh then l.sh else clampIdx ((scalePos l.sh l.dh t).1 + 2) l.sh + 1

/-- A scaled layer's samples on destination row `t` (R448): its source rows are fetched whole, each counted once. -/
def Dev.scaledRow (d : Dev) (e : Nat) (l : Layer) (k : Coefs) (t : Nat) : Option (List Px) × Dev :=
  let (by_, py) := scalePos l.sh l.dh t
  let had := if t = 0 then 0 else l.fetchedTo (t - 1)
  let rows := (List.range 4).map (fun (i : Nat) => clampIdx (by_ - 1 + i) l.sh)
  let extra := (List.range l.sh).filter (fun y => decide (had ≤ y) && decide (y < l.fetchedTo t) && !rows.contains y)
  let get := fun (r : Option (Tab (List Px)) × Dev) y =>
    match r with
    | (none, d) => (none, d)
    | (some tab, d) =>
      let d : Dev := d
      match d.cmpRow e l l.sx (l.sx + l.sw - 1) (l.sy + y)
          (decide (had ≤ y) && (l.fmt != 5 || (l.sy + y) % 8 == 0 || y == 0)) with
      | (none, d) => (none, d)
      | (some px, d) => (some (Tab.put tab y px), d)
  match (rows.eraseDups ++ extra).foldl get ((some [] : Option (Tab (List Px))), d) with
  | (none, d) => (none, d)
  | (some tab, d) =>
    let px := fun x y => (Tab.get tab y []).getD x .fill
    (some ((List.range l.dw).map (fun c =>
      let (bx, ph) := scalePos l.sw l.dw c
      mixPx ((rows.zipIdx).map (fun (r : Nat × Nat) =>
        (k.v.getD (4 * py + r.2) 0, mixPx ((List.range 8).map (fun (i : Nat) =>
          (k.h.getD (8 * ph + i) 0, px (clampIdx (bx - 3 + i) l.sw) r.1)))))))), d)

/-! ### Occlusion (R447) -/

/-- Layer `l` covers the whole 16-pixel span `sp` of output line `y` opaquely. -/
def Layer.hides (l : Layer) (sp y : Nat) : Bool :=
  l.en && l.isOpaque && l.alpha == 255 && !l.filled && decide (l.dx ≤ 16 * sp) && decide (16 * sp + 16 ≤ l.dx + l.dw) &&
  decide (l.dy ≤ y) && decide (y < l.dy + l.dh)

/-- A field of a CMP_STRONG body (13 Table 13-11). -/
def sf (b : BitVec 512) (hi lo : Nat) : Nat := fld b.toNat hi lo

/-- Output pixel (x, y) lies in the strongroom layer's rectangle. -/
def inStrong (b : BitVec 512) (x y : Nat) : Bool :=
  decide (sf b 389 378 ≤ x) && decide (x < sf b 389 378 + sf b 413 402) &&
  decide (sf b 377 366 ≤ y) && decide (y < sf b 377 366 + sf b 401 390)

/-- The strongroom layer hides span `sp` of line `y`. -/
def Engine.strongHides (g : Engine) (sp y : Nat) : Bool :=
  match g.strong with
  | some b => (bitOf b.toNat 464 || g.failShown) && inStrong b (16 * sp) y && inStrong b (16 * sp + 15) y
  | none => false

/-! ### One output line -/

/-- The samples of one layer on output line `y`, keyed by output column. A failed read makes the layer show FILL. -/
def Dev.layerLine (d : Dev) (e k y : Nat) (hidden : Nat → Bool) : Tab Px × Dev :=
  match Tab.get? (d.engine e).layers k with
  | none => ([], d)
  | some l =>
    if !l.en || y < l.dy || l.dy + l.dh ≤ y then ([], d) else
    let cols := (List.range l.dw).map (· + l.dx)
    let filled := cols.map (fun x => (x, Px.fill))
    if l.filled then (filled, d) else
    let fails := fun (d : Dev) => (filled, d.modEngine e (fun g =>
      { g with layers := Tab.mod g.layers k (fun l => { l with fillNow := true }) }))
    let t := y - l.dy
    if l.scaled then
      match d.scaledRow e l (Tab.get (d.engine e).coefs (l.f 298 297) Coefs.linear) t with
      | (none, d) => fails d
      | (some px, d) => (px.zipIdx.map (fun (p : Px × Nat) => (p.2 + l.dx, p.1)), d)
    else
      let spans := ((cols.map (· / 16)).eraseDups).filter (fun sp => !hidden sp)
      match spans.foldl (fun (r : Option (Tab Px) × Dev) sp =>
          match r with
          | (none, d) => (none, d)
          | (some tab, d) =>
            let x0 := max (16 * sp) l.dx
            let x1 := min (16 * sp + 15) (l.dx + l.dw - 1)
            match Dev.cmpRow d e l (l.sx + x0 - l.dx) (l.sx + x1 - l.dx) (l.sy + t)
                (l.fmt != 5 || t == 0 || (l.sy + t) % 8 == 0) with
            | (none, d) => (none, d)
            | (some px, d) => (some (tab ++ px.zipIdx.map (fun (p : Px × Nat) => (p.2 + x0, p.1))), d))
          ((some [] : Option (Tab Px)), d) with
      | (none, d) => fails d
      | (some tab, d) => (tab, d)

/-- The samples of layers 0 to 6 on a line, layer 6 first. -/
def Dev.lineSamples (d : Dev) (e y : Nat) : List (Nat × Tab Px) × Dev :=
  [6, 5, 4, 3, 2, 1, 0].foldl (fun (r : List (Nat × Tab Px) × Dev) k =>
    let g := r.2.engine e
    let hidden := fun sp => g.strongHides sp y || (g.layers.any (fun m => decide (m.1 > k) && m.2.hides sp y))
    let (t, d) := r.2.layerLine e k y hidden
    ((k, t) :: r.1, d)) ([], d)

/-- One channel through one layer (R443). -/
def blend (premult : Bool) (pa a s c : Q) : Q := Q.add (Q.mul s (if premult then pa else a)) (Q.mul c (Q.sub (qInt 1) a))

/-- A colour in progress: its channels, how many layers it went through, and whether its value is unstated. -/
structure Mixed where
  ch : List Q
  n : Nat
  unstated : Bool
  deriving DecidableEq, Repr

/-- A colour after a layer's sample. -/
def Layer.onto (l : Layer) (p : Px) (c : Mixed) : Mixed :=
  let go := fun (r g b sa : Q) =>
    let pa := unorm l.alpha 255
    let a := if l.isOpaque then pa else Q.mul sa pa
    { c with ch := (c.ch.zip [r, g, b]).map (fun (x : Q × Q) => blend l.premult pa a x.2 x.1), n := c.n + 1 }
  match p with
  | .val r g b a => go r g b a
  | .fill =>
    let v := fun k => unorm (l.f (317 + 8 * k) (310 + 8 * k)) 255
    go (v 0) (v 1) (v 2) (v 3)
  | .unstated => { c with unstated := true }

/-- An output channel (R443): within 1/2 plus one unit for each layer of the exact value; `x` chooses. -/
def chanOut (top n x : Nat) (v : Q) : Nat :=
  let s := Q.mul v (qNat top)
  let r := mkQ (2 * n + 1 : Nat) 2
  let lo := clampIdx (-(Q.floor (Q.sub r s))) (top + 1)
  let hi := clampIdx (Q.floor (Q.add s r)) (top + 1)
  if n = 0 then clampIdx s.roundEven (top + 1) else lo + x % (hi - lo + 1)

/-- One output pixel, red lowest: BG, the layers in order, then the strongroom layer (R443, R450, R453). `x` supplies what
the manual leaves open. -/
def Engine.pixel (g : Engine) (samples : List (Nat × Tab Px)) (col y x : Nat) : Nat :=
  let m := g.chanMax
  let bg : Mixed := { ch := [0, 1, 2].map (fun k => unorm (g.expand (g.m (195 + 8 * k) (188 + 8 * k))) m), n := 0,
                      unstated := false }
  let c := samples.foldl (fun (c : Mixed) (e : Nat × Tab Px) =>
    match Tab.get? g.layers e.1, Tab.get? e.2 col with
    | some l, some p => l.onto p c
    | _, _ => c) bg
  let out := fun (c : Mixed) => (c.ch.zipIdx).map (fun (e : Q × Nat) =>
    if c.unstated then x / 2 ^ (32 * e.2) % (m + 1) else chanOut m c.n (x / 2 ^ (32 * e.2)) e.1)
  let chans := match g.strong with
    | some b =>
      if !inStrong b col y then out c
      else if g.failShown then [0, 1, 2].map (fun k => g.expand (sf b (487 + 8 * k) (480 + 8 * k)))
      else
        let o := 4 * ((y - sf b 377 366) * sf b 413 402 + (col - sf b 389 378))
        let v := fun k => (Mem.read (Tab.get g.banks g.strongBank []) (o + k)).toNat
        if bitOf b.toNat 464 then [0, 1, 2].map (fun k => g.expand (v k))
        else
          let a := unorm (v 3) 255
          out { c with ch := ((c.ch.zipIdx).map (fun (e : Q × Nat) => blend false a a (unorm (v e.2) 255) e.1)), n := c.n + 1 }
    | none => out c
  let w := if g.bpp30 then 10 else 8
  chans.getD 0 0 + chans.getD 1 0 * 2 ^ w + chans.getD 2 0 * 2 ^ (2 * w)

/-- Output line `y`; where `late`, open pixels of each layer show FILL (R446). -/
def Dev.composeLine (d : Dev) (e y : Nat) (late : Bool) : List Nat × Dev :=
  let (samples, d) := d.lineSamples e y
  let (x, d) := d.fresh
  let (z, d) := d.fresh
  let samples := if late then samples.map (fun (s : Nat × Tab Px) => (s.1, s.2.map (fun (p : Nat × Px) =>
      (p.1, if bitOf z (4096 * s.1 + p.1) then Px.fill else p.2)))) else samples
  let g := d.engine e
  ((List.range g.hact).map (fun col => g.pixel samples col y (x / 2 ^ (96 * col))), d)

/-! ### The strongroom CRC (R452) -/

def crcBits : Nat → Nat → Nat
  | 0, c => c
  | n + 1, c => crcBits n (if c % 2 = 1 then (c / 2) ^^^ 0xEDB88320 else c / 2)

/-- CRC-32 of IEEE 802.3. -/
def crc32 (bs : List Byte) : Nat := (bs.foldl (fun c b => crcBits 8 (c ^^^ b.toNat)) 0xFFFFFFFF) ^^^ 0xFFFFFFFF

end Sys2Proof.Machine
end

