-- ==== Sys2Proof/Machine/Compose.lean ====
section
/-! DEFINITION. The commands and events of the composition engines (13 R442-R456; 14 R481, R482). -/

namespace Sys2Proof.Machine

/-! ### CMP_COMMIT (R444, R445) -/

/-- The layers of a commit are read in order: their descriptors, or the failed access. -/
def Dev.readLayers (d : Dev) (a : Agent) (part ctx desc : Nat) : List Nat → Except AccFail (Tab Layer) × Dev
  | [] => (.ok [], d)
  | l :: r =>
    match d.agentRead a true (desc + 64 * l) 64 with
    | (.error e, d) => (.error e, d)
    | (.ok bs, d) =>
      match d.readLayers a part ctx desc r with
      | (.error e, d) => (.error e, d)
      | (.ok t, d) => (.ok ((l, { desc := BitVec.ofNat 512 (leNat bs), ctx := ctx, part := part, fillHold := false,
                                  fillNow := false }) :: t), d)

/-- Every source of a commit that is not in tile memory translates for reading. -/
def Dev.layersMapped (d : Dev) (e : Nat) : Tab Layer → Bool × Dev
  | [] => (true, d)
  | (_, l) :: r =>
    if l.tile then d.layersMapped e r else
    match d.allReadable (d.cmpAgent e l.part l.ctx) l.pages with
    | (true, d) => d.layersMapped e r
    | (false, d) => (false, d)

/-- A commit takes effect, but for the layers that a later commit of the same latch replaces. -/
def Dev.commitApply (d : Dev) (e : Nat) (c : Commit) (later : List Commit) : Dev :=
  let g := d.engine e
  let keep := Tab.keep c.layers (fun k _ => !(later.any (fun o => Tab.has o.layers k)))
  let d := d.modEngine e (fun g => { g with layers := keep.foldl (fun (t : Tab Layer) x => Tab.put t x.1 x.2) g.layers })
  d.cmdDone c.cmd (if keep.length = c.layers.length then 0 else 0x39) ((g.refresh + 1) % 2 ^ 32)

/-- Accepted commits take effect at a latch, in acceptance order. -/
def Dev.commitAll (d : Dev) (e : Nat) : List Commit → Dev
  | [] => d
  | c :: r => (d.commitApply e c r).commitAll e r

/-- The layers named by a mask. -/
def layersOf (mask : Nat) : List Nat := (List.range 7).filter (bitOf mask)

/-- CMP_COMMIT. -/
def execCmpCommit (x : CmdId) (s : State) : Host.Outcome State Fault Refusal :=
  runRing x 0x58 (fun d c ctx =>
    let e := c.f 304 304
    let ls := layersOf (c.f 312 306)
    let desc := c.f 303 256
    if ls.isEmpty || desc % 64 != 0 || ls.any (fun l => Tab.get? (d.engine e).bound l != some c.part) then d.cmdDone x 0x10 0
    else
      let a := d.cmdAgent c ctx
      match d.readLayers a c.part ctx desc ls with
      | (.error f, d) => d.agentFault a c.part f
      | (.ok t, d) =>
        if t.any (fun l => l.2.bad (d.engine e)) then d.cmdDone x 0x10 0 else
        match d.layersMapped e t with
        | (false, d) => d.cmdDone x 0x10 0
        | (true, d) =>
          let k : Commit := { cmd := x, layers := t }
          if (d.engine e).running then (d.cmdRuns x).modEngine e (fun g => { g with commits := g.commits ++ [k] })
          else d.commitApply e k []) s

/-! ### CMP_COEF (R449) -/

/-- Little-endian 16-bit words. -/
def words16 : List Byte → List Nat
  | a :: b :: r => leNat [a, b] :: words16 r
  | _ => []

/-- Each of the 64 phases' `n` taps sum to 256. -/
def phasesOk (taps : List Int) (n : Nat) : Bool := (List.range 64).all (fun p => ((taps.drop (n * p)).take n).sum == 256)

/-- The block's coefficients; none where one is not sign-extended or a phase's taps do not sum to 256. -/
def readCoefs (bs : List Byte) : Option Coefs :=
  let ws := (words16 bs).take 768
  let h := (ws.take 512).map (sext 16)
  let v := (ws.drop 512).map (sext 16)
  if ws.all (fun w => fld w 15 9 == 0 || fld w 15 9 == 127) && phasesOk h 8 && phasesOk v 4 then some { h := h, v := v } else none

/-- CMP_COEF. -/
def execCmpCoef (x : CmdId) (s : State) : Host.Outcome State Fault Refusal :=
  runRing x 0x59 (fun d c ctx =>
    let e := c.f 304 304
    let addr := c.f 303 256
    if x.fn != 0 || addr % 64 != 0 then d.cmdDone x 0x10 0 else
    let a := d.cmdAgent c ctx
    match d.agentRead a true addr 1536 with
    | (.error f, d) => d.agentFault a c.part f
    | (.ok bs, d) =>
      match readCoefs bs with
      | none => d.cmdDone x 0x10 0
      | some k => (d.cmdRuns x).modEngine e (fun g =>
          { g with coefPend := g.coefPend ++ [{ cmd := x, set := c.f 306 305, coefs := k }] })) s

/-! ### CMP_STRONG (R450-R452) -/

/-- The safety partition. -/
def Dev.safety? (d : Dev) : Option Nat := (List.range 16).find? (fun p => (d.part p).cfg.valid && (d.part p).cfg.safety)

/-- A CMP_STRONG body with EN = 1 is bad for an engine. -/
def strongBad (g : Engine) (b : BitVec 512) : Bool :=
  let w := sf b 413 402
  let h := sf b 401 390
  w == 0 || decide (w > 3840) || h == 0 || decide (h > 2400) || decide (w * h > 65536) || decide (sf b 431 414 < 4 * w) ||
  sf b 303 256 % 4 != 0 || decide (sf b 389 378 + w > g.hact) || decide (sf b 377 366 + h > g.vact)

/-- The rows of a strongroom content. -/
def Dev.readRows (d : Dev) (a : Agent) (src pitch n : Nat) : List Nat → Except AccFail (List Byte) × Dev
  | [] => (.ok [], d)
  | y :: r =>
    match d.agentRead a true ((src + y * pitch) % 2 ^ 48) n with
    | (.error f, d) => (.error f, d)
    | (.ok bs, d) =>
      match d.readRows a src pitch n r with
      | (.error f, d) => (.error f, d)
      | (.ok t, d) => (.ok (bs ++ t), d)

/-- CMP_STRONG. -/
def execCmpStrong (x : CmdId) (s : State) : Host.Outcome State Fault Refusal :=
  runRing x 0x5A (fun d c ctx =>
    let e := c.f 304 304
    let wait := fun (d : Dev) (m : Mem) (crc : Nat) => (d.cmdRuns x).modEngine e (fun g =>
      { g with strongPend := g.strongPend ++ [{ cmd := x, body := c.raw, content := m, crc := crc }] })
    if d.safety? != some c.part then d.cmdDone x 0x10 0
    else if !c.bit 305 then wait d [] 0
    else if strongBad (d.engine e) c.raw then d.cmdDone x 0x10 0
    else
      let a := d.cmpAgent e c.part ctx
      match d.readRows a (c.f 303 256) (c.f 431 414) (4 * c.f 413 402) (List.range (c.f 401 390)) with
      | (.error (.xlat ..), d) => d.cmdDone x 0x07 0
      | (.error f, d) => d.agentFault a c.part f
      | (.ok bs, d) =>
        let crc := crc32 bs
        let d := d.countGlobal 19 bs.length
        if crc != c.f 463 432 then d.cmdDone x 0x3A crc else wait d (Mem.writeN [] 0 bs) crc) s

/-- A loaded strongroom layer takes effect at a latch (R451). -/
def Dev.strongApply (d : Dev) (e : Nat) (l : StrongLoad) : Dev :=
  let d := if bitOf l.body.toNat 305 then
      d.modEngine e (fun g => { g with strong := some l.body, strongFail := false, strongBank := 1 - g.strongBank,
                                       banks := Tab.put g.banks (1 - g.strongBank) l.content })
    else d.modEngine e (fun g => { g with strong := none })
  d.cmdDone l.cmd 0 l.crc

/-- Both strongroom layers are disabled and their banks zeroed; loads in progress complete with BAD_COMMAND (R454). -/
def Dev.strongClear (d : Dev) : Dev :=
  [0, 1].foldl (fun (d : Dev) e =>
    let p := (d.engine e).strongPend
    let d := d.modEngine e (fun g => { g with strong := none, banks := [], strongPend := [] })
    p.foldl (fun (d : Dev) l => d.cmdDone l.cmd 0x10 0) d) d

/-! ### Output (R445, R446, R455, R456) -/

/-- The packet of a DISPLAY_DCS is sent (14 R482): without READ the message is complete. -/
def Dev.dcsSend (d : Dev) (k : Nat) (r : MbxReq) : Dev :=
  let n := r.p 3 1
  let d := d.send (.dsi (r.p 0 1) (toLe 1 (r.p 2 1) ++ (r.bytes.drop 24).take n))
  if r.p 1 1 = 1 then d.acceptReq k 2 else d.reply k 0 0 []

/-- The display message that waits on engine `e` for the end of a refresh: a DISPLAY_DCS whose packet has not gone out. -/
def Dev.dcsGo (d : Dev) (e : Nat) : Dev :=
  match d.mgmt.reqs.findIdx? (fun r => r.msg == 0x0403 && r.accepted && r.phase == 1 && r.p 0 1 == e) with
  | some k => match d.mgmt.reqs[k]? with
    | some r => d.dcsSend k r
    | none => d
  | none => d

/-- DISPLAY_LAYER's bindings take effect (14 R472). -/
def Dev.layerBinds (d : Dev) (e : Nat) : Nat → Dev
  | 0 => d
  | n + 1 =>
    match d.mgmt.reqs.findIdx? (fun r => r.accepted && r.msg == 0x0402 && r.p 0 1 == e) with
    | none => d
    | some k =>
      match d.mgmt.reqs[k]? with
      | none => d
      | some r =>
        let l := r.p 1 1
        let d := d.modEngine e (fun g =>
          { g with bound := if r.p 2 1 = 0xFF then Tab.del g.bound l else Tab.put g.bound l (r.p 2 1) })
        (d.reply k 0 0 []).layerBinds e n

/-- Output stops: RUNNING and EN become 0 (14 R481). Commits and bindings that wait take effect, as while it is stopped. -/
def Dev.stopOutput (d : Dev) (e : Nat) : Dev :=
  let cs := (d.engine e).commits
  let d := d.modEngine e (fun g => { g with running := false, starting := false, stopping := false, scanning := false, te := false,
                                            commits := [], mode := setBit g.mode 255 false })
  (d.layerBinds e d.mgmt.reqs.length).commitAll e cs

/-- A refresh has ended once its last line has been output and its latch has passed. -/
def Dev.refreshEnd (d : Dev) (e : Nat) : Dev :=
  let g := d.engine e
  if !g.scanning || !g.latched || g.line < g.vact then d else
  let d := d.modEngine e (fun g => { g with scanning := false, ahead := [] })
  let d := if g.stopping then (d.stopOutput e).replyAll 0x0401 (fun r => r.p 0 1 == e) [] 4 else d
  d.dcsGo e

/-- The lines not yet output are fetched and composed before the latch. -/
def Dev.fetchAhead (d : Dev) (e : Nat) : List Nat → Dev
  | [] => d
  | y :: r =>
    let (px, d) := d.composeLine e y false
    (d.modEngine e (fun g => { g with ahead := Tab.put g.ahead y px })).fetchAhead e r

/-- LATCH (R445): the last active line has been fetched; what was accepted takes effect. -/
def execLatch (e : Nat) (s : State) : Host.Outcome State Fault Refusal :=
  s.on (fun d =>
    let g := d.engine e
    if e ≥ 2 || d.mgmt.thermTrip || !g.running || !g.scanning || g.latched || g.line + 4 < g.vact then d else
    let d := d.fetchAhead e ((List.range g.vact).filter (fun y => decide (g.line ≤ y)))
    let d := d.modEngine e (fun g => { g with latched := true, commits := [], coefPend := [], strongPend := [] })
    let d := d.layerBinds e d.mgmt.reqs.length
    let d := d.commitAll e g.commits
    let d := g.coefPend.foldl (fun (d : Dev) c =>
      (d.modEngine e (fun g => { g with coefs := Tab.put g.coefs c.set c.coefs })).cmdDone c.cmd 0 0) d
    let d := g.strongPend.foldl (fun (d : Dev) l => d.strongApply e l) d
    d.refreshEnd e)

/-- A refresh may begin: the one before has ended, and a command-mode refresh on tearing effect has its edge. -/
def Engine.mayStart (g : Engine) : Bool :=
  g.running && !g.scanning && !g.stopping && (!(bitOf g.mode.toNat 254 && bitOf g.mode.toNat 248) || g.te)

/-- REFRESH_START (R456). -/
def execRefreshStart (e : Nat) (s : State) : Host.Outcome State Fault Refusal :=
  s.on (fun d => if e < 2 && !d.mgmt.thermTrip && (d.engine e).mayStart then
    d.modEngine e (fun g => { g with refresh := (g.refresh + 1) % 2 ^ 64, scanning := true, latched := false, line := 0, ahead := [],
                                     te := false, failShown := g.strongFail, checked := false,
                                     layers := Tab.mapv g.layers (fun l => { l with fillNow := false }) }) else d)

/-- OUTPUT_LINE_START (R446): the next line goes out; a late one shows FILL where its data has not arrived. -/
def execOutputLineStart (e : Nat) (late : Bool) (s : State) : Host.Outcome State Fault Refusal :=
  s.on (fun d =>
    let g := d.engine e
    if e ≥ 2 || d.mgmt.thermTrip || !g.scanning || g.line ≥ g.vact then d else
    let (px, d) := match Tab.get? g.ahead g.line with
      | some px => (px, d)
      | none =>
        let (px, d) := d.composeLine e g.line late
        (px, if late then d.modEngine e (fun g => { g with underrun := satAdd 16 g.underrun 1 }) else d)
    let d := (d.send (.line e g.line px)).modEngine e (fun g => { g with line := g.line + 1, ahead := Tab.del g.ahead g.line })
    d.refreshEnd e)

/-- STRONGROOM_CHECK (R453). A rectangle that shows FAIL does not pass the output check. -/
def execStrongroomCheck (e : Nat) (contentErr outputErr : Bool) (s : State) : Host.Outcome State Fault Refusal :=
  s.on (fun d =>
    let g := d.engine e
    match g.strong, d.safety? with
    | some b, some p =>
      if e ≥ 2 || !g.running || g.checked || g.refresh = 0 then d else
      let d := d.modEngine e (fun g => { g with checked := true })
      if contentErr || (bitOf b.toNat 464 && (outputErr || g.failShown)) then
        (d.modEngine e (fun g => { g with strongFail := true })).violPart p 12
      else if bitOf b.toNat 465 then d.agentSignal (.composition e) p (sf b 479 466) false (BitVec.ofNat 64 g.refresh)
      else d
    | _, _ => d)

/-- TEARING_EFFECT (R455): an edge on TE_GPIO asks for a command-mode refresh. -/
def execTearingEffect (gpio : Nat) (s : State) : Host.Outcome State Fault Refusal :=
  s.on (fun d => [0, 1].foldl (fun (d : Dev) e =>
    let g := d.engine e
    if g.running && !g.scanning && bitOf g.mode.toNat 254 && bitOf g.mode.toNat 248 && g.m 247 244 == gpio then
      d.modEngine e (fun g => { g with te := true }) else d) d)

/-- A data-plane reset begins (R446): layers that do not survive it show FILL until a commit replaces them. -/
def Dev.composeReset (d : Dev) : Dev :=
  { d with engines := Tab.mapv d.engines (fun g => { g with layers := Tab.mapv g.layers (fun l =>
      if !l.survive || l.tile then { l with fillHold := true } else l) }) }

/-- Commands that wait for a latch are discarded with their rings (07 R281). -/
def Dev.composeDiscard (d : Dev) : Dev :=
  { d with engines := Tab.mapv d.engines (fun g => { g with commits := [], coefPend := [], strongPend := [] }) }

/-! ### Display messages (14 R481, R482) -/

/-- The link load and limits of Table 13-12. -/
def modeBad (m : Nat) : Bool :=
  let w := fun hi lo => fld m hi lo
  let inR := fun (x lo hi : Nat) => decide (lo ≤ x) && decide (x ≤ hi)
  let h := w 187 176 + w 175 164 + w 163 152 + w 151 140
  let v := w 139 128 + w 127 116 + w 115 104 + w 103 92
  let pclk := w 230 212
  let lanes := 2 ^ w 250 249
  w 91 0 != 0 || w 253 252 == 3 || w 250 249 == 3 || !inR (w 243 231) 80 4500 || !inR pclk 25000 300000 ||
  !inR (w 187 176) 320 3840 || w 187 176 % 2 != 0 || !inR (w 139 128) 240 2400 ||
  !inR (w 175 164) 4 4095 || !inR (w 163 152) 4 4095 || !inR (w 151 140) 4 4095 || !inR (w 127 116) 1 4095 ||
  !inR (w 115 104) 2 4095 || !inR (w 103 92) 2 4095 ||
  decide (pclk * 1000 < 24 * (h * v)) || decide (120 * (h * v) < pclk * 1000) ||
  decide (10 * pclk * (if bitOf m 251 then 30 else 24) > 9 * lanes * w 243 231 * 1000)

/-- DISPLAY_MODE: EN = 0 stops the engine at the end of the refresh; EN = 1 locks the display PLL and starts the output. -/
def execDisplayMode (f : Nat) (s : State) : Host.Outcome State Fault Refusal :=
  s.on (fun d =>
    let on := fun (r : MbxReq) => bitOf (r.p 8 32) 255
    d.onMsg f 0x0401 d.isReady true (fun _ => 40) [(0, 1), (8, 32)]
      (fun r => decide (r.p 0 1 < 2) && d.plan.dsi.getLsbD (r.p 0 1) && (!on r || !modeBad (r.p 8 32)))
      (fun r => on r && ((d.engine (r.p 0 1)).running || (d.engine (r.p 0 1)).starting))
      (fun d k r =>
        let e := r.p 0 1
        let g := d.engine e
        if on r then (d.acceptReq k 0).modEngine e (fun g => { g with mode := BitVec.ofNat 256 (r.p 8 32), starting := true })
        else if g.running && g.scanning then (d.acceptReq k 0).modEngine e (fun g => { g with stopping := true })
        else (d.stopOutput e).reply k 0 0 []))

/-- DISPLAY_PLL_LOCK (R481): the display PLL locks and output starts. -/
def execDisplayPllLock (e : Nat) (s : State) : Host.Outcome State Fault Refusal :=
  s.on (fun d =>
    if e ≥ 2 || !(d.engine e).starting then d else
    let d := d.modMgmt (fun m => { m with clk := { m.clk with locks := setBit m.clk.locks (4 + e) true,
                                                              lost := setBit m.clk.lost (4 + e) false } })
    let d := d.modEngine e (fun g => { g with starting := false, running := true, scanning := false })
    d.replyAll 0x0401 (fun r => r.p 0 1 == e) [] 4)

/-- DISPLAY_LAYER (14 Table 14-8): at the next latch, or at once while the output is stopped. -/
def execDisplayLayer (f : Nat) (s : State) : Host.Outcome State Fault Refusal :=
  s.on (fun d => d.onMsg f 0x0402 d.isReady true (fun _ => 3) [(0, 3)]
    (fun r => decide (r.p 0 1 < 2) && decide (r.p 1 1 ≤ 6) && (decide (r.p 2 1 < 16) || r.p 2 1 == 0xFF))
    (fun r => r.p 2 1 != 0xFF && !(d.part (r.p 2 1)).cfg.valid)
    (fun d k r =>
      let d := d.acceptReq k 0
      if (d.engine (r.p 0 1)).running then d else d.layerBinds (r.p 0 1) 1))

/-- DISPLAY_DCS (R482): the packet goes out between refreshes, or at once while the engine is stopped. -/
def execDisplayDcs (f : Nat) (s : State) : Host.Outcome State Fault Refusal :=
  s.on (fun d => d.onMsg f 0x0403 d.isReady true (fun r => 8 + r.p 3 1) [(0, 5), (8, 200)]
    (fun r => decide (r.p 0 1 < 2) && decide (r.p 1 1 < 2) && decide (r.p 3 1 ≤ 200) && decide (r.p 4 1 ≤ 200) &&
      (List.range 200).all (fun i => decide (i < r.p 3 1) || r.p (8 + i) 1 == 0))
    (fun _ => false)
    (fun d k r => if (d.engine (r.p 0 1)).scanning then d.acceptReq k 1 else d.dcsSend k r))

/-- The DISPLAY_DCS of engine `e` that waits for its panel. -/
def Dev.dcsReader (d : Dev) (e : Nat) : Option Nat :=
  d.mgmt.reqs.findIdx? (fun r => r.msg == 0x0403 && r.accepted && r.phase == 2 && r.p 0 1 == e)

/-- PANEL_REPLY (R482): the read data, or an error report. -/
def execPanelReply (e : Nat) (r : PanelReply) (s : State) : Host.Outcome State Fault Refusal :=
  s.on (fun d =>
    match d.dcsReader e with
    | none => d
    | some k =>
      let n := ((d.mgmt.reqs[k]?).map (fun q => q.p 4 1)).getD 0
      match r with
      | .data bs => if bs.length ≥ n then d.reply k 0 0 (bs.take n) else d
      | .ack => if n = 0 then d.reply k 0 0 [] else d
      | .error x => d.reply k 0x0C (x % 256) [])

/-- PANEL_TIMEOUT (R482): 10 ms without an answer. -/
def execPanelTimeout (e : Nat) (s : State) : Host.Outcome State Fault Refusal :=
  s.on (fun d => match d.dcsReader e with
    | some k => d.reply k 0x06 0 []
    | none => d)

end Sys2Proof.Machine
end

