-- ==== Sys2Proof/Machine/MxFormats.lean ====
section
/-! DEFINITION. The matrix number formats, their conversions, and the chunked sum of the engine (03 R105-R126). -/

namespace Sys2Proof.Machine

/-! ### Formats (03 Tables 3-2, 3-3) -/

/-- The exponent and fraction widths of a floating-point format code; the others are integers. -/
def mxFloat (f : Nat) : Option FFmt :=
  match f with
  | 0x2 => some { ebits := 4, mbits := 3 }
  | 0x3 => some { ebits := 5, mbits := 2 }
  | 0x4 => some { ebits := 3, mbits := 2 }
  | 0x5 => some { ebits := 2, mbits := 3 }
  | 0x6 => some { ebits := 2, mbits := 1 }
  | 0xA => some fmtBF16
  | 0xB => some fmtF16
  | 0xC => some fmtF32
  | _ => none

/-- A format with infinities and NaNs as IEEE 754 has them. -/
def mxIeee (f : Nat) : Bool := f == 0x3 || f == 0xA || f == 0xB || f == 0xC

/-- The width and sign of an integer format (03 Table 3-3). -/
def mxInt (f : Nat) : Nat × Bool :=
  match f with
  | 0x0 => (8, true)
  | 0x1 => (8, false)
  | 0x7 => (4, true)
  | 0x8 => (4, false)
  | 0x9 => (2, true)
  | 0xF => (8, true)
  | _ => (32, true)

/-- The value of an element. -/
def mxDecode (f x : Nat) : FVal :=
  match mxFloat f with
  | some m =>
    if mxIeee f then m.decode x
    else if f = 0x2 && x % 128 = 0x7F then .nan
    else
      let neg := x / m.signBit % 2 == 1
      let mag := x % m.signBit
      let ex := mag / 2 ^ m.mbits
      let fr := mag % 2 ^ m.mbits
      if ex = 0 then .fin neg fr m.qmin else .fin neg (2 ^ m.mbits + fr) (m.qmin + ex - 1)
  | none =>
    let (w, s) := mxInt f
    let n : Int := if s then sext w x else (x % 2 ^ w : Nat)
    if f = 0xF then .fin (decide (n < 0)) n.natAbs (-6) else FVal.ofInt n

/-- A block scale (03 R110, R111). -/
def mxScale (e : Nat) : FVal := if e % 256 = 255 then .nan else .fin false 1 (((e % 256 : Nat) : Int) - 127)

/-! ### Conversions (03 R124-R126) -/

/-- The greatest finite encoding of a floating-point format. -/
def mxMax (f : Nat) (m : FFmt) : Nat :=
  if mxIeee f then m.infBits - 1 else if f = 0x2 then 0x7E else m.signBit - 1

/-- A value converted to a format, rounding to nearest even or toward zero; and whether R126 counts it. -/
def mxConvert (f : Nat) (rz sat : Bool) (v : FVal) : Nat × Bool :=
  let rm := b2n rz
  match mxFloat f with
  | some m =>
    let top := mxMax f m
    let sg := fun (neg : Bool) => if neg then m.signBit else 0
    match v with
    | .nan => (if mxIeee f then m.qnan else if f = 0x2 then 0x7F else 0, true)
    | .inf neg =>
      (if mxIeee f then sg neg + (if sat then top else m.infBits)
       else if f = 0x2 then (if sat then sg neg + top else 0x7F) else sg neg + top, true)
    | .fin neg n e =>
      if n = 0 then (sg neg, false) else
      let q := max (e + n.log2 - m.mbits) m.qmin
      let bits := ((q - m.qmin).toNat) * 2 ^ m.mbits + roundAt rm neg n e q
      if bits ≤ top then (sg neg + bits, false)
      else (if sat || rz then sg neg + top
            else if mxIeee f then sg neg + m.infBits
            else if f = 0x2 then 0x7F else sg neg + top, true)
  | none =>
    let (w, s) := mxInt f
    let hi : Int := if s then (2 ^ (w - 1) : Nat) - 1 else (2 ^ w : Nat) - 1
    let lo : Int := if f = 0xF then -127 else if s then -(2 ^ (w - 1) : Nat) else 0
    match v with
    | .nan => (0, true)
    | .inf neg => (toBits w (if neg then lo else hi), true)
    | .fin neg n e =>
      let k := roundInt rm neg n (if f = 0xF then e + 6 else e)
      (toBits w (max lo (min hi k)), decide (k > hi) || decide (k < lo))

/-- emax of a block format (03 Table 3-11). -/
def mxEmax (f : Nat) : Int :=
  match f with
  | 0x2 => 8
  | 0x3 => 15
  | 0x4 => 4
  | 0x5 => 2
  | 0x6 => 2
  | 0x0 => 6
  | 0x1 => 7
  | 0x7 => 2
  | 0x8 => 3
  | _ => 0

/-- floor(log2 |v|) of a finite non-zero value. -/
def FVal.ilog (v : FVal) : Option Int :=
  match v with
  | .fin _ m e => if m = 0 then none else some (e + m.log2)
  | _ => none

def FVal.finite : FVal → Bool
  | .fin .. => true
  | _ => false

/-- A value times `2^k`. -/
def FVal.scale (v : FVal) (k : Int) : FVal :=
  match v with
  | .fin n m e => .fin n m (e + k)
  | v => v

/-- quantise_block of R125: the scale byte, the elements, and whether R126 counts one. -/
def mxQuantise (f : Nat) (rz : Bool) (vs : List FVal) : Nat × List Nat × Bool :=
  if vs.any (fun v => !v.finite) then (0xFF, vs.map (fun _ => 0), true) else
  match (vs.filterMap FVal.ilog).max? with
  | none => (0x7F, vs.map (fun _ => 0), false)
  | some m =>
    let x := min (max (m - mxEmax f) (-127)) 127
    let es := vs.map (fun v => mxConvert f rz true (v.scale (-x)))
    ((x + 127).toNat, es.map (·.1), es.any (·.2))

/-- A list cut into blocks of `b`. -/
def blocksOf {α : Type} (b : Nat) : Nat → List α → List (List α)
  | 0, _ => []
  | n + 1, l => if l.isEmpty then [] else l.take b :: blocksOf b n (l.drop b)

/-- A row converted: its elements, its scale bytes (where `scl`), and whether R126 counts it. -/
def mxRow (f : Nat) (rz sat scl blk : Bool) (vs : List FVal) : List Nat × List Nat × Bool :=
  if scl then
    let bs := (blocksOf (if blk then 16 else 32) vs.length vs).map (mxQuantise f rz)
    (bs.flatMap (fun b => b.2.1), bs.map (·.1), bs.any (fun b => b.2.2))
  else
    let es := vs.map (mxConvert f rz sat)
    (es.map (·.1), [], es.any (·.2))

/-- Elements of `w` bits packed from bit 0 (03 R108). -/
def packElems (w : Nat) : List Nat → Nat
  | [] => 0
  | x :: r => x % 2 ^ w + 2 ^ w * packElems w r

/-- Element `j` of a packed row. -/
def elemOf (w row j : Nat) : Nat := row / 2 ^ (w * j) % 2 ^ w

/-! ### The sum (03 R115, R116) -/

/-- floor(t / 2^k) of a finite term. -/
def FVal.floorAt (v : FVal) (k : Int) : Int :=
  match v with
  | .fin n m e =>
    let x : Int := if n then -(m : Int) else m
    if e ≥ k then x * (2 ^ (e - k).toNat : Nat) else x / (2 ^ (k - e).toNat : Nat)
  | _ => 0

def FVal.isZero : FVal → Bool
  | .fin _ m _ => m == 0
  | _ => false

/-- add_chunk: an FP32 accumulator with the chunk's products added. -/
def addChunk (acc : Nat) (terms : List FVal) : Nat :=
  let t := fmtF32.decode acc :: terms
  if t.contains .nan || (t.contains (.inf false) && t.contains (.inf true)) then 0x7FC00000
  else if t.contains (.inf false) then fmtF32.infBits
  else if t.contains (.inf true) then fmtF32.infBits + fmtF32.signBit
  else if terms.all FVal.isZero then acc
  else
    match (t.filterMap FVal.ilog).max? with
    | none => acc
    | some e =>
      let q := (t.map (fun v => v.floorAt (e - 30))).sum
      if q = 0 then 0 else fmtF32.encode 0 false (.fin (decide (q < 0)) q.natAbs (e - 30))

/-- The chunks in the order taken: those of `order` that exist, each once, then the others. -/
def chunkOrderOf (n : Nat) (order : List Nat) : List Nat :=
  let l := (order.filter (fun c => decide (c < n))).eraseDups
  l ++ (List.range n).filter (fun c => !(l.contains c))

/-- Both operand formats, with scaling, are a pair of Table 3-5; answers whether it accumulates in INT32. -/
def mxPair (fa fb : Nat) (scl : Bool) : Option Bool :=
  let two := fun (l : List Nat) => l.contains fa && l.contains fb
  if two [0x0, 0x1] || two [0x7, 0x8] || two [0x9] then some (!scl)
  else if two [0x2, 0x3, 0x4, 0x5, 0xF] || two [0x6] then some false
  else if (two [0xA] || two [0xB]) && !scl then some false
  else none

end Sys2Proof.Machine
end

