-- ==== Sys2Proof/Machine/Matrix.lean ====
section
/-! DEFINITION. The matrix instructions and the engine's two pipes (03 R99-R138). -/

namespace Sys2Proof.Machine

def MxSlot.empty : MxSlot := { group := none, frags := [], acc := [], accInt := [] }
def Frag.empty : Frag := { rows := [], scales := [], tag := none }

def Dev.mxSlot (d : Dev) (ci n : Nat) : MxSlot := Tab.get (d.core ci).slots n MxSlot.empty

def Dev.modSlot (d : Dev) (ci n : Nat) (f : MxSlot → MxSlot) : Dev :=
  d.modCore ci (fun c => { c with slots := Tab.mod c.slots n f })

def MxSlot.frag (s : MxSlot) (k : Nat) : Frag := Tab.get s.frags k Frag.empty

/-- Row `r` of fragment `k` as a number, and its scale byte `b`. -/
def MxSlot.row (s : MxSlot) (k r : Nat) : Nat := (Tab.get (s.frag k).rows r 0).toNat
def MxSlot.scale (s : MxSlot) (k r b : Nat) : Nat := elemOf 8 (Tab.get (s.frag k).scales r 0).toNat b

/-- Element (r, c) of an accumulator tile. -/
def MxSlot.accAt (s : MxSlot) (a r c : Nat) : Nat := (Tab.get (Tab.get s.acc a []) (r * 32 + c) 0).toNat

def MxSlot.setAcc (s : MxSlot) (a r c v : Nat) : MxSlot :=
  { s with acc := Tab.upd s.acc a [] (fun t => Tab.put t (r * 32 + c) (BitVec.ofNat 32 v)) }

/-! ### What an instruction reads and writes in its slot: fragments 0 to 3, accumulators 4 and 5 -/

def mxReads (w : BitVec 64) : List Nat :=
  let s := subOf w
  match opcOf w with
  | 0x71 => [if bitOf s 11 then fld s 10 9 else 4 + fld s 10 9]
  | 0x72 => [fld s 15 14, fld s 13 12, 4 + fld s 11 11]
  | _ => []

def mxWrites (w : BitVec 64) : List Nat :=
  let s := subOf w
  match opcOf w with
  | 0x70 => [fld s 7 6]
  | 0x72 => [4 + fld s 11 11]
  | 0x73 => [4 + fld s 15 15]
  | _ => []

/-- The tag that a fragment will hold once every instruction accepted so far has completed. -/
def Dev.tagAt (d : Dev) (ci slot k : Nat) : Option (Nat × Bool × Bool) :=
  let later := (d.core ci).mxAll.filter (fun m => m.slot == slot && opcOf m.word == 0x70 && fld (subOf m.word) 7 6 == k)
  match later.map (·.seq) |>.max? with
  | none => ((d.mxSlot ci slot).frag k).tag
  | some n =>
    match later.find? (fun m => m.seq == n) with
    | none => none
    | some m => some (fld (subOf m.word) 15 12, bitOf (subOf m.word) 4, bitOf (subOf m.word) 5)

/-! ### Sizes (03 Table 3-4, R128, R129) -/

/-- Bytes of a lane's source row of MLD. -/
def mldBytes (sub : Nat) : Nat := mxK (fld sub 15 12) * mxBits (fld sub 11 8) / 8

/-- Scale bytes that MLD reads. -/
def mldScaleBytes (sub : Nat) : Nat :=
  if bitOf sub 5 && fld sub 11 8 == fld sub 15 12 then mxScaleBytes (fld sub 15 12) (bitOf sub 4) else 0

/-- Elements of a lane's row that MST stores. -/
def mstElems (sub : Nat) (tag : Option (Nat × Bool × Bool)) : Nat :=
  if bitOf sub 11 then mxK (match tag with | some t => t.1 | none => fld sub 15 12) else 32

/-- MST copies a fragment raw. -/
def mstRaw (sub : Nat) (tag : Option (Nat × Bool × Bool)) : Bool :=
  bitOf sub 11 && (match tag with | some t => t.1 == fld sub 15 12 | none => true)

def mstBytes (sub : Nat) (tag : Option (Nat × Bool × Bool)) : Nat := mstElems sub tag * mxBits (fld sub 15 12) / 8

/-- Scale bytes that MST stores: a raw copy's by the block size of its load. -/
def mstScaleBytes (sub : Nat) (tag : Option (Nat × Bool × Bool)) : Nat :=
  if !bitOf sub 8 then 0 else
  let blk := if mstRaw sub tag then (match tag with | some t => t.2.1 | none => bitOf sub 7) else bitOf sub 7
  mstElems sub tag / (if blk then 16 else 32)

/-! ### Rows in memory -/

/-- The alignment of a row (03 R134): the largest power of two, at most 16, that divides its size. -/
def rowAlign (n : Nat) : Nat := max 1 (Nat.gcd n 16)

/-- The places of a row's bytes, with every check of an access; or the job fault of the first that fails. -/
def Dev.rowPieces (d : Dev) (ci : Nat) (st : Strand) (k : Acc) (e : Nat × Nat) (dva n : Nat) :
    Except Unit (List (Place × Nat × Nat)) × Dev :=
  (piecesOf dva n).foldl (fun (r : Except Unit (List (Place × Nat × Nat)) × Dev) p =>
    match r with
    | (.error u, d) => (.error u, d)
    | (.ok l, d) =>
      match d.places ci st p.2 [{ lane := e.1, slot := e.2, dva := p.1 % 2 ^ 48, kind := .load }] k with
      | (.error u, d) => (.error u, d)
      | (.ok x, d) => (.ok (l ++ x.map (fun y => (y.2, p.2, p.1 % 2 ^ 48))), d)) (.ok [], d)

/-- Every active lane's row from the address pair named by `code`. -/
def Dev.laneRows (d : Dev) (ci : Nat) (st : Strand) (k : Acc) (act : List (Nat × Nat)) (code n : Nat) :
    Except Unit (Tab MxRow) × Dev :=
  act.foldl (fun (r : Except Unit (Tab MxRow) × Dev) e =>
    match r with
    | (.error u, d) => (.error u, d)
    | (.ok t, d) =>
      match d.rowPieces ci st k e (d.readP ci e.2 e.1 code % 2 ^ 48) n with
      | (.error u, d) => (.error u, d)
      | (.ok ps, d) => (.ok (t ++ [(e.1, .memory ps)]), d)) (.ok [], d)

/-- The lowest lane with a misaligned row or scale row. -/
def Dev.rowMisaligned (d : Dev) (ci : Nat) (w : BitVec 64) (act : List (Nat × Nat)) (n m : Nat) : Option Nat :=
  act.findSome? (fun e =>
    let a := d.readP ci e.2 e.1 (srcaOf w) % 2 ^ 48
    let b := d.readP ci e.2 e.1 (srcbOf w) % 2 ^ 48
    if a % rowAlign n != 0 then some a else if m != 0 && b % m != 0 then some b else none)

/-- A matrix instruction is accepted into the queue and the strand goes on. -/
def Dev.mxAccept (d : Dev) (i : Issue) (st : Strand) (act : List (Nat × Nat)) (rows scales : Tab MxRow) : Dev :=
  let g := st.slots.headD 0
  let c := d.core i.core
  let m : MxInsn :=
    { seq := c.nextOp, word := i.word, slot := (d.group i.core g).slot.getD 0, group := g, mask := maskOf 32 (act.map (·.1)),
      pc := st.pc, rows := rows, scales := scales }
  (d.setCore i.core { c with mxQueue := c.mxQueue ++ [m], nextOp := c.nextOp + 1 }).advance i.core i.strand

/-- A matrix instruction at issue: outside a region it raises REGION_VIOLATION (02 R73); with 8 instructions queued it
waits (03 R138); its memory rows are checked; then it is accepted. -/
def Dev.mxIssue (d0 d : Dev) (i : Issue) (st : Strand) (act : List (Nat × Nat)) (k : Acc) (n m : Nat) : Dev :=
  if !d.inRegion i.core st then d.coreFault i.core st 0x05 0
  else if (d.core i.core).mxQueue.length ≥ 8 then d0
  else if !mxMemory i.word then d.mxAccept i st act [] []
  else
    match d.rowMisaligned i.core i.word act n m with
    | some a => d.coreFault i.core st 0x04 a
    | none =>
      match d.laneRows i.core st k act (srcaOf i.word) n with
      | (.error _, d) => d
      | (.ok rows, d) =>
        match d.laneRows i.core st k act (srcbOf i.word) m with
        | (.error _, d) => d
        | (.ok sc, d) => d.mxAccept i st act rows (if m = 0 then [] else sc)

/-- MLD (03 R128, R132, R134). From registers, the lanes' rows are taken at acceptance. -/
def execMld (i : Issue) (s : State) : Host.Outcome State Fault Refusal :=
  s.on (fun d0 => d0.issue i (isOpc 0x70) (fun d st act =>
    let sub := subOf i.word
    if !bitOf sub 3 then d.mxIssue d0 i st act .read (mldBytes sub) (mldScaleBytes sub)
    else if !d.inRegion i.core st then d.coreFault i.core st 0x05 0
    else if (d.core i.core).mxQueue.length ≥ 8 then d0
    else
      let row : Nat → Nat → Tab MxRow := fun code n =>
        act.map (fun e => (e.1, MxRow.value (d.readN i.core e.2 e.1 code (ceilDiv n 4) % 2 ^ (8 * n))))
      d.mxAccept i st act (row (srcaOf i.word) (mldBytes sub))
        (if bitOf sub 5 then row (srcbOf i.word) (mldScaleBytes sub) else [])))

/-- MST (03 R129, R132, R134). A converting fragment store to registers is no instruction; a raw copy's whole run of
registers must lie below REGS (R127). -/
def execMst (i : Issue) (s : State) : Host.Outcome State Fault Refusal :=
  s.on (fun d0 => d0.issue i (isOpc 0x71) (fun d st act =>
    let sub := subOf i.word
    if !d.inRegion i.core st then d.coreFault i.core st 0x05 0 else
    let tag := if bitOf sub 11 then d.tagAt i.core ((d.group i.core (st.slots.headD 0)).slot.getD 0) (fld sub 10 9) else none
    let n := mstBytes sub tag
    let m := mstScaleBytes sub tag
    if bitOf sub 6 && bitOf sub 11 && !mstRaw sub tag then d.coreFault i.core st 0x02 0
    else if bitOf sub 6 && decide (dstOf i.word + n / 4 + ceilDiv m 4 > d.strandRegs i.core st) then
      d.coreFault i.core st 0x03 0
    else d.mxIssue d0 i st act .write n m))

/-- MMA (03 R130). -/
def execMma (i : Issue) (s : State) : Host.Outcome State Fault Refusal :=
  s.on (fun d0 => d0.issue i (isOpc 0x72) (fun d st act => d.mxIssue d0 i st act .read 0 0))

/-- MZERO (03 R131). -/
def execMzero (i : Issue) (s : State) : Host.Outcome State Fault Refusal :=
  s.on (fun d0 => d0.issue i (isOpc 0x73) (fun d st act => d.mxIssue d0 i st act .read 0 0))

/-! ### The engine -/

def onMul (w : BitVec 64) : Bool := opcOf w == 0x72

/-- Earlier instructions of the slot that have not completed. -/
def Core.mxBefore (c : Core) (m : MxInsn) : List MxInsn :=
  c.mxAll.filter (fun a => a.slot == m.slot && decide (a.seq < m.seq))

/-- An earlier instruction still has to write what this one reads (03 R103). -/
def Core.mxRaw (c : Core) (m : MxInsn) : Bool :=
  (c.mxBefore m).any (fun a => (mxWrites a.word).any (fun x => (mxReads m.word).contains x))

/-- An earlier instruction still has to read or write what this one writes (03 R103). -/
def Core.mxWar (c : Core) (m : MxInsn) : Bool :=
  (c.mxBefore m).any (fun a => (mxReads a.word ++ mxWrites a.word).any (fun x => (mxWrites m.word).contains x))

/-- A job fault of an accepted instruction (03 R133). -/
def Dev.mxFault (d : Dev) (ci : Nat) (m : MxInsn) (code addr : Nat) : Dev :=
  let g := d.group ci m.group
  let l := d.launch g.launch
  (d.raise { code := code, unit := 0, index := ci, part := l.part, func := (d.part l.part).cfg.func, ctx := l.ctx,
             pc := m.pc, group := g.index, addr := addr }).modCore ci (fun c => { c with stopped := true })

/-- The instruction raises MX_OPERAND when it begins (03 R133, R113). -/
def Dev.mxBad (d : Dev) (ci : Nat) (m : MxInsn) : Bool :=
  let s := d.mxSlot ci m.slot
  let sub := subOf m.word
  match opcOf m.word with
  | 0x72 =>
    match (s.frag (fld sub 15 14)).tag, (s.frag (fld sub 13 12)).tag with
    | some (fa, ba, sa), some (fb, bb, sb) =>
      (match mxPair fa fb (bitOf sub 9) with
       | none => true
       | some int => !bitOf sub 10 && Tab.get s.accInt (fld sub 11 11) false != int) ||
      (bitOf sub 9 && (!sa || !sb || ba != bb))
    | _, _ => true
  | 0x71 =>
    if !bitOf sub 11 then false else
    match (s.frag (fld sub 10 9)).tag with
    | none => true
    | some t => bitOf sub 8 && mstRaw sub (some t) && !t.2.2
  | _ => false

/-- MX_PIPE_START (03 R136, R138): queued instruction `k` starts on its free pipe, in acceptance order on that pipe. -/
def execMxPipeStart (core k : Nat) (s : State) : Host.Outcome State Fault Refusal :=
  s.on (fun d =>
    let c := d.core core
    match c.mxQueue[k]? with
    | none => d
    | some m =>
      let mul := onMul m.word
      let free := if mul then c.mxMul.isNone else c.mxXfer.isNone
      if !d.running || c.stopped || !free || (c.mxQueue.take k).any (fun a => onMul a.word == mul) || c.mxRaw m then d
      else
        let d := d.setCore core { c with mxQueue := c.mxQueue.eraseIdx k }
        if d.mxBad core m then d.mxFault core m 0x07 0 else
        let d := if m.mask = BitVec.ofNat 32 (2 ^ 32 - 1) then d else d.countCore core 9 1
        if mul then (d.countCore core 8 1).modCore core (fun c => { c with mxMul := some m })
        else d.modCore core (fun c => { c with mxXfer := some m }))

/-! ### Effects -/

/-- A piece of a row read by the transfer pipe as a load of the core (03 R135). -/
def Dev.mxRead1 (d : Dev) (ci : Nat) (m : MxInsn) (p : Place × Nat × Nat) : Except AccFail (List Byte) × Dev :=
  let l := (d.group ci m.group).launch
  match p.1 with
  | .mem pa attr =>
    let rq := d.rqPart (d.launch l).part
    let line := pa / 128
    if d.hostRefuses rq.func line && !Tab.has (d.core ci).l1 line then (.error (.xlat 9 0 0 p.2.2), d) else
    let (x, q, d) := match Tab.get? (d.core ci).l1 line with
      | some y => (y.data, y.poison, d)
      | none => d.ncRead rq attr line
    match (onesOf q).find? (touchesGranule (spanMask (pa % 128) p.2.1)) with
    | some k => (.error (.poison (line * 128 + 8 * k)), d)
    | none => (.ok (lineBytes x (pa % 128) p.2.1), d)
  | q => (.ok (d.onchipRead ci l p.2.1 q), d)

def Dev.mxReadRow (d : Dev) (ci : Nat) (m : MxInsn) : MxRow → Except AccFail Nat × Dev
  | .value v => (.ok v, d)
  | .memory ps =>
    match ps.foldl (fun (r : Except AccFail (List Byte) × Dev) p =>
        match r with
        | (.error f, d) => (.error f, d)
        | (.ok bs, d) => match d.mxRead1 ci m p with
          | (.error f, d) => (.error f, d)
          | (.ok x, d) => (.ok (bs ++ x), d)) (.ok [], d) with
    | (.error f, d) => (.error f, d)
    | (.ok bs, d) => (.ok (leNat bs), d)

/-- The job fault of an access of the transfer pipe. -/
def Dev.mxAccFault (d : Dev) (ci : Nat) (m : MxInsn) (k : Acc) : AccFail → Dev
  | .xlat t lv ea dva =>
    let l := d.launch (d.group ci m.group).launch
    (d.recordFail (d.coreAgent ci l.part l.ctx) k t lv ea dva).mxFault ci m 0x09 dva
  | .poison pa => (let e := d.mxFault ci m 0x0A pa; { e with mem := { e.mem with errLog := pa } })

/-- A row written by the transfer pipe as a store of the core; one that must first fill a line that the host refuses has the job fault
of 05 R192. -/
def Dev.mxWriteRow (d : Dev) (ci : Nat) (m : MxInsn) (r : MxRow) (bs : List Byte) : Dev :=
  let l := (d.group ci m.group).launch
  match r with
  | .value _ => d
  | .memory ps =>
    (ps.foldl (fun (r : Dev × List Byte) p =>
      let x := r.2.take p.2.1
      (match p.1 with
       | .mem pa attr =>
         let rq := r.1.rqPart (r.1.launch l).part
         let mask := spanMask (pa % 128) p.2.1
         if r.1.hostRefuses rq.func (pa / 128) && r.1.writeFills rq attr (pa / 128) mask then
           (if (r.1.core ci).stopped then r.1 else r.1.mxAccFault ci m .write (.xlat 9 0 0 p.2.2))
         else r.1.ncWrite rq attr (pa / 128) mask (lineSet 0 (pa % 128) x) 0
       | q => r.1.onchipWrite ci l x q, r.2.drop p.2.1)) (d, bs)).1

def Dev.putRow (d : Dev) (ci slot k lane row : Nat) (scale : Option Nat) : Dev :=
  d.modSlot ci slot (fun s =>
    let f := s.frag k
    let f := { f with rows := Tab.put f.rows lane (BitVec.ofNat 512 row) }
    let f := match scale with
      | some x => { f with scales := Tab.put f.scales lane (BitVec.ofNat 128 x) }
      | none => f
    { s with frags := Tab.put s.frags k f })

/-- MLD's effect: each active lane's fragment row, then the tag (03 R123, R128). -/
def Dev.mldDo (d : Dev) (ci : Nat) (m : MxInsn) : Except AccFail Bool × Dev :=
  let sub := subOf m.word
  let f := fld sub 15 12
  let sf := fld sub 11 8
  let k := fld sub 7 6
  let r := m.rows.foldl (fun (r : Except AccFail Bool × Dev) e =>
    match r with
    | (.error x, d) => (.error x, d)
    | (.ok sat, d) =>
      match d.mxReadRow ci m e.2 with
      | (.error x, d) => (.error x, d)
      | (.ok row, d) =>
        if sf = f then
          match Tab.get? m.scales e.1 with
          | none => (.ok sat, d.putRow ci m.slot k e.1 row none)
          | some q => (match d.mxReadRow ci m q with
            | (.error x, d) => (.error x, d)
            | (.ok sc, d) => (.ok sat, d.putRow ci m.slot k e.1 row (some sc)))
        else
          let vs := (List.range (mxK f)).map (fun j => mxDecode sf (elemOf (mxBits sf) row j))
          let (es, sc, hit) := mxRow f (bitOf sub 1) (bitOf sub 2) (bitOf sub 5) (bitOf sub 4) vs
          (.ok (sat || hit), d.putRow ci m.slot k e.1 (packElems (mxBits f) es)
            (if bitOf sub 5 then some (packElems 8 sc) else none))) (.ok false, d)
  match r with
  | (.error x, d) => (.error x, d)
  | (.ok sat, d) => (.ok sat, d.modSlot ci m.slot (fun s =>
      { s with frags := Tab.put s.frags k { s.frag k with tag := some (f, bitOf sub 4, bitOf sub 5) } }))

/-- The values of a lane's row that MST stores (03 R124). -/
def MxSlot.mstValues (s : MxSlot) (sub lane : Nat) : List FVal :=
  if bitOf sub 11 then
    let k := fld sub 10 9
    match (s.frag k).tag with
    | none => []
    | some (f, blk, scl) => (List.range (mxK f)).map (fun j =>
        let v := mxDecode f (elemOf (mxBits f) (s.row k lane) j)
        if scl then v.mul (mxScale (s.scale k lane (j / (if blk then 16 else 32)))) else v)
  else
    let a := fld sub 10 9
    (List.range 32).map (fun c =>
      let x := s.accAt a lane c
      if Tab.get s.accInt a false then FVal.ofInt (sext 32 x) else fmtF32.decode x)

/-- What MST stores for a lane: the row and the scale row as numbers, and whether R126 counts it. -/
def MxSlot.mstRow (s : MxSlot) (sub lane : Nat) : Nat × Nat × Bool :=
  let k := fld sub 10 9
  let f := fld sub 15 12
  if mstRaw sub (s.frag k).tag then (s.row k lane, (Tab.get (s.frag k).scales lane 0).toNat, false)
  else
    let (es, sc, hit) := mxRow f (bitOf sub 4) (bitOf sub 5) (bitOf sub 8) (bitOf sub 7) (s.mstValues sub lane)
    (packElems (mxBits f) es, packElems 8 sc, hit)

/-- MST's effect (03 R129). -/
def Dev.mstDo (d : Dev) (ci : Nat) (m : MxInsn) : Bool × Dev :=
  let sub := subOf m.word
  let s := d.mxSlot ci m.slot
  let tag := if bitOf sub 11 then (s.frag (fld sub 10 9)).tag else none
  let n := mstBytes sub tag
  let sn := mstScaleBytes sub tag
  (onesOf m.mask).foldl (fun (r : Bool × Dev) lane =>
    let (row, sc, hit) := s.mstRow sub lane
    let d := r.2
    let d :=
      if bitOf sub 6 then
        (d.writeN ci m.group lane (dstOf m.word) row (n / 4)).writeN ci m.group lane (dstOf m.word + n / 4)
          (sc % 2 ^ (8 * sn)) (ceilDiv sn 4)
      else
        let d := d.mxWriteRow ci m (Tab.get m.rows lane (.memory [])) (toLe n row)
        if sn = 0 then d else d.mxWriteRow ci m (Tab.get m.scales lane (.memory [])) (toLe sn sc)
    (r.1 || hit, d)) (false, d)

/-- One element of an MMA (03 R104, R115, R116). -/
def mmaElem (s : MxSlot) (sub : Nat) (mask : Mask) (order : List Nat) (i j : Nat) : Nat :=
  let ka := fld sub 15 14
  let kb := fld sub 13 12
  match (s.frag ka).tag, (s.frag kb).tag with
  | some (fa, blk, _), some (fb, _, _) =>
    let a := fld sub 11 11
    let old := if bitOf sub 10 then 0 else s.accAt a i j
    let live := mask.getLsbD j
    let n := mxK fa
    let va := fun (k : Nat) => mxDecode fa (elemOf (mxBits fa) (s.row ka i) k)
    let vb := fun (k : Nat) => mxDecode fb (elemOf (mxBits fb) (s.row kb j) k)
    if mxPair fa fb (bitOf sub 9) = some true then
      let sum := ((List.range n).map (fun k => if live then (va k).floorAt 0 * (vb k).floorAt 0 else 0)).sum
      toBits 32 ((old : Int) + sum)
    else
      let b := if blk then 16 else 32
      let term := fun (k : Nat) =>
        if !live then FVal.fin false 0 0 else
        let p := (va k).mul (vb k)
        if bitOf sub 9 then (p.mul (mxScale (s.scale ka i (k / b)))).mul (mxScale (s.scale kb j (k / b))) else p
      (chunkOrderOf (n / 16) order).foldl (fun acc c => addChunk acc ((List.range 16).map (fun k => term (16 * c + k)))) old
  | _, _ => 0

/-- MMA's effect on the active rows of its accumulator. -/
def Dev.mmaDo (d : Dev) (ci : Nat) (m : MxInsn) (order : List Nat) : Dev :=
  let sub := subOf m.word
  let s := d.mxSlot ci m.slot
  let a := fld sub 11 11
  let int := match (s.frag (fld sub 15 14)).tag, (s.frag (fld sub 13 12)).tag with
    | some (fa, _, _), some (fb, _, _) => (mxPair fa fb (bitOf sub 9)).getD false
    | _, _ => false
  let s' := (onesOf m.mask).foldl (fun (t : MxSlot) i =>
    (List.range 32).foldl (fun (t : MxSlot) j => t.setAcc a i j (mmaElem s sub m.mask order i j)) t) s
  d.modSlot ci m.slot (fun _ => if bitOf sub 10 then { s' with accInt := Tab.put s'.accInt a int } else s')

/-- MZERO's effect (03 R131). -/
def Dev.mzeroDo (d : Dev) (ci : Nat) (m : MxInsn) : Dev :=
  let sub := subOf m.word
  let a := fld sub 15 15
  d.modSlot ci m.slot (fun s =>
    let s := (onesOf m.mask).foldl (fun (t : MxSlot) i =>
      (List.range 32).foldl (fun (t : MxSlot) j => t.setAcc a i j 0) t) s
    { s with accInt := Tab.put s.accInt a (bitOf sub 14) })

/-- A group leaves its region (03 R101): the slot is released with its contents. -/
def Dev.leaveRegion (d : Dev) (ci g : Nat) : Dev :=
  let n := (d.group ci g).slot
  let d := d.modGroup ci g (fun x => { x with inRegion := false, slot := none, stack := [] })
  match n with
  | none => d
  | some k => d.modCore ci (fun c => { c with slots := Tab.del c.slots k })

/-- Strands that wait in MXEND go on once no instruction of their group is left (03 R101). -/
def Dev.mxEnds (d : Dev) (ci : Nat) : Dev :=
  ((d.core ci).strands.map (·.1)).foldl (fun (d : Dev) sid =>
    match d.strand? ci sid with
    | none => d
    | some s =>
      let g := s.slots.headD 0
      if s.wait == .mxEnd && !((d.core ci).mxAll.any (fun m => m.group == g)) then
        (d.leaveRegion ci g).advance ci sid
      else d) d

/-- MX_INSTRUCTION_COMPLETE (03 R101, R103, R136): the instruction on the multiply or transfer pipe takes effect and
leaves it. Its memory accesses follow the group's earlier ones. -/
def execMxInstructionComplete (core : Nat) (mul : Bool) (chunkOrder : List Nat) (s : State) :
    Host.Outcome State Fault Refusal :=
  s.on (fun d =>
    let c := d.core core
    match (if mul then c.mxMul else c.mxXfer) with
    | none => d
    | some m =>
      if !d.running || c.stopped || c.mxWar m ||
          (mxMemory m.word && c.ops.any (fun e => e.2.group == m.group)) then d
      else
        let d := d.modCore core (fun c => if mul then { c with mxMul := none } else { c with mxXfer := none })
        let done := fun (sat : Bool) (d : Dev) => (if sat then d.countCore core 10 1 else d).mxEnds core
        match opcOf m.word with
        | 0x70 => (match d.mldDo core m with
          | (.ok sat, d) => done sat d
          | (.error x, d) => d.mxAccFault core m .read x)
        | 0x71 => (let (sat, d) := d.mstDo core m; done sat d)
        | 0x72 => done false (d.mmaDo core m chunkOrder)
        | _ => done false (d.mzeroDo core m))

end Sys2Proof.Machine
end

