-- ==== Sys2Proof/Machine/Messages.lean ====
section
/-! DEFINITION. Messages between cores and their credits (06 R211-R218). -/

namespace Sys2Proof.Machine

def Dev.chan (d : Dev) (ci ch : Nat) : Chan := Tab.get (d.core ci).chans ch Chan.empty

def Dev.setChan (d : Dev) (ci ch : Nat) (c : Chan) : Dev :=
  d.modCore ci (fun x => { x with chans := Tab.put x.chans ch c })

def Dev.pushGrid (d : Dev) (m : GridMsg) : Dev := { d with grid := d.grid ++ [m] }

def Dev.eraseGrid (d : Dev) (k : Nat) : Dev := { d with grid := d.grid.eraseIdx k }

/-- A core can be named by a SEND of partition `p` (06 R213). -/
def Dev.msgTargetOk (d : Dev) (p dest : Nat) : Bool :=
  dest < 1024 && d.plan.coreOk dest && (d.part p).held.getLsbD (clusterOf dest)

/-! ### Credits granted by a channel (06 R215) -/

/-- The free count U. -/
def Chan.u (c : Chan) : Nat := 64 - c.queue.length - (c.granted.map (·.2)).sum

/-- The next pending core after the one served last, cyclically. -/
def Chan.nextPending (c : Chan) : Option Nat :=
  match (c.pending.filter (fun x => decide (c.last < x))).min? with
  | some x => some x
  | none => c.pending.min?

def Chan.give (c : Chan) (src n : Nat) : Chan := { c with granted := Tab.upd c.granted src 0 (· + n) }

def Chan.take (c : Chan) (src n : Nat) : Chan :=
  let k := Tab.get c.granted src 0 - n
  { c with granted := if k = 0 then Tab.del c.granted src else Tab.put c.granted src k }

/-- While a bit is pending and U is 8 or more, the next pending core is granted 8 credits. -/
def Dev.servePending (d : Dev) (ci ch : Nat) : Nat → Dev
  | 0 => d
  | n + 1 =>
    let c := d.chan ci ch
    if c.u < 8 then d else
    match c.nextPending with
    | none => d
    | some src =>
      let c := { c.give src 8 with pending := c.pending.erase src, last := src }
      ((d.setChan ci ch c).pushGrid (.grant src ci ch 8)).servePending ci ch n

def Dev.serveChan (d : Dev) (ci ch : Nat) : Dev := d.servePending ci ch (d.chan ci ch).pending.length

/-! ### Injection at the sending core (06 R212, R214) -/

def Core.credit? (c : Core) (dest ch : Nat) : Option Credit := c.credits.find? (fun e => e.dest == dest && e.chan == ch)

def Core.putCredit (c : Core) (e : Credit) : Core :=
  { c with credits := c.credits.map (fun x => if x.dest = e.dest && x.chan = e.chan then e else x) }

/-- A lane without credit: a request is sent unless one is outstanding; a missing entry is allocated round-robin, and the
entry it replaces returns its credits. -/
def Dev.askCredit (d : Dev) (ci dest ch : Nat) : Dev :=
  let c := d.core ci
  match c.credit? dest ch with
  | some e =>
    if e.requested then d else
    (d.setCore ci (c.putCredit { e with requested := true })).pushGrid (.request ci dest ch)
  | none =>
    let e : Credit := { dest := dest, chan := ch, credits := 0, requested := true }
    let d :=
      if c.credits.length < 32 then d.setCore ci { c with credits := c.credits ++ [e] }
      else
        let i := c.creditRR % 32
        let d := match c.credits[i]? with
          | some o => if o.credits = 0 then d else d.pushGrid (.giveBack ci o.dest o.chan o.credits)
          | none => d
        d.setCore ci { c with credits := c.credits.set i e, creditRR := (c.creditRR + 1) % 32 }
    d.pushGrid (.request ci dest ch)

/-- The messages of a blocked SEND, in lane order: each lane's destination and payload; injected while credits last. -/
def Dev.inject (d : Dev) (ci ch : Nat) : List (Nat × Nat) → List (Nat × Nat) × Dev
  | [] => ([], d)
  | (lane, v) :: rest =>
    let dest := v % 1024
    let c := d.core ci
    match c.credit? dest ch with
    | some e =>
      if e.credits = 0 then ((lane, v) :: rest, d.askCredit ci dest ch) else
      let d := (d.setCore ci (c.putCredit { e with credits := e.credits - 1 })).pushGrid
        (.message ci dest ch (BitVec.ofNat 64 (v / 1024)))
      (d.countCluster (clusterOf ci) 13 1).inject ci ch rest
    | none => ((lane, v) :: rest, d.askCredit ci dest ch)

/-- A strand blocked in SEND injects what it can; it goes on when every lane's message has been injected. -/
def Dev.pumpSend (d : Dev) (ci sid : Nat) : Dev :=
  match d.strand? ci sid with
  | none => d
  | some s =>
    match s.wait with
    | .op w _ todo =>
      if opcOf w != 0x60 then d else
      let (rest, d) := d.inject ci (fld (subOf w) 15 13) todo
      if rest.isEmpty then d.advance ci sid
      else d.setStrand ci sid { s with wait := .op w (rest.map (·.1)) rest }
    | _ => d

def Dev.pumpSends (d : Dev) (ci : Nat) : Dev :=
  ((d.core ci).strands.map (·.1)).foldl (fun d sid => d.pumpSend ci sid) d

/-- A core returns every unused credit (06 R216). -/
def Dev.returnCredits (d : Dev) (ci : Nat) : Dev :=
  let c := d.core ci
  (c.credits.filter (fun e => e.credits != 0)).foldl (fun (d : Dev) e => d.pushGrid (.giveBack ci e.dest e.chan e.credits))
    (d.setCore ci { c with credits := [] })

/-- A core's channels are emptied; each discarded message counts to the partition that owned the core (06 R216). -/
def Dev.emptyChannels (d : Dev) (ci p : Nat) : Dev :=
  let n := ((d.core ci).chans.map (fun e => e.2.queue.length)).sum
  let d := (List.range n).foldl (fun (d : Dev) _ => d.violPart p 6) d
  d.modCore ci (fun c => { c with chans := Tab.mapv c.chans (fun x => { x with queue := [] }) })

/-! ### Receiving (06 R218) -/

/-- Messages taken for a blocked RECV's lanes, lowest first: payload, and the sender above it. -/
def Dev.takeMsgs (d : Dev) (ci ch : Nat) : List Nat → List (Nat × Nat) × List Nat × Dev
  | [] => ([], [], d)
  | lane :: rest =>
    let c := d.chan ci ch
    match c.queue with
    | [] => ([], lane :: rest, d)
    | m :: q =>
      let d := (d.setChan ci ch { c with queue := q }).serveChan ci ch
      let (done, left, d) := d.takeMsgs ci ch rest
      ((lane, m.payload.toNat + 2 ^ 64 * m.src) :: done, left, d)

/-- The strands blocked on a channel are served in issue order. -/
def Dev.pumpRecv (d : Dev) (ci ch : Nat) : Nat → Dev
  | 0 => d
  | n + 1 =>
    match (d.chan ci ch).recv with
    | [] => d
    | sid :: more =>
      match d.strand? ci sid with
      | none => (d.setChan ci ch { d.chan ci ch with recv := more }).pumpRecv ci ch n
      | some s =>
        match s.wait with
        | .op w left done =>
          let (got, rest, d) := d.takeMsgs ci ch left
          let done := done ++ got
          if rest.isEmpty then
            ((d.setChan ci ch { d.chan ci ch with recv := more }).finishOp ci sid s w done).pumpRecv ci ch n
          else d.setStrand ci sid { s with wait := .op w rest done }
        | _ => (d.setChan ci ch { d.chan ci ch with recv := more }).pumpRecv ci ch n

def Dev.serveRecv (d : Dev) (ci ch : Nat) : Dev := d.pumpRecv ci ch ((d.chan ci ch).recv.length + 1)

/-! ### The commands -/

/-- SEND (06 R212, R213). -/
def execSend (i : Issue) (s : State) : Host.Outcome State Fault Refusal :=
  runIssue i 0x60 (fun i d st act =>
    let w := i.word
    let n := if bitOf (subOf w) 12 then 2 else 1
    let dest := fun (e : Nat × Nat) => d.readW i.core e.2 e.1 (srcaOf w)
    match act.find? (fun e => !d.msgTargetOk (d.strandPart i.core st) (dest e)) with
    | some e => d.coreFault i.core (st.one e) 0x0B 0
    | none =>
      let todo := act.map (fun e => (e.1, dest e + 1024 * d.rdVal i.core e.2 e.1 (srcbOf w) n))
      (d.setStrand i.core i.strand { st with wait := .op w (todo.map (·.1)) todo }).pumpSend i.core i.strand) s

/-- CREDIT_REQUEST (06 R215). -/
def execCreditRequest (k : Nat) (s : State) : Host.Outcome State Fault Refusal :=
  s.on (fun d =>
    match d.grid[k]? with
    | some (.request src dest ch) =>
      let d := d.eraseGrid k
      let c := d.chan dest ch
      if c.u ≥ 1 && c.pending.isEmpty then
        (d.setChan dest ch (c.give src (min 8 c.u))).pushGrid (.grant src dest ch (min 8 c.u))
      else (d.setChan dest ch { c with pending := if c.pending.contains src then c.pending else c.pending ++ [src] }).serveChan
        dest ch
    | _ => d)

/-- CREDIT_GRANT (06 R214): the credits reach the sender's cache, or go back where the entry has been replaced. -/
def execCreditGrant (k : Nat) (s : State) : Host.Outcome State Fault Refusal :=
  s.on (fun d =>
    match d.grid[k]? with
    | some (.grant src dest ch n) =>
      let d := d.eraseGrid k
      (match (d.core src).credit? dest ch with
       | some e => (d.modCore src (fun c => c.putCredit { e with credits := e.credits + n, requested := false })).pumpSends src
       | none => d.pushGrid (.giveBack src dest ch n))
    | _ => d)

/-- CREDIT_RETURN (06 R215). -/
def execCreditReturn (k : Nat) (s : State) : Host.Outcome State Fault Refusal :=
  s.on (fun d =>
    match d.grid[k]? with
    | some (.giveBack src dest ch n) => ((d.eraseGrid k).setChan dest ch ((d.chan dest ch).take src n)).serveChan dest ch
    | _ => d)

/-- MESSAGE_ARRIVAL (06 R217): of the messages of one sender to one channel the oldest arrives first. -/
def execMessageArrival (k : Nat) (s : State) : Host.Outcome State Fault Refusal :=
  s.on (fun d =>
    match d.grid[k]? with
    | some (.message src dest ch v) =>
      let older := (d.grid.take k).any (fun m => match m with
        | .message a b c _ => a == src && b == dest && c == ch
        | _ => false)
      if older then d else
      let d := d.eraseGrid k
      let c := (d.chan dest ch).take src 1
      (d.setChan dest ch { c with queue := c.queue ++ [{ payload := v, src := src }] }).serveRecv dest ch
    | _ => d)

/-- RECV (06 R218). -/
def execRecv (i : Issue) (s : State) : Host.Outcome State Fault Refusal :=
  runIssue i 0x61 (fun i d st act =>
    let w := i.word
    let sub := subOf w
    let ch := fld sub 15 13
    let lanes := act.map (·.1)
    if bitOf sub 11 then
      let (got, _, d) := if (d.chan i.core ch).recv.isEmpty then d.takeMsgs i.core ch lanes else ([], lanes, d)
      let d := if fld sub 10 8 = 7 then d else
        d.writeLanes i.core act (0xC0 + fld sub 10 8) 1 (fun l _ => b2n (got.any (fun x => x.1 == l)))
      d.finishOp i.core i.strand st w got
    else if lanes.isEmpty then d.advance i.core i.strand
    else
      let c := d.chan i.core ch
      ((d.setStrand i.core i.strand { st with wait := .op w lanes [] }).setChan i.core ch
        { c with recv := c.recv ++ [i.strand] }).serveRecv i.core ch) s

end Sys2Proof.Machine
end

