-- ==== Sys2Proof/Machine/Control.lean ====
section
/-! DEFINITION. Control flow, merging, matrix regions and the end of groups (02 R58-R73, R97, R100-R102; 06 R216;
11 R399, R400). -/

namespace Sys2Proof.Machine

/-! ### Lanes -/

/-- The lanes of `t` named by a mask. -/
def lanesIn (t : Tab Nat) (m : Mask) : Tab Nat := t.filter (fun e => m.getLsbD e.1)

def laneMask (t : Tab Nat) : Mask := maskOf 32 (t.map (·.1))

/-- The lanes of a mask in group slot `g`. -/
def lanesOfMask (m : Mask) (g : Nat) : Tab Nat := (onesOf m).map (fun l => (l, g))

/-- A strand in a matrix region takes a new active mask. -/
def Strand.withMask (s : Strand) (g : Nat) (m : Mask) : Strand := { s with lanes := lanesOfMask m g }

/-! ### Branches (02 R60, R70) -/

/-- The lanes of `t` that go to `pc`, by each lane's next address. -/
def goingTo (t : Tab Nat) (next : Nat × Nat → Nat) (pc : Nat) : Tab Nat := t.filter (fun e => next e == pc)

/-- The lanes of a strand take their next addresses. Lanes that differ split outside a matrix region; inside, those that
do not follow the lowest lane are deferred on the divergence stack with join tag `tag`, to resume at the other path's
address, or, with `redo`, at this instruction. -/
def Dev.branch (d : Dev) (i : Issue) (st : Strand) (tag : Nat) (redo : Bool) (next : Nat × Nat → Nat) : Dev :=
  let pcs := (st.lanes.map next).eraseDups
  match pcs with
  | [] => d.advance i.core i.strand
  | [p] => d.goto i.core i.strand p
  | p :: rest =>
    let keep := goingTo st.lanes next p
    if d.inRegion i.core st then
      let g := st.slots.headD 0
      let deferred := laneMask st.lanes &&& ~~~ laneMask keep
      let e : DivEntry := { tag := tag, resumePc := if redo then st.pc else rest.headD 0, resumeMask := deferred,
                            parked := 0, joinPc := none, running := false }
      let d := d.modGroup i.core g (fun x => { x with stack := e :: x.stack })
      (d.setStrand i.core i.strand { st with lanes := keep }).goto i.core i.strand p
    else
      let others : List (Tab Nat × Nat × Wait) := rest.map (fun q => (goingTo st.lanes next q, q, Wait.ready))
      ((d.split i.core i.strand keep p .ready others).countCore i.core 5 others.length).retire i.core st

/-- The target of BRA or CALL: IMM32 instruction words from the next instruction (02 Table 2-5). -/
def relTarget (st : Strand) (w : BitVec 64) : Nat := toBits 48 ((st.pc : Int) + 8 + 8 * sext 32 (imm32Of w))

/-- The target of BRX or RET for a lane: bits [47:3] of the pair that SRCA names. -/
def Dev.pairTarget (d : Dev) (ci : Nat) (w : BitVec 64) (e : Nat × Nat) : Nat :=
  alignDown (d.readP ci e.2 e.1 (srcaOf w) % 2 ^ 48) 8

/-- Where the lanes that pass the guard go, and the others on to the next instruction. -/
def nextPc (st : Strand) (act : List (Nat × Nat)) (target : Nat × Nat → Nat) (e : Nat × Nat) : Nat :=
  if act.contains e then target e else (st.pc + 8) % 2 ^ 48

/-- BRA (02 R60). -/
def execBra (i : Issue) (s : State) : Host.Outcome State Fault Refusal :=
  s.on (fun d => d.issue i (isOpc 0x40) (fun d st act =>
    d.branch i st (srcaOf i.word) false (nextPc st act (fun _ => relTarget st i.word))))

/-- BRX (02 R60). -/
def execBrx (i : Issue) (s : State) : Host.Outcome State Fault Refusal :=
  s.on (fun d => d.issue i (isOpc 0x41) (fun d st act =>
    d.branch i st (srccOf i.word) true (nextPc st act (d.pairTarget i.core i.word))))

/-- CALL (02 R60): the lanes that branch write the address of the next instruction. -/
def execCall (i : Issue) (s : State) : Host.Outcome State Fault Refusal :=
  s.on (fun d => d.issue i (isOpc 0x42) (fun d st act =>
    (d.writeLanes i.core act (dstOf i.word) 2 (fun _ _ => (st.pc + 8) % 2 ^ 48)).branch i st (srcaOf i.word) false
      (nextPc st act (fun _ => relTarget st i.word))))

/-- RET (02 R60). -/
def execRet (i : Issue) (s : State) : Host.Outcome State Fault Refusal :=
  s.on (fun d => d.issue i (isOpc 0x43) (fun d st act =>
    d.branch i st (srccOf i.word) true (nextPc st act (d.pairTarget i.core i.word))))

/-! ### JOIN (02 R63, R70) -/

/-- The entries of a divergence stack that a join with `tag` pops, and the active mask with their parked lanes. -/
def joinPop (tag : Nat) : List DivEntry → Mask → List DivEntry × Mask
  | [], m => ([], m)
  | e :: r, m => if e.tag = tag && e.running then joinPop tag r (m ||| e.parked) else (e :: r, m)

/-- JOIN inside a matrix region. -/
def Dev.joinRegion (d : Dev) (i : Issue) (st : Strand) : Dev :=
  let g := st.slots.headD 0
  let tag := srcaOf i.word
  match (d.group i.core g).stack with
  | [] => d.advance i.core i.strand
  | e :: r =>
    if e.tag ≠ tag then d.advance i.core i.strand
    else if !e.running then
      let e := { e with parked := laneMask st.lanes, joinPc := some st.pc, running := true }
      let d := d.modGroup i.core g (fun x => { x with stack := e :: r })
      (d.setStrand i.core i.strand (st.withMask g e.resumeMask)).goto i.core i.strand e.resumePc
    else
      let (stack, m) := joinPop tag (e :: r) (laneMask st.lanes)
      let d := d.modGroup i.core g (fun x => { x with stack := stack })
      (d.setStrand i.core i.strand (st.withMask g m)).advance i.core i.strand

/-- JOIN (02 R63, R70): outside a region the strand merges with those that wait there and waits for more, unless it holds
every lane. -/
def execJoin (i : Issue) (s : State) : Host.Outcome State Fault Refusal :=
  s.on (fun d => d.issue i (isOpc 0x44) (fun d st _ =>
    if d.inRegion i.core st then d.joinRegion i st else
    let d := d.mergeHere i.core i.strand .join
    match d.strand? i.core i.strand with
    | none => d
    | some st =>
      if st.lanes.length = 32 then d.advance i.core i.strand
      else d.setStrand i.core i.strand { st with wait := .join }))

/-- JOIN_WINDOW_EXPIRY (02 R63). -/
def execJoinWindowExpiry (core strand : Nat) (s : State) : Host.Outcome State Fault Refusal :=
  s.on (fun d =>
    match d.strand? core strand with
    | none => d
    | some st => if st.wait == .join && d.running && !(d.core core).stopped then d.advance core strand else d)

/-! ### GSYNC, MXBEGIN and the matrix slots (02 R67, R69, R100) -/

/-- The strands of a core that hold threads of group slot `g`. -/
def Dev.strandsOf (d : Dev) (ci g : Nat) : Tab Strand := (d.core ci).strands.filter (fun e => e.2.lanes.any (fun x => x.2 == g))

def isGsync : Wait → Bool
  | .gsync _ => true
  | _ => false

/-- A free matrix slot of a core. -/
def Core.freeSlot (c : Core) : Option Nat := (List.range 4).find? (fun k => !(Tab.has c.slots k))

/-- The group waiting longest for a matrix slot is bound to a free one, and its strand goes on (03 R100). -/
def Dev.bindSlot (d : Dev) (ci : Nat) : Dev :=
  let c := d.core ci
  match c.slotWait, c.freeSlot with
  | g :: rest, some k =>
    let d := d.setCore ci { c with slotWait := rest, slots := Tab.put c.slots k { MxSlot.empty with group := some g } }
    let d := d.modGroup ci g (fun x => { x with inRegion := true, slot := some k, stack := [] })
    ((d.strandsOf ci g).map (·.1)).foldl (fun (d : Dev) sid => d.advance ci sid) d
  | _, _ => d

/-- Once every non-exited thread of a group has reached a GSYNC, one strand of exactly its threads goes on after the one
that the lowest lane reached (02 R67). -/
def Dev.gsyncDone (d : Dev) (ci g : Nat) : Dev :=
  let ss := d.strandsOf ci g
  if ss.isEmpty || !(ss.all (fun e => isGsync e.2.wait)) then d else
  let mine : Tab Nat := ss.foldl (fun (t : Tab Nat) e =>
    (e.2.lanes.filter (fun x => x.2 == g)).foldl (fun t x => Tab.put t x.1 x.2) t) []
  match ss.find? (fun e => e.2.lanes.contains (mine.headD (0, 0))) with
  | none => d
  | some (low, s0) =>
    let d := ss.foldl (fun (d : Dev) e =>
      let rest := e.2.lanes.filter (fun x => x.2 != g)
      if rest.isEmpty then d.delStrand ci e.1 else d.setStrand ci e.1 { e.2 with lanes := rest }) d
    -- a strand that holds other groups' threads too stays with them
    let c := d.core ci
    let sid := if Tab.has c.strands low then c.nextStrand else low
    let d := d.setCore ci { c with nextStrand := max c.nextStrand (sid + 1) }
    let d := d.setStrand ci sid { s0 with lanes := mine, backoff := 0 }
    if s0.wait == .gsync true then
      let d := (d.setStrand ci sid { s0 with lanes := mine, wait := .slot, backoff := 0 }).modCore ci
        (fun c => { c with slotWait := c.slotWait ++ [g] })
      d.bindSlot ci
    else d.advance ci sid

/-- The groups of a strand check whether their GSYNC is complete. -/
def Dev.gsyncAll (d : Dev) (ci : Nat) (gs : List Nat) : Dev := gs.foldl (fun (d : Dev) g => d.gsyncDone ci g) d

/-- GSYNC and MXBEGIN: legal outside a matrix region only (02 R73); the guard has no effect (R586). -/
def Dev.gsyncAt (d : Dev) (i : Issue) (st : Strand) (mx : Bool) : Dev :=
  if d.inRegion i.core st then d.coreFault i.core st 0x05 0 else
  (d.setStrand i.core i.strand { st with wait := .gsync mx }).gsyncAll i.core st.slots

/-- GSYNC (02 R67). -/
def execGsync (i : Issue) (s : State) : Host.Outcome State Fault Refusal :=
  s.on (fun d => d.issue i (isOpc 0x4B) (fun d st _ => d.gsyncAt i st false))

/-- MXBEGIN (02 R69, 03 R100). -/
def execMxbegin (i : Issue) (s : State) : Host.Outcome State Fault Refusal :=
  s.on (fun d => d.issue i (isOpc 0x46) (fun d st _ => d.gsyncAt i st true))

/-- MX_SLOT_BIND (03 R100). -/
def execMxSlotBind (core : Nat) (s : State) : Host.Outcome State Fault Refusal :=
  s.on (fun d => if d.running && !(d.core core).stopped then d.bindSlot core else d)

/-- MXEND (02 R69, R73; 03 R101): outside a region, or with a divergence stack that is not empty, REGION_VIOLATION. -/
def execMxend (i : Issue) (s : State) : Host.Outcome State Fault Refusal :=
  s.on (fun d => d.issue i (isOpc 0x47) (fun d st _ =>
    let g := st.slots.headD 0
    if !d.inRegion i.core st || !(d.group i.core g).stack.isEmpty then d.coreFault i.core st 0x05 0
    else (d.setStrand i.core i.strand { st with wait := .mxEnd }).mxEnds i.core))

/-! ### Pixel interlocks (11 R399, R400) -/

/-- A group belongs to a pixel launch. -/
def Dev.isPixel (d : Dev) (ci g : Nat) : Bool :=
  match (d.launch (d.group ci g).launch).from_ with
  | .pixel .. => true
  | .node .. => false

/-- Some earlier fragment of a lane's pixel has neither executed ILKE nor exited. -/
def Dev.ilkBlocked (d : Dev) (ci : Nat) (e : Nat × Nat) : Bool :=
  let g := d.group ci e.2
  match Tab.get? g.pixels e.1 with
  | none => false
  | some px => (d.core ci).groups.any (fun o => d.isPixel ci o.1 && decide (o.2.index < g.index) &&
      o.2.pixels.any (fun f => f.2 == px && !(o.2.released.getLsbD f.1)))

/-- Lanes take their interlocks. -/
def Dev.ilkTake (d : Dev) (ci : Nat) (lanes : List (Nat × Nat)) : Dev :=
  lanes.foldl (fun (d : Dev) e => d.modGroup ci e.2 (fun g => { g with held := setBit g.held e.1 true })) d

/-- Lanes release: by ILKE, or by exiting. -/
def Dev.ilkRelease (d : Dev) (ci : Nat) (lanes : List (Nat × Nat)) : Dev :=
  lanes.foldl (fun (d : Dev) e => d.modGroup ci e.2 (fun g =>
    { g with held := setBit g.held e.1 false, released := setBit g.released e.1 true })) d

/-- A strand blocked in ILKB: the lanes that can take their interlock do. Outside a region they go on as one strand and
the others keep waiting; inside, the strand waits for all of its lanes. -/
def Dev.ilkGrant (d : Dev) (ci sid : Nat) (st : Strand) (word : BitVec 64) (left : List Nat) : Dev :=
  let mine := st.lanes.filter (fun e => left.contains e.1)
  let go := mine.filter (fun e => !(d.ilkBlocked ci e))
  let stay := mine.filter (fun e => d.ilkBlocked ci e)
  let keep : List Nat := stay.map (·.1)
  let d := d.ilkTake ci go
  if stay.isEmpty then d.advance ci sid
  else if d.inRegion ci st then d.setStrand ci sid { st with wait := .op word keep [] }
  else
    let run := st.lanes.filter (fun e => !(stay.contains e))
    if run.isEmpty then d.setStrand ci sid { st with wait := .op word keep [] }
    else (d.split ci sid stay st.pc (.op word keep []) [(run, st.pc + 8, .ready)]).retire ci { st with lanes := run }

/-- ILKB (11 R399, R400). -/
def execIlkb (i : Issue) (s : State) : Host.Outcome State Fault Refusal :=
  runIssue i 0x6E (fun i d st act =>
    match act.find? (fun e => !(d.isPixel i.core e.2) || (d.group i.core e.2).held.getLsbD e.1) with
    | some e => d.coreFault i.core (st.one e) 0x0E 0
    | none => d.ilkGrant i.core i.strand st i.word (act.map (·.1))) s

/-- ILK_GRANT (11 R399): lanes of a waiting strand whose earlier fragments have released are granted. -/
def execIlkGrant (core strand : Nat) (s : State) : Host.Outcome State Fault Refusal :=
  s.on (fun d =>
    match d.strand? core strand with
    | none => d
    | some st =>
      match st.wait with
      | .op w left _ =>
        if opcOf w == 0x6E && d.running && !(d.core core).stopped &&
            st.lanes.any (fun e => left.contains e.1 && !(d.ilkBlocked core e)) then
          d.ilkGrant core strand st w left
        else d
      | _ => d)

/-- ILKE (11 R399, R400): a lane releases with release ordering, so its core's earlier operations come first. -/
def execIlke (i : Issue) (s : State) : Host.Outcome State Fault Refusal :=
  s.on (fun d0 => d0.issue i (isOpc 0x6F) (fun d st act =>
    match act.find? (fun e => !(d.isPixel i.core e.2) || !((d.group i.core e.2).held.getLsbD e.1)) with
    | some e => d.coreFault i.core (st.one e) 0x0E 0
    | none =>
    if (d.core i.core).ops.any (fun o => act.contains (o.2.lane, o.2.group)) then d0
    else (d.ilkRelease i.core act).advance i.core i.strand))

/-! ### EXIT and the end of a group (02 R70, 06 R216) -/

/-- A group whose threads have all exited ends: its slot and interlocks go, its launch counts one group fewer, and a core
with no group left returns its credits. -/
def Dev.groupEnd (d : Dev) (ci g : Nat) : Dev :=
  let l := (d.group ci g).launch
  let d := d.leaveRegion ci g
  let d := d.modCore ci (fun c => { c with groups := Tab.del c.groups g })
  let d := { d with launches := Tab.mod d.launches l (fun x => { x with live := x.live - 1 }) }
  if (d.core ci).groups.isEmpty then d.returnCredits ci else d

/-- Groups that hold no thread any more end; the others may have completed a GSYNC. -/
def Dev.groupsLeft (d : Dev) (ci : Nat) (gs : List Nat) : Dev :=
  gs.foldl (fun (d : Dev) g =>
    if (d.strandsOf ci g).isEmpty && (d.group ci g).stack.isEmpty then d.groupEnd ci g else d.gsyncDone ci g) d

/-- Every active lane of a group in a matrix region has exited (02 R70): a parked or deferred path runs, or the region
ends for the group's remaining lanes, and the group where none remain. -/
def Dev.exitRegion (d : Dev) (i : Issue) (st : Strand) : Dev :=
  let g := st.slots.headD 0
  match (d.group i.core g).stack with
  | [] => (d.delStrand i.core i.strand).leaveRegion i.core g
  | e :: r =>
    let d := d.modGroup i.core g (fun x => { x with stack := r })
    if e.running then
      (d.setStrand i.core i.strand (st.withMask g e.parked)).goto i.core i.strand (e.joinPc.getD st.pc)
    else (d.setStrand i.core i.strand (st.withMask g e.resumeMask)).goto i.core i.strand e.resumePc

/-- EXIT (02 Table 2-8, R70). A group in a matrix region ends only when its matrix instructions have completed. -/
def execExit (i : Issue) (s : State) : Host.Outcome State Fault Refusal :=
  s.on (fun d0 => d0.issue i (isOpc 0x45) (fun d st act =>
    let gs := (act.map (·.2)).eraseDups
    let rest := st.lanes.filter (fun e => !(act.contains e))
    if rest.isEmpty && d.inRegion i.core st && (d.core i.core).mxAll.any (fun m => gs.contains m.group) then d0 else
    let d := act.foldl (fun (d : Dev) e => d.modGroup i.core e.2 (fun g => { g with exited := setBit g.exited e.1 true })) d
    let d := (d.ilkRelease i.core act).retire i.core st
    if !rest.isEmpty then
      ((d.setStrand i.core i.strand { st with lanes := rest }).advance i.core i.strand).groupsLeft i.core gs
    else if d.inRegion i.core st then (d.exitRegion i st).groupsLeft i.core gs
    else (d.delStrand i.core i.strand).groupsLeft i.core gs))

/-- CORE_WATCHDOG (02 R97): the record's PC is that of the strand that holds the group's lowest non-exited lane. -/
def execCoreWatchdog (core group : Nat) (s : State) : Host.Outcome State Fault Refusal :=
  s.on (fun d =>
    let ss := d.strandsOf core group
    let lanes : Tab Nat := ss.foldl (fun (t : Tab Nat) e =>
      (e.2.lanes.filter (fun x => x.2 == group)).foldl (fun t x => Tab.put t x.1 x.2) t) []
    match Tab.get? (d.core core).groups group, ss.find? (fun e => e.2.lanes.contains (lanes.headD (0, 0))) with
    | some g, some (_, st) =>
      if d.running && !(d.core core).stopped && decide (2000000 ≤ g.watch) then
        d.coreFault core { st with lanes := [((lanes.headD (0, 0)).1, group)] } 0x06 0
      else d
    | _, _ => d)

end Sys2Proof.Machine
end

