-- ==== Sys2Proof/Machine/Orders.lean ====
section
/-! DEFINITION. Standing orders and escrow (08 R283-R313): installation, generations, activations, nodes and triggers. -/

namespace Sys2Proof.Machine

/-! ### Orders -/

/-- The home cluster of an order (08 R283). -/
def homeOf (o : Nat) : Nat := o / 16

def Dev.modOrder (d : Dev) (o : Nat) (g : Order → Order) : Dev := { d with orders := Tab.mod d.orders o g }

/-- A partition holds a usable cluster for new work: no accepted move is taking it away (10 R356). -/
def Dev.holds (d : Dev) (p c : Nat) : Bool :=
  c < 64 && d.plan.clusterOk c && (d.part p).held.getLsbD c &&
  !(match Tab.get? d.moves c with | some m => m.src == some p | none => false)

/-- The teller as an agent for an order: requester `p`, UNIT 1, INDEX its home cluster. -/
def Dev.orderAgent (d : Dev) (o part ctx : Nat) : Agent :=
  { rq := d.rqPart part, unit := 1, index := homeOf o, ctx := ctx }

/-! ### Escrow (08 R297-R300) -/

def Escrow.none : Escrow := { gen := 0, refs := 0, block := 0 }

def Order.curSlot (r : Order) : Escrow := Tab.get r.slots r.cur Escrow.none

/-- Bit s: slot s has REFS ≥ 1 (08 Table 8-8). -/
def Order.refMask (r : Order) : Nat :=
  ((List.range 4).map (fun k => if (Tab.get r.slots k Escrow.none).refs = 0 then 0 else 2 ^ k)).sum

/-- DETAIL of SO_PATCH and SO_SEAL. -/
def Order.sealDetail (r : Order) : Nat := r.curSlot.gen + 2 ^ 16 * r.refMask

/-- The slot a seal takes: the lowest free one, else the current one while nothing is bound to it. -/
def Order.sealSlot (r : Order) : Option Nat :=
  match (List.range 4).find? (fun k => !(Tab.has r.slots k)) with
  | some k => some k
  | none => if r.curSlot.refs = 0 then some r.cur else none

/-- A seal (08 R298): none where it is BUSY. -/
def Order.sealed (r : Order) : Option Order :=
  match r.sealSlot with
  | none => none
  | some k =>
    let e : Escrow := { gen := (r.curSlot.gen + 1) % 2 ^ 16, refs := 0, block := r.draft }
    let kept := if r.curSlot.refs = 0 then Tab.del r.slots r.cur else r.slots
    some { r with slots := Tab.put kept k e, cur := k }

/-- An activation binds the current slot. -/
def Order.bind (r : Order) : Order :=
  { r with slots := Tab.upd r.slots r.cur Escrow.none (fun e => { e with refs := e.refs + 1 }) }

/-- An activation leaves slot `k`: one that is not current and bound no more is freed. -/
def Order.unbind (r : Order) (k : Nat) : Order :=
  let e := Tab.get r.slots k Escrow.none
  if e.refs ≤ 1 && k != r.cur then { r with slots := Tab.del r.slots k }
  else { r with slots := Tab.put r.slots k { e with refs := e.refs - 1 } }

/-! ### Nodes (08 R288-R295) -/

def nf (n : BitVec 256) (hi lo : Nat) : Nat := fld n.toNat hi lo
def nodeKind (n : BitVec 256) : Nat := nf n 3 0

/-- The predecessors of node `i`. -/
def nodePreds (n : BitVec 256) (i : Nat) : List Nat :=
  ([nf n 15 8, nf n 23 16, nf n 31 24].filter (fun p => p != 0xFF)) ++ (if nf n 4 4 = 1 then [i - 1] else [])

/-- Node `i` fails R289; a cluster that a move is taking counts as not held (10 R356). -/
def Dev.badNode (d : Dev) (part i : Nat) (n : BitVec 256) : Bool :=
  nodeKind n > 3 || nf n 7 5 != 0 || (i == 0 && nf n 4 4 == 1) ||
  [nf n 15 8, nf n 23 16, nf n 31 24].any (fun p => p != 0xFF && decide (p ≥ i)) ||
  (match nodeKind n with
   | 0 => nf n 255 32 != 0
   | 1 => nf n 255 202 != 0 || nf n 177 176 != 0 || nf n 197 193 == 0 || decide (nf n 197 193 > 16) ||
          decide (nf n 189 182 > 224) || nf n 181 178 == 15 || nf n 143 96 % 8 != 0 ||
          !(onesOf (BitVec.ofNat 64 (nf n 95 32))).any (d.holds part)
   | k => nf n 255 192 != 0 || nf n 127 80 != 0 || nf n 63 53 != 0 ||
          (if k = 2 then nf n 52 51 != 0 else nf n 79 64 != 0))

/-- Word `j` of a parameter block. -/
def blockWord (b : BitVec 512) (j : Nat) : Nat := fld b.toNat (32 * j + 31) (32 * j)

/-- The operand of a WAIT or SIGNAL node (08 R295). -/
def Activation.operand (a : Activation) (n : BitVec 256) : BitVec 64 :=
  let p := nf n 48 46
  let v := if nf n 49 49 = 1 then blockWord a.params (2 * p) + 2 ^ 32 * blockWord a.params (2 * p + 1) else nf n 191 128
  BitVec.ofNat 64 (v + (if nf n 50 50 = 1 then a.stamp else 0))

def Order.act? (r : Order) (seq : Nat) : Option Activation := r.acts.find? (fun a => a.seq == seq)

def Order.modAct (r : Order) (seq : Nat) (g : Activation → Activation) : Order :=
  { r with acts := r.acts.map (fun a => if a.seq = seq then g a else a) }

def Dev.modAct (d : Dev) (o seq : Nat) (g : Activation → Activation) : Dev := d.modOrder o (fun r => r.modAct seq g)

def Activation.complete (a : Activation) (n : Nat) : Bool := Tab.get? a.nodes n == some NodeSt.complete

/-- A node of an activation is complete. -/
def Dev.nodeDone (d : Dev) (o seq n : Nat) : Dev :=
  d.modAct o seq (fun a => { a with nodes := Tab.put a.nodes n .complete,
                                    wait := if (a.wait.map (·.1)) == some n then none else a.wait })

/-- All nodes have completed: the activation has passed its commit point (08 R310). -/
def Order.committed (r : Order) (a : Activation) : Bool := (List.range r.nodes.length).all a.complete

/-- A registered WAIT is withdrawn. -/
def Dev.dropWait (d : Dev) (o seq : Nat) : Dev :=
  (d.unwait (.node o seq)).modAct o seq (fun a =>
    { a with nodes := (match a.wait with | some w => Tab.del a.nodes w.1 | none => a.nodes), wait := none })

/-- An activation aborts for the first reason that reaches its home teller (08 R309). -/
def Dev.abortAct (d : Dev) (o seq reason : Nat) : Dev :=
  (d.dropWait o seq).modAct o seq (fun a => if a.abort.isNone then { a with abort := some reason } else a)

/-! ### Arming (08 R307, R308) -/

def Arming.threshold (a : Arming) : BitVec 64 := BitVec.ofNat 64 (a.first + a.k * a.step)

/-- The home teller waits on the trigger while the order is armed and fewer than DEPTH of its activations run; an order
whose trigger is not its partition's any more is disarmed. -/
def Dev.armWait (d : Dev) (o : Nat) : Dev :=
  match Tab.get? d.orders o with
  | none => d
  | some r =>
    match r.arm with
    | none => d
    | some a =>
      let who := TallyWho.trigger o
      let waits := d.tly.waiters.any (fun w => w.who == who) || d.tly.wakes.any (fun w => w.who == who)
      if !d.tallyOwned r.part a.trigger then (d.unwait who).modOrder o (fun r => { r with arm := none })
      else if r.acts.length > r.depth then d.unwait who
      else if waits then d
      else d.tallyWait who a.trigger a.threshold

/-- An order is disarmed. -/
def Dev.disarm (d : Dev) (o : Nat) : Dev := (d.unwait (.trigger o)).modOrder o (fun r => { r with arm := none })

/-- Triggered start requests that are still queued are withdrawn. -/
def Order.dropTriggered (r : Order) : Order := { r with queue := r.queue.filter (fun q => !q.triggered) }

/-! ### Order commands (08 R301-R309) -/

/-- The ORDER field of an order command. -/
def Cmd.order (c : Cmd) : Nat := if c.op = 0x20 || c.op = 0x23 then c.f 313 304 else c.f 265 256

/-- An earlier command of the ring on the same order has started and not yet taken effect (08 R286). -/
def Dev.orderBehind (d : Dev) (x : CmdId) (c : Cmd) : Bool :=
  ((d.ring x.fn x.ring).cmds.takeWhile (fun o => !(o.count == c.count && o.inner == c.inner))).any (fun o =>
    o.phase == .started && 0x20 ≤ o.op && o.op ≤ 0x27 && o.order == c.order)

/-- The shape of an order command: it takes effect in start order. -/
def runOrder (x : CmdId) (op : Nat) (eff : Dev → Cmd → Nat → Dev) (s : State) : Host.Outcome State Fault Refusal :=
  runRing x op (fun d c ctx => if d.orderBehind x c then d else eff d c ctx) s

/-- The effect of a command on an installed order of its partition; any other order is BAD_COMMAND (08 R285). An order
that leaves with its cluster takes SO_CANCEL only (10 R356). -/
def Dev.onOrder (d : Dev) (x : CmdId) (c : Cmd) (eff : Dev → Nat → Order → Dev) : Dev :=
  match Tab.get? d.orders c.order with
  | some r => if r.part == c.part && (!r.leaving || c.op == 0x27) then eff d c.order r else d.cmdDone x 0x10 0
  | none => d.cmdDone x 0x10 0

/-- The order descriptor's own fields are bad (08 R302 step 3). -/
def Dev.badDesc (d : Dev) (part v : Nat) : Bool :=
  fld v 511 448 != 0 || fld v 376 361 != 0 || fld v 255 0 != 0 || fld v 447 400 % 32 != 0 || fld v 360 352 == 0 ||
  decide (fld v 360 352 > 256) || fld v 351 304 % 32 != 0 || fld v 303 256 % 64 != 0 ||
  (bitOf v 381 && !d.tallyOwned part (fld v 395 382))

/-- The free entries of a teller's node store (08 R284). -/
def Dev.freeNodes (d : Dev) (c : Nat) : Nat := Tab.get d.nodeFree c 1024

/-- SO_INSTALL (08 R302): its checks in order, then the graph and the first generation. -/
def execSoInstall (x : CmdId) (s : State) : Host.Outcome State Fault Refusal :=
  runOrder x 0x20 (fun d c ctx =>
    let o := c.order
    let h := homeOf o
    if c.f 303 256 % 64 != 0 || !d.holds c.part h then d.cmdDone x 0x10 0
    else if Tab.has d.orders o then d.cmdDone x 0x21 0
    else
      let a := d.orderAgent o c.part ctx
      match d.agentRead a false (c.f 303 256) 64 with
      | (.error e, d) => d.agentFault a c.part e
      | (.ok bs, d) =>
        let v := leNat bs
        let n := fld v 360 352
        if d.badDesc c.part v then d.cmdDone x 0x10 0
        else if d.freeNodes h < n then d.cmdDone x 0x22 0
        else
          match d.agentRead a false (fld v 351 304) (32 * n) with
          | (.error e, d) => d.agentFault a c.part e
          | (.ok g, d) =>
            let nodes : List (BitVec 256) := (List.range n).map (fun i => BitVec.ofNat 256 (leNat ((g.drop (32 * i)).take 32)))
            if (nodes.zipIdx).any (fun e => d.badNode c.part e.2 e.1) then d.cmdDone x 0x20 0 else
            match d.agentRead a false (fld v 303 256) 64 with
            | (.error e, d) => d.agentFault a c.part e
            | (.ok ps, d) =>
              let block := BitVec.ofNat 512 (leNat ps)
              let r : Order :=
                { part := c.part, ctx := ctx, log := fld v 447 400, log2n := fld v 399 396, done := fld v 395 382,
                  doneEn := bitOf v 381, dsys := bitOf v 380, stampEn := bitOf v 379, depth := fld v 378 377,
                  nodes := nodes, draft := block, slots := [(0, { gen := 0, refs := 0, block := block })], cur := 0,
                  seq := 0, queue := [], arm := none, acts := [], leaving := false }
              let d := { d with orders := Tab.put d.orders o r, nodeFree := Tab.put d.nodeFree h (d.freeNodes h - n) }
              d.cmdDone x 0 0) s

/-- An order's nodes and slots are freed. -/
def Dev.dropOrder (d : Dev) (o : Nat) : Dev :=
  match Tab.get? d.orders o with
  | none => d
  | some r =>
    let d := d.unwait (.trigger o)
    { d with orders := Tab.del d.orders o, nodeFree := Tab.put d.nodeFree (homeOf o) (d.freeNodes (homeOf o) + r.nodes.length) }

/-- SO_REMOVE (08 R303). -/
def execSoRemove (x : CmdId) (s : State) : Host.Outcome State Fault Refusal :=
  runOrder x 0x21 (fun d c _ => d.onOrder x c (fun d o r =>
    if r.arm.isSome || !r.acts.isEmpty || !r.queue.isEmpty then d.cmdDone x 0x21 0
    else (d.dropOrder o).cmdDone x 0 0)) s

/-- A seal that ends a command: COMPLETED or BUSY, with its DETAIL. -/
def Dev.sealFor (d : Dev) (x : CmdId) (o : Nat) (r : Order) : Dev :=
  match r.sealed with
  | some r' => (d.modOrder o (fun _ => r')).cmdDone x 0 r'.sealDetail
  | none => (d.modOrder o (fun _ => r)).cmdDone x 0x06 r.sealDetail

/-- SO_PATCH (08 R304). -/
def execSoPatch (x : CmdId) (s : State) : Host.Outcome State Fault Refusal :=
  runOrder x 0x22 (fun d c _ => d.onOrder x c (fun d o r =>
    let n := c.f 278 276
    let w := c.f 275 272
    if n > 4 || w + n > 16 || (n = 0 && !c.bit 279) then d.cmdDone x 0x10 0 else
    let draft := if n = 0 then r.draft.toNat else setFld r.draft.toNat (32 * (w + n) - 1) (32 * w) (c.f (383 + 32 * n) 384)
    let r := { r with draft := BitVec.ofNat 512 draft }
    if c.bit 279 then d.sealFor x o r else (d.modOrder o (fun _ => r)).cmdDone x 0 r.sealDetail)) s

/-- SO_SEAL (08 R305). -/
def execSoSeal (x : CmdId) (s : State) : Host.Outcome State Fault Refusal :=
  runOrder x 0x23 (fun d c _ => d.onOrder x c (fun d o r =>
    let p := c.f 303 256
    if p = 0 then d.sealFor x o r
    else if p % 64 != 0 then d.cmdDone x 0x10 0
    else
      let a := d.orderAgent o r.part r.ctx
      match d.agentRead a false p 64 with
      | (.error e, d) => d.agentFault a r.part e
      | (.ok bs, d) => d.sealFor x o { r with draft := BitVec.ofNat 512 (leNat bs) })) s

/-- SO_RUN (08 R306): a start request is queued; the command ends with its activation. -/
def execSoRun (x : CmdId) (s : State) : Host.Outcome State Fault Refusal :=
  runOrder x 0x24 (fun d c _ => d.onOrder x c (fun d o _ =>
    let q : StartReq := { stamp := c.f 383 320, cmd := some x, reqGen := if c.bit 289 then some (c.f 287 272) else none,
                          triggered := false, skipped := 0 }
    (d.modOrder o (fun r => { r with queue := r.queue ++ [q] })).cmdRuns x)) s

/-- SO_ARM (08 R307). -/
def execSoArm (x : CmdId) (s : State) : Host.Outcome State Fault Refusal :=
  runOrder x 0x25 (fun d c _ => d.onOrder x c (fun d o r =>
    if c.f 447 416 = 0 || !d.tallyOwned r.part (c.f 285 272) then d.cmdDone x 0x10 0 else
    let a : Arming := { trigger := c.f 285 272, first := c.f 511 448, step := c.f 447 416, count := c.f 415 384,
                        latest := c.bit 289, k := 0, starts := 0 }
    ((((d.unwait (.trigger o)).modOrder o (fun r => { r with arm := some a })).armWait o).cmdDone x 0 0))) s

/-- SO_DISARM (08 R308). -/
def execSoDisarm (x : CmdId) (s : State) : Host.Outcome State Fault Refusal :=
  runOrder x 0x26 (fun d c _ => d.onOrder x c (fun d o _ =>
    ((d.disarm o).modOrder o Order.dropTriggered).cmdDone x 0 0)) s

/-- The running activations that a cancel targets: those that have not passed their commit point. -/
def Order.cancelTargets (r : Order) (mode seq : Nat) : List Nat :=
  (r.acts.filter (fun a => !r.committed a && (mode != 1 || a.seq == seq))).map (·.seq)

/-- Activations are cancelled, by a command or by firmware (08 R309). -/
def Dev.cancelActs (d : Dev) (o : Nat) (seqs : List Nat) (x : Option CmdId) : Dev :=
  seqs.foldl (fun (d : Dev) q => (d.abortAct o q 1).modAct o q (fun a => { a with cancels := a.cancels ++ x.toList })) d

/-- SO_CANCEL (08 R309). -/
def execSoCancel (x : CmdId) (s : State) : Host.Outcome State Fault Refusal :=
  runOrder x 0x27 (fun d c _ => d.onOrder x c (fun d o r =>
    let mode := c.f 267 266
    if mode = 3 then d.cmdDone x 0x10 0 else
    let t := r.cancelTargets mode (c.f 383 320)
    -- an activation that is already ending ABORTED is waited for and not counted
    let fresh := (r.acts.filter (fun a => t.contains a.seq && a.abort.isNone)).length
    let d := if mode = 2 then (d.disarm o).modOrder o Order.dropTriggered else d
    let d := d.cancelActs o t (some x)
    if t.isEmpty then d.cmdDone x 0 0 else d.modCmd x (fun c => { c with phase := .running, detail := fresh }))) s

/-! ### Activations (08 R293-R295) -/

/-- The home teller of an order works: the data plane runs. -/
def Dev.order? (d : Dev) (o : Nat) : Option Order := if d.running then Tab.get? d.orders o else none

/-- TRIGGER (08 R307): the wait on the trigger is answered; the threshold queues a start request, a lost or departed tally
disarms. -/
def execTrigger (o : Nat) (s : State) : Host.Outcome State Fault Refusal :=
  s.on (fun d =>
    match d.order? o, d.tly.wakes.find? (fun w => w.who == TallyWho.trigger o) with
    | some r, some w =>
      let d := d.unwait (.trigger o)
      match r.arm with
      | none => d
      | some a =>
        if !w.met then d.disarm o else
        let thr := a.threshold
        let j := if a.latest then (((d.tally a.trigger).value - thr).toNat) / a.step else 0
        let q : StartReq := { stamp := (thr.toNat + j * a.step) % 2 ^ 64, cmd := none, reqGen := none, triggered := true,
                              skipped := min j 65535 }
        let a' := { a with k := a.k + j + 1, starts := a.starts + 1 }
        let arm := if a.count != 0 && decide (a'.starts ≥ a.count) then none else some a'
        (d.modOrder o (fun r => { r with queue := r.queue ++ [q], arm := arm })).armWait o
    | _, _ => d)

/-- The block every node of an activation reads (08 R292). -/
def deliveredBlock (stampEn : Bool) (b : BitVec 512) (stamp : Nat) : BitVec 512 :=
  if stampEn then BitVec.ofNat 512 (setFld b.toNat 511 448 stamp) else b

/-- ACTIVATION_START (08 R293, R306). -/
def execActivationStart (o : Nat) (s : State) : Host.Outcome State Fault Refusal :=
  s.on (fun d =>
    match d.order? o with
    | none => d
    | some r =>
      match r.queue with
      | [] => d
      | q :: rest =>
        if r.acts.length > r.depth || r.leaving then d else
        let d := d.modOrder o (fun r => { r with queue := rest })
        let mismatch := match q.reqGen with | some g => g != r.curSlot.gen | none => false
        if mismatch then (match q.cmd with | some x => d.cmdDone x 0x23 r.curSlot.gen | none => d)
        else
          let a : Activation :=
            { seq := r.seq, stamp := q.stamp, slot := r.cur, gen := r.curSlot.gen,
              params := deliveredBlock r.stampEn r.curSlot.block q.stamp, nodes := [], wait := none, abort := none,
              cmd := q.cmd, cancels := [], skipped := q.skipped, silent := false }
          (d.modOrder o (fun r => { r.bind with seq := (r.seq + 1) % 2 ^ 64, acts := r.acts ++ [a] })).armWait o)

/-- Node `n` of an activation can start now (08 R294). -/
def Order.startable (r : Order) (a : Activation) (n : Nat) : Bool :=
  match r.nodes[n]? with
  | none => false
  | some w =>
    a.abort.isNone && !(Tab.has a.nodes n) && (nodePreds w n).all a.complete && !(nodeKind w == 2 && a.wait.isSome)

/-- Resident groups that a launch's shape allows on a core alone (02 R92). -/
def shapeGroups (regs lsg split maxg : Nat) : Nat :=
  let g := min maxg (min 16 (512 / max regs 1))
  if lsg = 0 then g else min g (32 * split / lsg)

/-- LAUNCH_SHAPE by the unit that presents a launch (02 R56). -/
def Dev.launchShape (d : Dev) (unit index part ctx entry : Nat) : Dev :=
  d.raise { code := 0x01, unit := unit, index := index, part := part, func := (d.part part).cfg.func, ctx := ctx,
            pc := entry, group := 0, addr := 0 }

/-- A LAUNCH node starts (08 R290, R291). -/
def Dev.launchNode (d : Dev) (o : Nat) (r : Order) (a : Activation) (n : Nat) (w : BitVec 256) : Dev :=
  let entry := nf w 143 96
  let targets := maskOf 64 ((onesOf (BitVec.ofNat 64 (nf w 95 32))).filter (d.holds r.part))
  let regs := 8 * (nf w 181 178 + 2)
  if targets == 0 || shapeGroups regs (nf w 189 182) (nf w 192 190) (nf w 197 193) = 0 then
    d.launchShape 1 (homeOf o) r.part r.ctx entry
  else
    let threads := if nf w 175 144 = 0 then blockWord a.params (nf w 201 198) else nf w 175 144
    if threads = 0 then d.nodeDone o a.seq n else
    let l : Launch :=
      { part := r.part, ctx := r.ctx, from_ := .node o a.seq n, entry := entry, regs := regs, lsGroup := nf w 189 182,
        split := nf w 192 190, maxg := nf w 197 193, threads := threads, params := a.params, targets := targets,
        groups := ceilDiv threads 32, next := 0, live := 0, epochs := 0 }
    let d := { d with launches := Tab.put d.launches (Tab.freshFrom d.launches) l }
    let d := (onesOf targets).foldl (fun (d : Dev) c => d.countCluster c 0 1) d
    d.modAct o a.seq (fun a => { a with nodes := Tab.put a.nodes n .running })

/-- NODE_START (08 R294, R295): of the nodes that are ready the lowest starts. -/
def execNodeStart (o seq n : Nat) (s : State) : Host.Outcome State Fault Refusal :=
  s.on (fun d =>
    match d.order? o with
    | none => d
    | some r =>
      match r.act? seq, r.nodes[n]? with
      | some a, some w =>
        if !r.startable a n || (List.range n).any (r.startable a) then d else
        match nodeKind w with
        | 0 => d.nodeDone o seq n
        | 1 => d.launchNode o r a n w
        | 2 =>
          if d.tallyOwned r.part (nf w 45 32) then
            (d.modAct o seq (fun a => { a with nodes := Tab.put a.nodes n .running, wait := some (n, 0) })).tallyWait
              (.node o seq) (nf w 45 32) (a.operand w)
          else (d.violPart r.part 9).abortAct o seq 3
        | _ =>
          if d.tallyOwned r.part (nf w 45 32) then
            let v := a.operand w
            let op : TallyOp := { src := .teller (homeOf o), part := r.part, tally := nf w 45 32,
                                  act := if nf w 51 51 = 1 then .add v else .set v, answer := .node o seq n, after := [] }
            ({ d with tly := { d.tly with ops := d.tly.ops ++ [op] } }).modAct o seq (fun a =>
              { a with nodes := Tab.put a.nodes n .running })
          else (d.violPart r.part 9).nodeDone o seq n
      | _, _ => d)

/-- SIGNAL_COMPLETE (08 R295): the tally block has performed or ignored the node's operation. -/
def execSignalComplete (o seq n : Nat) (s : State) : Host.Outcome State Fault Refusal :=
  s.on (fun d =>
    match d.order? o with
    | none => d
    | some r =>
      match r.act? seq, r.nodes[n]? with
      | some a, some w =>
        if nodeKind w == 3 && Tab.get? a.nodes n == some NodeSt.running &&
            !(d.tly.ops.any (fun p => p.answer == TallyAnswer.node o seq n)) then d.nodeDone o seq n
        else d
      | _, _ => d)

/-- WAIT_NODE_TIMEOUT (08 R295): the TMO-th boundary since registration has passed. -/
def execWaitNodeTimeout (o seq : Nat) (s : State) : Host.Outcome State Fault Refusal :=
  s.on (fun d =>
    match d.order? o with
    | none => d
    | some r =>
      match r.act? seq with
      | none => d
      | some a =>
        match a.wait with
        | none => d
        | some (n, k) =>
          let tmo := nf (r.nodes.getD n 0) 79 64
          if tmo != 0 && decide (k ≥ tmo) then d.abortAct o seq 2 else d)

/-! ### The end of an activation (08 R310, R311) -/

/-- The activation can end: its nodes have all completed, or it is aborting and none still runs. -/
def Order.ended (r : Order) (a : Activation) : Bool :=
  if a.abort.isSome then !(a.nodes.any (fun e => e.2 == NodeSt.running)) else r.committed a

/-- The record of an activation (08 Table 8-18). -/
def Dev.actRecord (d : Dev) (a : Activation) : List Byte :=
  toLe 1 (b2n a.abort.isSome) ++ toLe 1 (a.abort.getD 0) ++ toLe 2 a.skipped ++
  toLe 2 ((a.nodes.filter (fun e => e.2 == NodeSt.complete)).length) ++ toLe 2 a.gen ++ toLe 8 a.seq ++ toLe 8 a.stamp ++
  toLe 8 d.time.ts

/-- A cancel command completes once no activation that it targets is left. -/
def Dev.cancelCheck (d : Dev) (o : Nat) (x : CmdId) : Dev :=
  match Tab.get? d.orders o, d.cmd? x with
  | some r, some c =>
    if c.phase == .running && !(r.acts.any (fun a => a.cancels.contains x)) then d.cmdDone x 0 c.detail else d
  | _, _ => d

/-- ACTIVATION_END (08 R311): the slot's REFS, the record, the DONE tally, the command. -/
def execActivationEnd (o seq : Nat) (s : State) : Host.Outcome State Fault Refusal :=
  s.on (fun d =>
    match d.order? o with
    | none => d
    | some r =>
      match r.act? seq with
      | none => d
      | some a =>
        if !r.ended a then d else
        let d := d.modOrder o (fun r => { r.unbind a.slot with acts := r.acts.filter (fun x => x.seq != seq) })
        let d := d.countCluster (homeOf o) 2 1
        let ag := d.orderAgent o r.part r.ctx
        match (if r.log = 0 || a.silent then (.ok (), d)
               else d.agentWrite ag false ((r.log + 32 * (seq % 2 ^ r.log2n)) % 2 ^ 48) (d.actRecord a)) with
        | (.error e, d) => d.agentFault ag r.part e
        | (.ok _, d) =>
          let d := if r.doneEn && !a.silent then d.agentSignal (.teller (homeOf o)) r.part r.done true 1 else d
          let d := match a.cmd with
            | some x => d.cmdDone x (b2n a.abort.isSome) (a.gen + 2 ^ 16 * (seq % 2 ^ 48))
            | none => d
          let d := a.cancels.foldl (fun (d : Dev) x => d.cancelCheck o x) d
          match Tab.get? d.orders o with
          | some r => if r.leaving && r.acts.isEmpty then d.dropOrder o else d.armWait o
          | none => d)

/-! ### Tally wakes (06 R235) -/

/-- TALLY_WAKE (06 R235): wake `k` reaches who waits for it; a trigger's is taken by TRIGGER. -/
def execTallyWake (k : Nat) (s : State) : Host.Outcome State Fault Refusal :=
  s.on (fun d =>
    match d.tly.wakes[k]? with
    | none => d
    | some w =>
      let d' := { d with tly := { d.tly with wakes := d.tly.wakes.eraseIdx k } }
      match w.who with
      | .core ci sid g => d'.answer ci sid g g (b2n w.met)
      | .node o seq =>
        (match (Tab.get? d.orders o).bind (fun r => r.act? seq) with
         | some a => (match a.wait with
           | some (n, _) => if w.met then d'.nodeDone o seq n else d'.abortAct o seq 3
           | none => d')
         | none => d')
      | .command x => d'.waitWoken x w.met
      | .trigger _ => d)

end Sys2Proof.Machine
end

