-- ==== Sys2Proof/Machine/Launch.lean ====
section
/-! DEFINITION. Launches on the cores: dispatch of groups, completion and overrun (02 R55-R58, R89-R92; 08 R290-R295;
10 R366; 11 R396, R397). -/

namespace Sys2Proof.Machine

/-! ### Room on a core (02 R91, R92) -/

/-- The launches with groups resident on a core. -/
def Core.residentLaunches (c : Core) : List Nat := (c.groups.map (fun e => e.2.launch)).eraseDups

/-- The sum of a launch parameter over a core's resident groups. -/
def Dev.residentSum (d : Dev) (c : Core) (f : Launch → Nat) : Nat := (c.groups.map (fun e => f (d.launch e.2.launch))).sum

/-- A core has room for one more group of a launch. -/
def Dev.hasRoom (d : Dev) (ci l : Nat) : Bool :=
  let c := d.core ci
  let x := d.launch l
  let mine := (c.groups.filter (fun e => e.2.launch == l)).length
  (c.groups.isEmpty || c.split == x.split) &&
  decide (((c.residentLaunches.filter (· != l)).length) < 4) &&
  decide (c.groups.length < 16) && decide (mine < x.maxg) &&
  decide (d.residentSum c (·.regs) + x.regs ≤ 512) && decide (d.residentSum c (·.lsGroup) + x.lsGroup ≤ 32 * x.split)

/-! ### Preparing a core (02 R55, R91; 06 R216) -/

/-- Lines leave a core's L1: dirty data goes to the home slice, and the directory forgets an owner. -/
def Dev.purgeLines (d : Dev) (ci : Nat) (lines : List Nat) : Dev :=
  lines.foldl (fun (d : Dev) line =>
    let d := d.dropCopy line ci
    if d.dirOf line == some (.x ci) then d.delDir line else d) d

/-- A core that changes partition: local store zeroed, L1 invalidated, channels emptied. -/
def Dev.changePart (d : Dev) (ci l p : Nat) : Dev :=
  let c := d.core ci
  if c.lastPart == some p then d else
  let d := d.purgeLines ci (c.l1.map (·.1))
  let d := match c.lastPart with | some q => d.emptyChannels ci q | none => d
  d.modCore ci (fun c => { c with ls := [], lsZero := [l], lastPart := some p })

/-- A core that changes its split: L1 lines in the part that becomes local store leave. -/
def Dev.changeSplit (d : Dev) (ci split : Nat) : Dev :=
  let c := d.core ci
  if c.split = split then d else
  let d := d.purgeLines ci ((c.l1.filter (fun e => decide (e.2.way < split))).map (·.1))
  d.modCore ci (fun c => { c with split := split })

/-! ### Placing a group (02 Table 2-1, R57, R58) -/

/-- s0 to s15 from a parameter block. -/
def uniOf (b : BitVec 512) : Tab Word := (List.range 16).map (fun j => (j, BitVec.ofNat 32 (blockWord b j)))

/-- A group enters a free slot of a core as one strand of its live lanes; a group without any ends at once. -/
def Dev.placeGroup (d : Dev) (ci l index : Nat) (live : Mask) (pixels : Tab (Nat × Nat)) : Dev :=
  let x := d.launch l
  match (List.range 16).find? (fun s => !(Tab.has (d.core ci).groups s)) with
  | none => d
  | some slot =>
    let d := (d.changePart ci l x.part).changeSplit ci x.split
    let g : Group := { Group.empty with launch := l, index := index, uni := uniOf x.params, exited := ~~~ live,
                                        pixels := pixels }
    let c := d.core ci
    let s : Strand := { pc := x.entry, lanes := lanesOfMask live slot, wait := .ready, pair := none, backoff := 0 }
    let d := d.setCore ci { c with groups := Tab.put c.groups slot g, strands := Tab.put c.strands c.nextStrand s,
                                   nextStrand := c.nextStrand + 1 }
    let d := { d with launches := Tab.mod d.launches l (fun x => { x with next := x.next + 1, live := x.live + 1 }) }
    let d := d.countCluster (clusterOf ci) 1 1
    if live = 0 then (d.delStrand ci c.nextStrand).groupEnd ci slot else d

/-! ### Fragment groups (11 R396, R397) -/

/-- The quads of the next group: at most 8, of one draw, at distinct positions. -/
def takeGroup : List Quad → List Quad → List Quad × List Quad
  | [], acc => (acc, [])
  | q :: r, acc =>
    if acc.length ≥ 8 || acc.any (fun o => (o.x == q.x && o.y == q.y) || o.draw != q.draw) then (acc, q :: r)
    else takeGroup r (acc ++ [q])

/-- The next group of a tile and what is left of the tile. -/
def Tile.next (t : Tile) : List Quad × Tile :=
  match t.closed with
  | g :: r => (g, { t with closed := r })
  | [] => let (g, rest) := takeGroup t.quads []; (g, { t with quads := rest })

/-- The lanes of a fragment group in order. -/
def groupFrags (g : List Quad) : List Fragment := g.flatMap (·.frags)

/-- A core's render region (11 R393). -/
def renderBase (ci : Nat) : Nat := 0x300000 + 0x10000 * (ci % 16)

/-- The next group of a core's tile is dispatched: its input records are written to its slot, then it is placed. -/
def Dev.dispatchPixel (d : Dev) (ci l draw : Nat) : Dev :=
  match Tab.get? d.render.tiles ci with
  | none => d
  | some t =>
    let (g, t') := t.next
    let n := t.nextGroup
    let waits := (d.core ci).groups.any (fun e => d.isPixel ci e.1 && decide (e.2.index + 16 ≤ n))
    if g.isEmpty || (g.headD { x := 0, y := 0, draw := 0, frags := [] }).draw != draw || waits then d else
    let fs := (groupFrags g).zipIdx
    let slot := renderBase ci + 2048 * (n % 16)
    let d := fs.foldl (fun (d : Dev) (e : Fragment × Nat) =>
      d.tileWrite (clusterOf ci) (slot + 64 * e.2) (toLe 64 e.1.record.toNat)) d
    let d := { d with render := { d.render with tiles := Tab.put d.render.tiles ci { t' with nextGroup := n + 1 } } }
    let live := fs.filter (fun (e : Fragment × Nat) => e.1.live)
    d.placeGroup ci l n (maskOf 32 (live.map (fun (e : Fragment × Nat) => e.2)))
      (live.map (fun (e : Fragment × Nat) => (e.2, (e.1.x, e.1.y))))

/-- GROUP_DISPATCH (08 R291, 02 R91, R92; 11 R397): the next group of launch `l` goes to a core that has room. -/
def execGroupDispatch (l core : Nat) (s : State) : Host.Outcome State Fault Refusal :=
  s.on (fun d =>
    match Tab.get? d.launches l with
    | none => d
    | some x =>
      if !d.running || !d.plan.coreOk core || (d.core core).stopped || !d.hasRoom core l then d else
      match x.from_ with
      | .pixel _ owner draw => if owner = core then d.dispatchPixel core l draw else d
      | .node .. =>
        if x.next < x.groups && x.targets.getLsbD (clusterOf core) then
          let n := min 32 (x.threads - 32 * x.next)
          d.placeGroup core l x.next (BitVec.ofNat 32 (2 ^ n - 1)) []
        else d)

/-! ### The end of a launch (08 R295, 04 R173) -/

/-- Every group of a launch has exited, every store of it has been performed and every ray has its record (12 R426). -/
def Dev.launchOver (d : Dev) (l : Nat) (x : Launch) : Bool :=
  decide (x.groups ≤ x.next) && x.live == 0 && !(d.cores.any (fun c => c.2.ops.any (fun o => o.2.launch == l))) &&
  !(d.rays.rays.any (fun r => r.launch == l))

/-- A launch is forgotten, with its local store. -/
def Dev.dropLaunch (d : Dev) (l : Nat) : Dev :=
  { d with launches := Tab.del d.launches l
           cores := Tab.mapv d.cores (fun c => if Tab.has c.ls l || c.lsZero.contains l then
             { c with ls := Tab.del c.ls l, lsZero := c.lsZero.erase l } else c) }

/-- LAUNCH_COMPLETE (08 R295): the last report reaches the home teller and the node completes. -/
def execLaunchComplete (l : Nat) (s : State) : Host.Outcome State Fault Refusal :=
  s.on (fun d =>
    match Tab.get? d.launches l with
    | none => d
    | some x =>
      match x.from_ with
      | .pixel .. => d
      | .node o seq n => if d.running && d.launchOver l x then (d.dropLaunch l).nodeDone o seq n else d)

/-- LAUNCH_OVERRUN (10 R366): the launch runs at its (R + 1)-th boundary; GROUP is its lowest group not exited. -/
def execLaunchOverrun (l : Nat) (s : State) : Host.Outcome State Fault Refusal :=
  s.on (fun d =>
    match Tab.get? d.launches l with
    | none => d
    | some x =>
      let r := (d.part x.part).cfg.runEpochs
      match x.from_ with
      | .pixel .. => d
      | .node o .. =>
        if !d.running || r = 0 || x.epochs ≤ r then d else
        let live := d.cores.flatMap (fun c => (c.2.groups.filter (fun g => g.2.launch == l)).map (fun g => g.2.index))
        d.raise { code := 0x0D, unit := 1, index := homeOf o, part := x.part, func := (d.part x.part).cfg.func, ctx := x.ctx,
                  pc := x.entry, group := (live.min?).getD x.next, addr := 0 })

end Sys2Proof.Machine
end

