-- ==== Sys2Proof/Machine/Ledger.lean ====
section
/-! DEFINITION. The context ledger (09): streams, entries, leases, queries, migration, export and import, reconciliation. -/

namespace Sys2Proof.Machine

def Dev.modLdg (d : Dev) (f : Ledger → Ledger) : Dev := { d with ledger := f d.ledger }

/-- The bank of an entry (R314). -/
def bankOf (idx : Nat) : Nat := idx / 131072

/-- The ledger's agent in a context: requester 16 + p, UNIT 6 (R325, R334, R335). -/
def Dev.ldgAgent (d : Dev) (part ctx index : Nat) : Agent := { rq := d.rqLedger part, unit := 6, index := index, ctx := ctx }

/-! ### Streams and entries (R314-R320) -/

/-- A stream that partition `p` may name (R319, R323). -/
def Dev.ldgStream (d : Dev) (p n : Nat) : Option LStream :=
  (Tab.get? d.ledger.streams n).filter (fun s => s.part == p && !s.dropping)

/-- The entry that (STREAM, BLOCK) names (R317). -/
def Dev.ldgFind (d : Dev) (n block : Nat) : Option (Nat × LEntry) :=
  d.ledger.entries.find? (fun e => e.2.stream == n && e.2.block == block)

/-- Entries of a stream not FREE. -/
def Dev.ldgInUse (d : Dev) (n : Nat) : Nat := (d.ledger.entries.filter (fun e => e.2.stream == n)).length

/-- Entries of a partition not FREE. -/
def Dev.ldgPartUse (d : Dev) (p : Nat) : Nat :=
  (d.ledger.entries.filter (fun e => (Tab.get? d.ledger.streams e.2.stream).any (fun s => s.part == p))).length

/-- The usable banks, cyclically from the one in turn. -/
def Dev.ldgBanks (d : Dev) : List Nat :=
  ((List.range 16).map (fun i => (d.ledger.rot + i) % 16)).filter (fun b => d.plan.banks.getLsbD b)

/-- Entries of a bank that are not FREE. -/
def Dev.bankUse (d : Dev) (b : Nat) : Nat := (d.ledger.entries.filter (fun e => bankOf e.1 == b)).length

/-- A FREE entry, from the usable banks in turn (R314). -/
def Dev.ldgFree (d : Dev) : Option Nat :=
  match d.ldgBanks.find? (fun b => decide (d.bankUse b < 131072)) with
  | none => none
  | some b => ((List.range (d.bankUse b + 1)).map (fun i => b * 131072 + i)).find? (fun i => !(Tab.has d.ledger.entries i))

def Dev.putEnt (d : Dev) (idx : Nat) (e : LEntry) : Dev := d.modLdg (fun l => { l with entries := Tab.put l.entries idx e })
def Dev.modEnt (d : Dev) (idx : Nat) (f : LEntry → LEntry) : Dev :=
  d.modLdg (fun l => { l with entries := Tab.mod l.entries idx f })

/-- LAST_USE at present. -/
def Dev.lastUse (d : Dev) : Nat := d.time.epoch % 65536

/-! ### The end of leases, entries, migrations and commands (Table 9-2, R341-R343) -/

/-- A migration whose recorded slots have all released the entry gives up its old storage and completes. -/
def Dev.migFinish (d : Dev) : Dev :=
  let done := d.ledger.migrations.filter (fun m => m.switched && m.slots.isEmpty)
  let d := d.modLdg (fun l => { l with migrations := l.migrations.filter (fun m => !(m.switched && m.slots.isEmpty)) })
  done.foldl (fun (d : Dev) m =>
    (if m.minted then d.mintReturn m.part m.pool 3 m.addr else d).cmdDone m.cmd 0 m.old) d

/-- The commands that wait for entry `idx` go on; one that waits for no more completes, and a dropped stream is removed. -/
def Dev.evictsCheck (d : Dev) (idx : Nat) : Dev :=
  let upd := d.ledger.evicts.map (fun c => { c with left := c.left.filter (· != idx) })
  let d := d.modLdg (fun l => { l with evicts := upd.filter (fun c => !c.left.isEmpty) })
  (upd.filter (fun c => c.left.isEmpty)).foldl (fun (d : Dev) c =>
    (match c.drop with
     | some n => d.modLdg (fun l => { l with streams := Tab.del l.streams n })
     | none => d).cmdDone c.cmd 0 c.count) d

/-- An entry becomes FREE; minted storage goes back where it is returned. -/
def Dev.ldgDrop (d : Dev) (idx : Nat) (giveBack : Bool) : Dev :=
  match Tab.get? d.ledger.entries idx with
  | none => d
  | some e =>
    let part := ((Tab.get? d.ledger.streams e.stream).map (·.part)).getD 0
    let d := if giveBack && e.minted then d.mintReturn part e.pool 3 e.addr else d
    let d := d.modLdg (fun l =>
      { l with
        entries := Tab.del l.entries idx
        queries := Tab.mapv l.queries (fun q => { q with items := q.items.map (fun i =>
          if i.idx = idx then { i with leased := false } else i) })
        migrations := l.migrations.map (fun m => if m.idx = idx then { m with slots := [] } else m) })
    d.migFinish.evictsCheck idx

/-- The migration that copies an entry is abandoned: new storage goes back and the command ends with a status. -/
def Dev.migAbandon (d : Dev) (idx status : Nat) : Dev :=
  match d.ledger.migrations.find? (fun m => m.idx == idx && !m.switched) with
  | none => d
  | some m =>
    let d := d.modLdg (fun l => { l with migrations := l.migrations.filter (fun x => !(x.idx == idx && !x.switched)) })
    let d := if m.minted then d.mintReturn m.part m.pool 3 m.addr else d
    (d.modEnt idx (fun e => { e with st := .valid })).cmdDone m.cmd status 0

/-- An evict reaches an entry (Table 9-2). -/
def Dev.ldgEvict (d : Dev) (idx : Nat) : Dev :=
  match Tab.get? d.ledger.entries idx with
  | none => d
  | some e =>
    let leave := fun (d : Dev) => if e.leases = 0 then d.ldgDrop idx true else d.modEnt idx (fun e => { e with st := .retired })
    match e.st with
    | .reserved => d.ldgDrop idx true
    | .valid => leave d
    | .migrating => leave (d.migAbandon idx 0x2A)
    | .retired => d
    | .broken => d.ldgDrop idx false

/-- Slot `q` releases its lease on an entry (R337, R343). -/
def Dev.ldgUnlease (d : Dev) (q idx : Nat) : Dev :=
  let d := d.modLdg (fun l => { l with migrations := l.migrations.map (fun m =>
    if m.idx = idx then { m with slots := m.slots.filter (· != q) } else m) })
  let d := (d.modEnt idx (fun e => { e with leases := e.leases - 1 })).migFinish
  match Tab.get? d.ledger.entries idx with
  | some e => if e.st == .retired && e.leases == 0 then d.ldgDrop idx true else d
  | none => d

def Dev.modQuery (d : Dev) (q : Nat) (f : LQuery → LQuery) : Dev :=
  d.modLdg (fun l => { l with queries := Tab.mod l.queries q f })

/-- A completed slot is freed, with every lease it holds. -/
def Dev.slotRelease (d : Dev) (q : Nat) : Dev :=
  match Tab.get? d.ledger.queries q with
  | none => d
  | some x =>
    let d := (x.items.filter (·.leased)).foldl (fun (d : Dev) i => d.ldgUnlease q i.idx) d
    d.modLdg (fun l => { l with queries := Tab.del l.queries q })

/-! ### LDG_STREAM, LDG_EVICT (R323, R342) -/

/-- A command waits for the listed entries to become FREE; with none it completes at once. -/
def Dev.ldgWaitFree (d : Dev) (x : CmdId) (idxs : List Nat) (count : Nat) (drop : Option Nat) : Dev :=
  let left := idxs.filter (fun i => Tab.has d.ledger.entries i)
  if left.isEmpty then
    (match drop with
     | some n => d.modLdg (fun l => { l with streams := Tab.del l.streams n })
     | none => d).cmdDone x 0 count
  else (d.modLdg (fun l => { l with evicts := l.evicts ++ [{ cmd := x, left := left, count := count, drop := drop }] })).cmdRuns x

/-- The entries of a stream in a block range (R342). -/
def Dev.ldgRange (d : Dev) (n lo hi : Nat) : List (Nat × LEntry) :=
  d.ledger.entries.filter (fun e => e.2.stream == n && decide (lo ≤ e.2.block) && (hi == 0 || decide (e.2.block < hi)))

/-- LDG_STREAM (R323). -/
def execLdgStream (x : CmdId) (s : State) : Host.Outcome State Fault Refusal :=
  runRing x 0x30 (fun d c ctx =>
    let n := c.f 265 256
    let op := c.f 341 340
    let size := c.f 354 350
    if op = 3 || size < 6 || size > 21 || c.f 361 357 > 20 then d.cmdDone x 0x10 0 else
    if op = 0 then
      if Tab.has d.ledger.streams n then d.cmdDone x 0x2E 0 else
      let st : LStream :=
        { part := c.part, ctx := ctx, set := c.f 349 342, sizeLog2 := size, splitEn := c.bit 355, splitPart := c.f 356 356,
          splitLog2 := c.f 361 357, quota := c.f 383 362, highBlock := 0, broken := false, dropping := false }
      (d.modLdg (fun l => { l with streams := Tab.put l.streams n st })).cmdDone x 0 0
    else
      match Tab.get? d.ledger.streams n with
      | none => d.cmdDone x 0x28 0
      | some st =>
        if st.part != c.part then d.cmdDone x 0x28 0
        else if st.dropping then d.cmdDone x 0x2E 0
        else if op = 1 then
          if st.broken then d.cmdDone x 0x2F 0 else
          (d.modLdg (fun l => { l with streams := Tab.put l.streams n { st with set := c.f 349 342, quota := c.f 383 362 } })).cmdDone
            x 0 (d.ldgInUse n)
        else
          let idxs := (d.ldgRange n 0 0).map (·.1)
          let d := d.modLdg (fun l => { l with streams := Tab.put l.streams n { st with dropping := true } })
          (idxs.foldl (fun (d : Dev) i => d.ldgEvict i) d).ldgWaitFree x idxs 0 (some n)) s

/-- LDG_EVICT (R342). -/
def execLdgEvict (x : CmdId) (s : State) : Host.Outcome State Fault Refusal :=
  runRing x 0x31 (fun d c _ =>
    let n := c.f 265 256
    match d.ldgStream c.part n with
    | none => d.cmdDone x 0x28 0
    | some _ =>
      let es := d.ldgRange n (c.f 351 320) (c.f 383 352)
      let count := (es.filter (fun e => e.2.st != .retired)).length
      ((es.map (·.1)).foldl (fun (d : Dev) i => d.ldgEvict i) d).ldgWaitFree x (es.map (·.1)) count none) s

/-! ### Inserts (R324-R326, R348) -/

/-- Steps 1 to 4 of R325: the stream, or the status of the first check that fails. -/
def Dev.insertCheck (d : Dev) (part n block : Nat) : Except Nat LStream :=
  match d.ldgStream part n with
  | none => .error 0x28
  | some st =>
    let quota := (d.part part).cfg.ldgQuota
    if st.broken then .error 0x2F
    else if st.splitEn && block / 2 ^ st.splitLog2 % 2 != st.splitPart then .error 0x2C
    else if (d.ldgFind n block).isSome then .error 0x29
    else if (st.quota != 0 && decide (d.ldgInUse n ≥ st.quota)) || (quota != 0 && decide (d.ldgPartUse part ≥ quota)) ||
        d.ldgFree.isNone then .error 0x2B
    else .ok st

/-- Step 5 of R325: supplied storage; answers whether it lies in host memory, none for BAD_ADDR. -/
def Dev.suppliedOk (d : Dev) (st : LStream) (dva : Nat) : Option Bool × Dev :=
  if dva % 2 ^ st.sizeLog2 != 0 || dva ≥ 2 ^ 48 then (none, d) else
  match d.xlate (d.ldgAgent st.part st.ctx 0) dva .write with
  | (.error _, d) => (none, d)
  | (.ok (pa, _), d) => (some (decide (pa ≥ 2 ^ 47)), d)

/-- A new entry of a stream in a FREE place. -/
def Dev.newEntry (d : Dev) (e : LEntry) : Dev :=
  match d.ldgFree with
  | none => d
  | some i => (d.putEnt i e).modLdg (fun l => { l with rot := (bankOf i + 1) % 16 })

def LEntry.fresh (n block dva : Nat) (host minted : Bool) (pool : Nat) : LEntry :=
  { sketch := 0, addr := dva, tier := b2n host, st := .reserved, minted := minted, pool := pool, stream := n, block := block,
    lastUse := 0, hits := 0, leases := 0, serial := 0 }

/-- RESERVE (R325): status and DVA. -/
def Dev.ldgReserve (d : Dev) (part n block : Nat) (supplied : Option Nat) : (Nat × Nat) × Dev :=
  match d.insertCheck part n block with
  | .error e => ((e, 0), d)
  | .ok st =>
    match supplied with
    | some dva =>
      (match d.suppliedOk st dva with
       | (none, d) => ((0x30, 0), d)
       | (some host, d) => ((0, dva), d.newEntry (LEntry.fresh n block dva host false 0)))
    | none =>
      match d.poolFor part 3 st.sizeLog2 with
      | none => ((0x02, 0), d)
      | some p =>
        match d.mintCall part p 3 with
        | (none, d) => ((0x02, 0), d)
        | (some dva, d) => ((0, dva), d.newEntry (LEntry.fresh n block dva false true p))

/-- The RESERVED entry that a request names, where the stream accepts it. -/
def Dev.reservedEntry (d : Dev) (part n block : Nat) : Except Nat (Nat × LEntry) :=
  match d.ldgStream part n with
  | none => .error 0x28
  | some st =>
    if st.broken then .error 0x2F else
    match d.ldgFind n block with
    | some (i, e) => if e.st == .reserved then .ok (i, e) else .error 0x2A
    | none => .error 0x2A

/-- An entry becomes VALID with its sketch. -/
def Dev.ldgCommitAt (d : Dev) (i : Nat) (sketch : BitVec 128) : Dev :=
  match Tab.get? d.ledger.entries i with
  | none => d
  | some e =>
    (d.putEnt i { e with st := .valid, sketch := sketch, lastUse := d.lastUse, serial := d.ledger.serial }).modLdg (fun l =>
      { l with serial := l.serial + 1
               streams := Tab.mod l.streams e.stream (fun s => { s with highBlock := max s.highBlock (min (e.block + 1) (2 ^ 32 - 1)) }) })

/-- COMMIT (R326). -/
def Dev.ldgCommit (d : Dev) (part n block : Nat) (sketch : BitVec 128) : (Nat × Nat) × Dev :=
  match d.reservedEntry part n block with
  | .error e => ((e, 0), d)
  | .ok (i, e) => ((0, e.addr), d.ldgCommitAt i sketch)

/-- ABANDON (R326). -/
def Dev.ldgAbandon (d : Dev) (part n block : Nat) : (Nat × Nat) × Dev :=
  match d.reservedEntry part n block with
  | .error e => ((e, 0), d)
  | .ok (i, e) => ((0, e.addr), d.ldgDrop i true)

/-- A core's requests to the ledger, one a lane in lane order, and their results in DST (R324, R340). A pair of SRCA whose
low word has a bit above STREAM is an illegal operand. Release ordering issues only once the threads' earlier accesses have
been performed. -/
def Dev.ldgLanes (d : Dev) (i : Issue) (st : Strand) (act : List (Nat × Nat)) (n : Nat)
    (f : Dev → Nat → Nat → Nat → Nat × Nat → (Nat × Nat) × Dev) (res : Nat × Nat → Nat) : Dev :=
  match act.find? (fun e => decide (d.readW i.core e.2 e.1 (srcaOf i.word) ≥ 1024)) with
  | some e => d.coreFault i.core (st.one e) 0x03 0
  | none =>
  let part := d.strandPart i.core st
  let step := fun (r : Tab Nat × Dev) (e : Nat × Nat) =>
    let a := r.2.readP i.core e.2 e.1 (srcaOf i.word)
    let (x, d) := f r.2 part (a % 1024) (a / 2 ^ 32) e
    (Tab.put r.1 e.1 (res x), d)
  let (vals, d) := act.foldl step ([], d)
  (d.writeLanes i.core act (dstOf i.word) n (fun l _ => Tab.get vals l 0)).advance i.core i.strand

/-- The pair a LINS lane receives: DVA[47:0], and the status in bits [63:56]. -/
def linsResult (x : Nat × Nat) : Nat := x.2 % 2 ^ 48 + 2 ^ 56 * x.1

/-- A LINS of sub-operation `op`. -/
def runLins (i : Issue) (op : Nat) (f : Dev → Nat → Nat → Nat → Nat × Nat → (Nat × Nat) × Dev) (s : State) :
    Host.Outcome State Fault Refusal :=
  s.on (fun d =>
    -- a release is performed before the request is made: the instruction waits to issue
    let waits := match d.strand? i.core i.strand with
      | some st => fld (subOf i.word) 11 10 == 2 && !(st.lanes.all (fun e => (d.groupOps i.core e.2 [e]).isEmpty))
      | none => false
    if waits then d else
    d.issue i (fun w => isOpc 0x69 w && (fld (subOf w) 15 14 == op || (op == 0 && fld (subOf w) 15 14 == 3)))
      (fun d st act => d.ldgLanes i st act 2 f linsResult))

/-- LINS_RESERVE (R325); a word with the reserved sub-operation issues under this row. -/
def execLinsReserve (i : Issue) (s : State) : Host.Outcome State Fault Refusal :=
  runLins i 0 (fun d part n block e =>
    d.ldgReserve part n block (if srccOf i.word = 0xFF then none else some (d.readP i.core e.2 e.1 (srccOf i.word)))) s

/-- LINS_COMMIT (R326). -/
def execLinsCommit (i : Issue) (s : State) : Host.Outcome State Fault Refusal :=
  runLins i 1 (fun d part n block e =>
    d.ldgCommit part n block (BitVec.ofNat 128 (d.readN i.core e.2 e.1 (srcbOf i.word) 4))) s

/-- LINS_ABANDON (R326). -/
def execLinsAbandon (i : Issue) (s : State) : Host.Outcome State Fault Refusal :=
  runLins i 2 (fun d part n block _ => d.ldgAbandon part n block) s

/-- LEVC (R340, R341). -/
def execLevc (i : Issue) (s : State) : Host.Outcome State Fault Refusal :=
  s.on (fun d => d.issue i (isOpc 0x6A) (fun d st act =>
    d.ldgLanes i st act 1 (fun d part n block _ =>
      match d.ldgStream part n with
      | none => ((0x28, 0), d)
      | some _ =>
        match d.ldgFind n block with
        | none => ((0x2A, 0), d)
        | some (k, _) => ((0, 0), d.ldgEvict k)) (fun x => 2 ^ 24 * x.1)))

/-! ### Queries (R328-R337) -/

def LQuery.f (q : LQuery) (hi lo : Nat) : Nat := fld q.desc.toNat hi lo

/-- A descriptor is well formed (R333, Table 9-9). -/
def queryDescOk (v : Nat) : Bool :=
  fld v 207 200 == 0 && fld v 39 32 == 0 && fld v 22 0 == 0 && decide (fld v 47 40 ≤ 128) && decide (1 ≤ fld v 31 25) &&
  decide (fld v 31 25 ≤ 64) && fld v 255 208 % 64 == 0

/-- A failed read for an LQRY: the core's job fault (R332, 10 Table 10-13). The failure is already recorded. -/
def Dev.lqryFault (d : Dev) (i : Issue) (st : Strand) (x : AccFail) : Dev :=
  match x with
  | .xlat _ _ _ dva => d.coreFault i.core st 0x09 dva
  | .poison _ => d.accFault i.core st .read x

/-- `n` bytes read at each group's address; the group whose read failed. -/
def Dev.lqryReads (d : Dev) (a : Agent) (n : Nat) : List ((Nat × Nat) × Nat) → Except ((Nat × Nat) × AccFail) (List Nat) × Dev
  | [] => (.ok [], d)
  | x :: r =>
    match d.agentRead a false x.2 n with
    | (.error e, d) => (.error (x.1, e), d)
    | (.ok bs, d) =>
      match d.lqryReads a n r with
      | (.error e, d) => (.error e, d)
      | (.ok l, d) => (.ok (leNat bs :: l), d)

/-- A query is accepted or turned away (R333): the status and the slot. -/
def Dev.queryAccept (d : Dev) (part ctx v : Nat) : Nat × Dev :=
  if !queryDescOk v then (2 ^ 24 * 0x10, d) else
  match (List.range 64).find? (fun q => !(Tab.has d.ledger.queries q)) with
  | none => (2 ^ 24 * 0x2D, d)
  | some q =>
    let p := d.part part
    let x : LQuery :=
      { part := part, ctx := ctx, desc := BitVec.ofNat 512 v, order := d.ledger.order
        beyond := p.cfg.queryBudget != 0 && decide (p.queriesUsed ≥ p.cfg.queryBudget)
        phase := .waiting, seen := [], items := [], scanned := 0, partial_ := false, time := 0 }
    let d := d.modLdg (fun l => { l with queries := Tab.put l.queries q x, order := l.order + 1 })
    (q, (d.modPart part (fun p => { p with queriesUsed := p.queriesUsed + 1 })).countGlobal 5 1)

/-- An LQRY of sub-operation `op`: each group present makes one request with what was read for it, and every active lane of
the group receives its result (R332). `bytes` is what is read at SRCA, none for RELEASE. -/
def runLqry (i : Issue) (op bytes : Nat) (f : Dev → Nat → Nat → Nat → Nat → Nat × Dev) (s : State) :
    Host.Outcome State Fault Refusal :=
  s.on (fun d => d.issue i (fun w => isOpc 0x68 w && (fld (subOf w) 15 14 == op || (op == 0 && fld (subOf w) 15 14 == 3)))
    (fun d st act =>
      let gs := groupLanes act
      let part := d.strandPart i.core st
      let ctx := d.strandCtx i.core st
      let addr := fun (e : Nat × Nat) => d.laneAddr i.core e.2 e.1 i.word 0
      let bad := if bytes = 0 then none else gs.find? (fun e => addr e % bytes != 0)
      match bad with
      | some e => d.coreFault i.core (st.one e) 0x04 (addr e)
      | none =>
        let r := if bytes = 0 then (.ok (gs.map (fun _ => 0)), d) else d.lqryReads (d.coreAgent i.core part ctx) bytes (gs.map (fun e => (e, addr e)))
        match r with
        | (.error x, d) => d.lqryFault i (st.one x.1) x.2
        | (.ok vs, d) =>
          let slot := fun (d : Dev) (e : Nat × Nat) => d.readW i.core e.2 e.1 (srcbOf i.word) % 64
          let (res, d) := (gs.zip vs).foldl (fun (r : Tab Nat × Dev) (e : (Nat × Nat) × Nat) =>
            let (x, d) := f r.2 part ctx (if op = 0 then 0 else slot r.2 e.1) e.2
            (Tab.put r.1 e.1.2 x, d)) ([], d)
          (d.writeLanes i.core act (dstOf i.word) 1 (fun _ g => Tab.get res g 0)).advance i.core i.strand))

/-- LQRY_QUERY (R333); a word with the reserved sub-operation issues under this row. -/
def execLqryQuery (i : Issue) (s : State) : Host.Outcome State Fault Refusal :=
  runLqry i 0 64 (fun d part ctx _ v => d.queryAccept part ctx v) s

/-- A slot that a partition holds and whose query has completed, or the status. -/
def Dev.heldSlot (d : Dev) (part q : Nat) : Except Nat LQuery :=
  match Tab.get? d.ledger.queries q with
  | none => .error 0x31
  | some x => if x.part != part then .error 0x31 else if x.phase != .complete then .error 0x2E else .ok x

/-- LQRY_RELEASE (R337). -/
def execLqryRelease (i : Issue) (s : State) : Host.Outcome State Fault Refusal :=
  runLqry i 1 0 (fun d part _ q _ =>
    match d.heldSlot part q with
    | .error e => (2 ^ 24 * e, d)
    | .ok _ => (0, d.slotRelease q)) s

/-- A write of a query's result buffer: dropped and counted where it fails (R334). -/
def Dev.resultWrite (d : Dev) (x : LQuery) (dva : Nat) (bs : List Byte) : Dev :=
  match d.agentWrite (d.ldgAgent x.part x.ctx 0) true (dva % 2 ^ 48) bs with
  | (.ok _, d) => d
  | (.error _, d) => d.violPart x.part 11

/-- The address of item `k` of a query. -/
def LQuery.itemDva (x : LQuery) (k : Nat) : Nat := x.f 255 208 + 64 + 16 * k

/-- A merge record drops the items it does not keep (R350). -/
def Dev.queryPrune (d : Dev) (q : Nat) (x : LQuery) (v : Nat) : Dev :=
  let drop := (x.items.zipIdx).filter (fun (e : LItem × Nat) => !bitOf v (128 + e.2))
  let d := drop.foldl (fun (d : Dev) (e : LItem × Nat) =>
    let d := if e.1.leased then d.ldgUnlease q e.1.idx else d
    d.resultWrite x (x.itemDva e.2) (toLe 6 0)) d
  d.modQuery q (fun x => { x with items := (x.items.zipIdx).map (fun (e : LItem × Nat) =>
    if bitOf v (128 + e.2) then e.1 else { e.1 with leased := false }) })

/-- LQRY_PRUNE (R337, R350). -/
def execLqryPrune (i : Issue) (s : State) : Host.Outcome State Fault Refusal :=
  runLqry i 2 32 (fun d part _ q v =>
    match d.heldSlot part q with
    | .error e => (2 ^ 24 * e, d)
    | .ok x => if fld v 255 192 != x.f 127 64 then (2 ^ 24 * 0x2E, d) else (0, d.queryPrune q x v)) s

/-- An entry is eligible for a query (R328). -/
def Dev.eligible (d : Dev) (x : LQuery) (e : LEntry) : Bool :=
  (e.st == .valid || e.st == .migrating) &&
  (match d.ldgStream x.part e.stream with
   | some s => !s.broken && s.set == x.f 199 192
   | none => false) &&
  decide (x.f 159 128 ≤ e.block) && (x.f 191 160 == 0 || decide (e.block < x.f 191 160))

/-- SCORE (R328). -/
def LQuery.score (x : LQuery) (sketch : BitVec 128) : Nat :=
  popcount 128 ((~~~ (BitVec.ofNat 128 (x.f 511 384) ^^^ sketch)) &&& BitVec.ofNat 128 (x.f 383 256)).toNat

def LQuery.scored (x : LQuery) (i : Nat) (e : LEntry) : LScored :=
  { idx := i, serial := e.serial, block := e.block, stream := e.stream, score := x.score e.sketch }

/-- The entries eligible for a query at present. -/
def Dev.eligibles (d : Dev) (x : LQuery) : List LScored :=
  (d.ledger.entries.filter (fun e => d.eligible x e.2)).map (fun e => x.scored e.1 e.2)

/-- QUERY_JOIN (R330, R363): an accepted query joins the sweep where fewer than 16 sweep; it is the first of its class, and
one beyond its partition's budget joins only when none within a budget waits. -/
def execQueryJoin (q : Nat) (s : State) : Host.Outcome State Fault Refusal :=
  s.on (fun d =>
    match Tab.get? d.ledger.queries q with
    | none => d
    | some x =>
      let waits := d.ledger.queries.filter (fun e => e.2.phase == .waiting)
      let first := !(waits.any (fun e => (e.2.beyond == x.beyond && decide (e.2.order < x.order)) || (x.beyond && !e.2.beyond)))
      if !d.running || x.phase != .waiting || !first || (d.ledger.queries.filter (fun e => e.2.phase == .joined)).length ≥ 16 then d
      else d.modQuery q (fun x => { x with phase := .joined, seen := d.eligibles x }))

/-- The order of R329. -/
def scoredBefore (a b : LScored) : Bool :=
  decide (a.score > b.score) || (a.score == b.score && (decide (a.block > b.block) ||
    (a.block == b.block && decide (a.stream ≤ b.stream))))

def insertScored (x : LScored) : List LScored → List LScored
  | [] => [x]
  | y :: r => if scoredBefore x y then x :: y :: r else y :: insertScored x r

/-- Sorted by R329. -/
def sortScored (l : List LScored) : List LScored := l.foldr insertScored []

/-- What the sweep scored (R331): the entries it saw at its start and that are still eligible; of those committed since, and
of those that left, an open part. The flag tells an entry that has left. -/
def Dev.sweepScored (d : Dev) (x : LQuery) : List (LScored × Bool) × Dev :=
  let now := d.eligibles x
  let same := fun (a b : LScored) => a.idx == b.idx && a.serial == b.serial
  let kept := now.filter (fun a => x.seen.any (same a))
  let new := now.filter (fun a => !(x.seen.any (same a)))
  let left := x.seen.filter (fun a => !(now.any (same a)))
  let gone := left.filter (fun a => match Tab.get? d.ledger.entries a.idx with
    | some e => !(e.serial == a.serial && (e.st == .valid || e.st == .migrating))
    | none => true)
  let choice := fun (k : Nat) => Config.free (d.free + k) % 2 == 1
  let new := ((new.zipIdx).filter (fun (e : LScored × Nat) => choice e.2)).map (·.1)
  let gone := ((gone.zipIdx).filter (fun (e : LScored × Nat) => choice (now.length + e.2))).map (·.1)
  ((kept ++ new).map (fun a => (a, false)) ++ gone.map (fun a => (a, true)), { d with free := d.free + now.length + x.seen.length })

/-- The lines of a block prefetched (R335), from `dva`; answers the lines requested and whether the block is skipped. -/
def Dev.prefetchLines (d : Dev) (a : Agent) (dva : Nat) : Nat → List Nat × Bool × Dev
  | 0 => ([], false, d)
  | n + 1 =>
    match d.xlate a dva .read with
    | (.error _, d) => ([], true, d)
    | (.ok (pa, attr), d) =>
      if !allocsOnRead attr then ([], true, d) else
      let line := pa / 128
      let d := d.ownerShares line
      let d := if Tab.has d.mem.vault line || Tab.has d.mem.missRegs line then d else
        { d with mem := { d.mem with missRegs := Tab.put d.mem.missRegs line { req := a.rq.id, attr := attr, waiters := [] } } }
      let (l, skip, d) := d.prefetchLines a (dva + 128) n
      (line :: l, skip, d)

/-- An item takes its lease and, where asked for, its prefetch. -/
def Dev.takeItem (d : Dev) (x : LQuery) (a : LScored) : Option LItem × Dev :=
  match Tab.get? d.ledger.entries a.idx with
  | none => (none, d)
  | some e =>
    let d := d.putEnt a.idx { e with leases := e.leases + 1, hits := satAdd 8 e.hits 1, lastUse := d.lastUse }
    let st := (Tab.get? d.ledger.streams e.stream)
    let size := 2 ^ ((st.map (·.sizeLog2)).getD 6)
    let ag := d.ldgAgent x.part ((st.map (·.ctx)).getD x.ctx) (bankOf a.idx)
    let (lines, skip, d) :=
      if x.f 24 24 = 0 then ([], false, d)
      else if d.allocMask ag.rq.id = 0 then ([], true, d)
      else d.prefetchLines ag (alignDown e.addr 128) (ceilDiv size 128)
    (some { idx := a.idx, block := e.block, stream := e.stream, score := a.score, tier := e.tier, addr := e.addr, leased := true,
            lines := lines, skipped := skip }, d)

def Dev.takeItems (d : Dev) (x : LQuery) : List LScored → List LItem × Dev
  | [] => ([], d)
  | a :: r =>
    let (i, d) := d.takeItem x a
    let (l, d) := d.takeItems x r
    (i.toList ++ l, d)

/-- PSTAT of an item at present (Table 9-11). -/
def Dev.pstat (d : Dev) (x : LQuery) (i : LItem) : Nat :=
  if x.f 24 24 = 0 then 0 else if i.skipped then 3 else if i.lines.any (fun l => Tab.has d.mem.missRegs l) then 1 else 2

/-- The 16 bytes of an item. -/
def Dev.itemBytes (d : Dev) (x : LQuery) (i : LItem) : List Byte :=
  toLe 16 (i.addr + at_ 64 i.stream + at_ 84 i.tier + at_ 86 (d.pstat x i) + at_ 88 i.score + at_ 96 i.block)

/-- The result buffer written, 64 bytes a write, the items first and the header last (R334). -/
def Dev.writeResults (d : Dev) (q : Nat) (x : LQuery) : Dev :=
  let items := x.items.flatMap (d.itemBytes x)
  let chunks := (List.range (ceilDiv items.length 64)).map (fun k => (x.f 255 208 + 64 + 64 * k, (items.drop (64 * k)).take 64))
  let n := x.items.length
  let drop := x.items.any (fun i => d.pstat x i == 3)
  let header := at_ 448 (x.f 127 64) + at_ 384 x.time + at_ 352 (x.scanned % 2 ^ 32) + at_ 312 n +
    at_ 304 ((x.items.getLast?.map (·.score)).getD 0) + at_ 303 (b2n x.partial_) + at_ 302 (b2n drop) + at_ 288 q
  (chunks ++ [(x.f 255 208, toLe 64 header)]).foldl (fun (d : Dev) (e : Nat × List Byte) => d.resultWrite x e.1 e.2) d

/-- SWEEP_END (R329, R331, R334, R335): the selection takes its leases and prefetches; the results are written, unless they
are to show the prefetches' final state. -/
def execSweepEnd (q : Nat) (s : State) : Host.Outcome State Fault Refusal :=
  s.on (fun d =>
    match Tab.get? d.ledger.queries q with
    | none => d
    | some x =>
      if !d.running || x.phase != .joined then d else
      let (all, d) := d.sweepScored x
      let good := all.filter (fun e => decide (e.1.score ≥ x.f 47 40))
      let gone := fun (a : LScored) => good.any (fun e => e.2 && e.1 == a)
      let sel := (sortScored (good.map (·.1))).take (x.f 31 25)
      let (items, d) := d.takeItems x (sel.filter (fun a => !gone a))
      let x := { x with phase := .swept, items := items, scanned := all.length, partial_ := sel.any gone, time := d.time.ts,
                        seen := [] }
      let d := d.modLdg (fun l => { l with queries := Tab.put l.queries q x })
      if x.f 23 23 = 1 then d else d.writeResults q x)

/-- QUERY_COMPLETE (R336): with WAITFILL, only once every requested line has filled or been dropped. -/
def execQueryComplete (q : Nat) (s : State) : Host.Outcome State Fault Refusal :=
  s.on (fun d =>
    match Tab.get? d.ledger.queries q with
    | none => d
    | some x =>
      let pending := x.items.any (fun i => i.lines.any (fun l => Tab.has d.mem.missRegs l))
      if !d.running || x.phase != .swept || (x.f 23 23 == 1 && pending) then d else
      let d := if x.f 23 23 = 1 then d.writeResults q x else d
      let d := if x.f 49 49 = 1 then d.agentSignal .ledger x.part (x.f 63 50) true 1 else d
      d.modQuery q (fun x => { x with phase := .complete }))

/-- LDG_RELEASE (R338). -/
def execLdgRelease (x : CmdId) (s : State) : Host.Outcome State Fault Refusal :=
  runRing x 0x34 (fun d c _ =>
    if c.bit 262 then
      let qs := (d.ledger.queries.filter (fun e => e.2.part == c.part && e.2.phase == .complete)).map (·.1)
      (qs.foldl (fun (d : Dev) q => d.slotRelease q) d).cmdDone x 0 qs.length
    else
      match d.heldSlot c.part (c.f 261 256) with
      | .error e => d.cmdDone x e 0
      | .ok _ => (d.slotRelease (c.f 261 256)).cmdDone x 0 1) s

/-! ### Migration (R343) -/

/-- New storage for a migration: DVA, host, minted, pool; or the status. -/
def Dev.migStorage (d : Dev) (st : LStream) (dst : Nat) : Except Nat (Nat × Bool × Bool × Nat) × Dev :=
  if dst = 0 then
    match d.poolFor st.part 3 st.sizeLog2 with
    | none => (.error 0x02, d)
    | some p =>
      match d.mintCall st.part p 3 with
      | (none, d) => (.error 0x02, d)
      | (some dva, d) => (.ok (dva, false, true, p), d)
  else
    match d.suppliedOk st dst with
    | (none, d) => (.error 0x30, d)
    | (some host, d) => (.ok (dst, host, false, 0), d)

/-- LDG_MIGRATE (R343). -/
def execLdgMigrate (x : CmdId) (s : State) : Host.Outcome State Fault Refusal :=
  runRing x 0x32 (fun d c _ =>
    let n := c.f 265 256
    match d.ldgStream c.part n with
    | none => d.cmdDone x 0x28 0
    | some st =>
      if st.broken then d.cmdDone x 0x2F 0 else
      match d.ldgFind n (c.f 351 320) with
      | none => d.cmdDone x 0x2A 0
      | some (i, e) =>
        if e.st != .valid then d.cmdDone x 0x2A 0 else
        match d.migStorage st (c.f 399 352) with
        | (.error k, d) => d.cmdDone x k 0
        | (.ok (dva, host, minted, pool), d) =>
          let m : LMigration :=
            { cmd := x, part := c.part, ctx := st.ctx, idx := i, size := 2 ^ st.sizeLog2, addr := dva, tier := b2n host,
              minted := minted, pool := pool, switched := false, slots := [], old := e.addr }
          ((d.modEnt i (fun e => { e with st := .migrating })).modLdg (fun l => { l with migrations := l.migrations ++ [m] })).cmdRuns
            x) s

/-- The slots that hold a lease on an entry. -/
def Dev.leaseSlots (d : Dev) (idx : Nat) : List Nat :=
  (d.ledger.queries.filter (fun q => q.2.items.any (fun i => i.idx == idx && i.leased))).map (·.1)

/-- The entry switches to its new storage, and the migration keeps the old. -/
def Dev.migSwitch (d : Dev) (m : LMigration) (e : LEntry) : Dev :=
  let d := d.putEnt m.idx { e with st := .valid, addr := m.addr, tier := m.tier, minted := m.minted, pool := m.pool }
  let m' := { m with switched := true, slots := d.leaseSlots m.idx, addr := e.addr, tier := e.tier, minted := e.minted,
                     pool := e.pool }
  (d.modLdg (fun l => { l with migrations := l.migrations.map (fun x => if x = m then m' else x) })).migFinish

/-- MIGRATION_COPY_COMPLETE (R343): migration `k` copies its block and switches, where a switch record is free. -/
def execMigrationCopyComplete (k : Nat) (s : State) : Host.Outcome State Fault Refusal :=
  s.on (fun d =>
    match d.ledger.migrations[k]? with
    | none => d
    | some m =>
      if !d.running || m.switched || (d.ledger.migrations.filter (·.switched)).length ≥ 64 then d else
      match Tab.get? d.ledger.entries m.idx with
      | none => d
      | some e =>
        let a := d.ldgAgent m.part m.ctx (bankOf m.idx)
        match d.agentRead a true e.addr m.size with
        | (.error (.poison p), d) => d.agentFault a m.part (.poison p)
        | (.error _, d) => d.migAbandon m.idx 0x30
        | (.ok bs, d) =>
          match d.agentWrite a true m.addr bs with
          | (.error _, d) => d.migAbandon m.idx 0x30
          | (.ok _, d) => d.migSwitch m e)

/-! ### Export, import and reconciliation (R344, R346) -/

/-- The 32-byte image of an entry, LEASES 0 (Table 9-1). -/
def LEntry.image (e : LEntry) : Nat :=
  let st := match e.st with | .reserved => 1 | .valid => 2 | .migrating => 3 | .retired => 4 | .broken => 5
  at_ 128 e.sketch.toNat + at_ 86 (e.addr / 64) + at_ 84 e.tier + at_ 81 st + at_ 80 (b2n e.minted) + at_ 77 e.pool +
    at_ 64 e.stream + at_ 32 e.block + at_ 16 e.lastUse + at_ 8 e.hits

def insertBlock (x : LEntry) : List LEntry → List LEntry
  | [] => [x]
  | y :: r => if x.block ≤ y.block then x :: y :: r else y :: insertBlock x r

/-- One record imported: the status of the first check that fails, or 0. -/
def Dev.importOne (d : Dev) (part n v : Nat) : Nat × Dev :=
  let block := fld v 63 32
  match d.insertCheck part n block with
  | .error e => (e, d)
  | .ok st =>
    match d.suppliedOk st (fld v 127 86 * 64) with
    | (none, d) => (0x30, d)
    | (some host, d) =>
      match d.ldgFree with
      | none => (0x2B, d)
      | some i =>
        (0, (d.newEntry (LEntry.fresh n block (fld v 127 86 * 64) host false 0)).ldgCommitAt i (BitVec.ofNat 128 (v / 2 ^ 128)))

/-- Records imported in order from `dva`; stops at the first that fails. -/
def Dev.importMany (d : Dev) (x : CmdId) (a : Agent) (part n dva done : Nat) : Nat → Dev
  | 0 => d.cmdDone x 0 done
  | k + 1 =>
    match d.agentRead a true (dva % 2 ^ 48) 32 with
    | (.error e, d) => d.agentFault a part e
    | (.ok bs, d) =>
      match d.importOne part n (leNat bs) with
      | (0, d) => d.importMany x a part n (dva + 32) (done + 1) k
      | (st, d) => d.cmdDone x st done

/-- LDG_TRANSFER (R344). -/
def execLdgTransfer (x : CmdId) (s : State) : Host.Outcome State Fault Refusal :=
  runRing x 0x33 (fun d c _ =>
    let n := c.f 265 256
    let count := c.f 416 400
    let dva := c.f 399 352
    if count = 0 || count > 65536 || dva % 32 != 0 then d.cmdDone x 0x10 0 else
    match d.ldgStream c.part n with
    | none => d.cmdDone x 0x28 0
    | some st =>
      if st.broken then d.cmdDone x 0x2F 0 else
      let a := d.cmdAgent c st.ctx
      if c.bit 320 then d.importMany x a c.part n dva 0 count else
      let es := ((d.ldgRange n (c.f 479 448) (c.f 511 480)).map (·.2)).filter (fun e => e.st == .valid || e.st == .migrating)
      let es := (es.foldr insertBlock []).take count
      match d.agentWrite a true dva (es.flatMap (fun e => toLe 32 e.image)) with
      | (.error e, d) => d.agentFault a c.part e
      | (.ok _, d) => d.cmdDone x 0 es.length) s

/-- A table entry describes a ledger pool of a partition. -/
def Dev.ledgerPool (d : Dev) (p v : Nat) : Bool :=
  bitOf v 255 && bitOf v 254 && poolDescOk v && (d.ctx (fld v 135 128)).valid && (d.ctx (fld v 135 128)).part == p

/-- The object of a pool descriptor that storage at `addr` is. -/
def poolObject (v addr : Nat) : Option Nat :=
  let size := 2 ^ fld v 250 246
  let base := fld v 47 0
  if base ≤ addr && (addr - base) % size == 0 && decide ((addr - base) / size < fld v 159 136) then some ((addr - base) / size)
  else none

/-- The VALID minted entries of a partition in pool `i`. -/
def Dev.mintedIn (d : Dev) (p i : Nat) : List (Nat × LEntry) :=
  d.ledger.entries.filter (fun e => e.2.st == .valid && e.2.minted && e.2.pool == i &&
    (Tab.get? d.ledger.streams e.2.stream).any (fun s => s.part == p))

/-- The bitmap of a pool whose allocated objects are `objs`. -/
def bitmapBytes (count : Nat) (objs : List Nat) : List Byte :=
  toLe (ceilDiv count 512 * 64) ((objs.map (fun k => 2 ^ k)).sum)

/-- Pools `i` from the list rebuilt: marked objects, entries made BROKEN. -/
def Dev.reconcile (d : Dev) (p : Nat) (descs : List Nat) : List Nat → Except (Agent × AccFail) (Nat × Nat) × Dev
  | [] => (.ok (0, 0), d)
  | i :: rest =>
    let v := descs.getD i 0
    let es := d.mintedIn p i
    let use := d.ledgerPool p v
    let objs := if use then (es.filterMap (fun e => poolObject v e.2.addr)).eraseDups else []
    let bad := es.filter (fun e => !use || (poolObject v e.2.addr).isNone)
    let a := { mintAgent (fld v 135 128) with unit := 2 }
    match (if use then d.agentWrite a false (fld v 111 64) (bitmapBytes (fld v 159 136) objs) else (.ok (), d)) with
    | (.error e, d) => (.error (a, e), d)
    | (.ok _, d) =>
      let d := bad.foldl (fun (d : Dev) e => d.modEnt e.1 (fun x => { x with st := .broken })) d
      match d.reconcile p descs rest with
      | (.error e, d) => (.error e, d)
      | (.ok (m, b), d) => (.ok (m + objs.length, b + bad.length), d)

/-- LDG_RECONCILE (R346). -/
def execLdgReconcile (x : CmdId) (s : State) : Host.Outcome State Fault Refusal :=
  runRing x 0x35 (fun d c ctx =>
    let t := c.f 303 256
    if t % 64 != 0 then d.cmdDone x 0x10 0
    else if (List.range 8).any (fun i => (d.pool c.part i).valid) then d.cmdDone x 0x2E 0
    else
      let a := d.cmdAgent c ctx
      match d.agentRead a true t 256 with
      | (.error e, d) => d.agentFault a c.part e
      | (.ok bs, d) =>
        let descs := (List.range 8).map (fun i => leNat ((bs.drop (32 * i)).take 32))
        match d.reconcile c.part descs (List.range 8) with
        | (.error (a, e), d) => d.agentFault a c.part e
        | (.ok (m, b), d) => d.cmdDone x 0 (m + 2 ^ 32 * b)) s

/-! ### Scrubbing (R318) -/

/-- An uncorrectable error in an entry. -/
def Dev.ldgBreak (d : Dev) (idx : Nat) : Dev :=
  match Tab.get? d.ledger.entries idx with
  | none => d
  | some e =>
    let d := if e.st == .migrating then d.migAbandon idx 0x2A else d
    let part := ((Tab.get? d.ledger.streams e.stream).map (·.part)).getD 0
    (d.modEnt idx (fun e => { e with st := .broken })).violPart part 10

/-- LEDGER_SCRUB (R318): a bank reads its next row of 32 entries. An error at `k` below 32 is in entry `k` of the row; one at
32 + n is in the descriptor or the index of stream `n`. -/
def execLedgerScrub (bank : Nat) (errs : List (Nat × Ecc)) (s : State) : Host.Outcome State Fault Refusal :=
  s.on (fun d =>
    if !(bank < 16 && d.plan.banks.getLsbD bank) then d else
    let row := Tab.get d.ledger.scrub bank 0
    let d := d.modLdg (fun l => { l with scrub := Tab.put l.scrub bank ((row + 1) % 4096) })
    errs.foldl (fun (d : Dev) (e : Nat × Ecc) =>
      match e.2 with
      | .clean => d
      | .corrected => d.countGlobal 7 1
      | .uncorrectable =>
        if e.1 < 32 then d.ldgBreak (bank * 131072 + row * 32 + e.1)
        else d.modLdg (fun l => { l with streams := Tab.mod l.streams (e.1 - 32) (fun s => { s with broken := true }) })) d)

/-! ### A data-plane reset (R345) -/

/-- What a data-plane reset leaves of an entry. -/
def LEntry.afterReset (e : LEntry) : Option LEntry :=
  match e.st with
  | .reserved => none
  | .retired => none
  | .migrating => some { e with st := .valid, leases := 0 }
  | _ => some { e with leases := 0 }

/-- The ledger after a data-plane reset. A stream whose DROP the reset discards is dropped no more. -/
def Ledger.afterReset (l : Ledger) : Ledger :=
  { l with entries := l.entries.filterMap (fun e => (e.2.afterReset).map (fun x => (e.1, x)))
           streams := Tab.mapv l.streams (fun s => { s with dropping := false })
           queries := [], migrations := [], evicts := [] }

end Sys2Proof.Machine
end

