-- ==== Sys2Proof/Machine/Geometry.lean ====
section
/-! DEFINITION. Primitive assembly, clipping, coverage and interpolation (11 R385, R386, R395), by exact fractions. -/

namespace Sys2Proof.Machine

/-- A vertex in clip space, with its barycentrics against the primitive's vertices 1 and 2. -/
structure ClipVert where
  x : Q
  y : Q
  z : Q
  w : Q
  b1 : Q
  b2 : Q
  deriving DecidableEq, Repr

/-- A vertex on the screen: the pixel position, depth, 1/w, and the barycentrics over w. All are linear in the pixel
position. `nx`, `ny` are its x and y after division. -/
structure ScrVert where
  nx : Q
  ny : Q
  x : Q
  y : Q
  z : Q
  q : Q
  b1 : Q
  b2 : Q
  deriving DecidableEq, Repr

/-- `a + t (b − a)`. -/
def lerpQ (t a b : Q) : Q := Q.add a (Q.mul t (Q.sub b a))

def ClipVert.mix (a b : ClipVert) (t : Q) : ClipVert :=
  { x := lerpQ t a.x b.x, y := lerpQ t a.y b.y, z := lerpQ t a.z b.z, w := lerpQ t a.w b.w, b1 := lerpQ t a.b1 b.b1,
    b2 := lerpQ t a.b2 b.b2 }

/-- To the nearest 1/256, ties to even. -/
def snap256 (a : Q) : Q := mkQ (Q.mul a (qInt 256)).roundEven 256

def ScrVert.mix (a b : ScrVert) (t : Q) : ScrVert :=
  { nx := lerpQ t a.nx b.nx, ny := lerpQ t a.ny b.ny, x := snap256 (lerpQ t a.x b.x), y := snap256 (lerpQ t a.y b.y),
    z := lerpQ t a.z b.z, q := lerpQ t a.q b.q, b1 := lerpQ t a.b1 b.b1, b2 := lerpQ t a.b2 b.b2 }

/-- The part of a polygon where `f` is not negative. -/
def clipBy {α : Type} (f : α → Q) (mix : α → α → Q → α) (p : List α) : List α :=
  (p.zip (p.drop 1 ++ p.take 1)).flatMap (fun e =>
    let fa := f e.1
    let fb := f e.2
    (if fa.isNeg then [] else [e.1]) ++
    (if (fa.isNeg && Q.lt (qInt 0) fb) || (fb.isNeg && Q.lt (qInt 0) fa) then [mix e.1 e.2 (Q.div fa (Q.sub fa fb))] else []))

/-- A quotient as an FP32 value; one too great for FP32 is kept exact. -/
def divF32 (a b : Q) : Q :=
  let x := Q.div a b
  let c := f32OfQ x
  if c % 2 ^ 31 ≥ fmtF32.infBits then x else qOfF32 c

/-- screen(v) (R385). -/
def toScreen (width height : Nat) (v : ClipVert) : ScrVert :=
  let x := divF32 v.x v.w
  let y := divF32 v.y v.w
  let q := Q.div (qInt 1) v.w
  { nx := x, ny := y
    x := snap256 (Q.mul (Q.add x (qInt 1)) (mkQ width 2)), y := snap256 (Q.mul (Q.sub (qInt 1) y) (mkQ height 2))
    z := divF32 v.z v.w, q := q, b1 := Q.mul v.b1 q, b2 := Q.mul v.b2 q }

/-- Twice the signed area of a polygon in the plane after division. -/
def ndcArea (p : List ScrVert) : Q :=
  (p.zip (p.drop 1 ++ p.take 1)).foldl (fun (s : Q) (e : ScrVert × ScrVert) =>
    Q.add s (Q.sub (Q.mul e.1.nx e.2.ny) (Q.mul e.2.nx e.1.ny))) (qInt 0)

/-- A primitive from its vertices' words: the clipped polygon on the screen and whether it faces front; none where it is
culled (R386). -/
def assemble (width height cull : Nat) (clockwise : Bool) (vs : List (List Nat)) : Option (List ScrVert × Bool) :=
  if vs.any (fun v => v.any (fun w => !(fmtF32.decode w).isFin)) then none else
  let vert := fun (k : Nat) =>
    let v := vs.getD k []
    let c := fun (i : Nat) => qOfF32 (v.getD i 0)
    ({ x := c 0, y := c 1, z := c 2, w := c 3, b1 := qNat (if k = 1 then 1 else 0), b2 := qNat (if k = 2 then 1 else 0) } :
      ClipVert)
  let p := clipBy (fun (v : ClipVert) => v.z) ClipVert.mix [vert 0, vert 1, vert 2]
  let p := clipBy (fun (v : ClipVert) => Q.sub v.w (mkQ 1 (2 ^ 20))) ClipVert.mix p
  let s := p.map (toScreen width height)
  let area := ndcArea s
  let front := clockwise == area.isNeg
  let lim := qInt 16384
  let s := clipBy (fun (v : ScrVert) => Q.sub lim v.x) ScrVert.mix s
  let s := clipBy (fun (v : ScrVert) => Q.add v.x lim) ScrVert.mix s
  let s := clipBy (fun (v : ScrVert) => Q.sub lim v.y) ScrVert.mix s
  let s := clipBy (fun (v : ScrVert) => Q.add v.y lim) ScrVert.mix s
  if area.isZero || (cull = 1 && !front) || (cull = 2 && front) || s.length < 3 then none else some (s, front)

/-- The fan of a polygon. -/
def fanOf : List ScrVert → List (ScrVert × ScrVert × ScrVert)
  | a :: r => (r.zip (r.drop 1)).map (fun e => (a, e.1, e.2))
  | [] => []

/-- The bounds of a polygon: least x, greatest x, least y, greatest y. -/
def boundsOf (p : List ScrVert) : Q × Q × Q × Q :=
  match p with
  | [] => (qInt 1, qInt 0, qInt 1, qInt 0)
  | v :: r => r.foldl (fun (b : Q × Q × Q × Q) (v : ScrVert) =>
      (Q.min b.1 v.x, Q.max b.2.1 v.x, Q.min b.2.2.1 v.y, Q.max b.2.2.2 v.y)) (v.x, v.x, v.y, v.y)

/-- The tiles of a grid of `nx` by `ny` that a polygon's bounds overlap, by index. -/
def tilesOf (nx ny : Nat) (p : List ScrVert) : List Nat :=
  let (x0, x1, y0, y1) := boundsOf p
  let lo := fun (a : Q) => (max 0 (a.floor / 32)).toNat
  let hi := fun (a : Q) (n : Nat) => (min (n : Int) (a.floor / 32 + 1)).toNat
  ((List.range' (lo y0) (hi y1 ny - lo y0))).flatMap (fun ty =>
    (List.range' (lo x0) (hi x1 nx - lo x0)).map (fun tx => ty * nx + tx))

/-- The edge function of (a, b) at (x, y): positive to the inner side of a triangle of positive area. -/
def edgeAt (a b : ScrVert) (x y : Q) : Q :=
  Q.sub (Q.mul (Q.sub b.x a.x) (Q.sub y a.y)) (Q.mul (Q.sub b.y a.y) (Q.sub x a.x))

/-- A point lies on the inner side of an edge, or on it where it is a top or left edge (R395). -/
def edgeCovers (a b : ScrVert) (x y : Q) : Bool :=
  let e := edgeAt a b x y
  Q.lt (qInt 0) e || (e.isZero && (Q.lt b.y a.y || (a.y == b.y && Q.lt a.x b.x)))

/-- A triangle turned so that its area on the screen is positive; none where it is zero. -/
def turned (t : ScrVert × ScrVert × ScrVert) : Option (ScrVert × ScrVert × ScrVert) :=
  let (a, b, c) := t
  let e := edgeAt a b c.x c.y
  if e.isZero then none else if e.isNeg then some (a, c, b) else some (a, b, c)

/-- The centre of pixel (x, y). -/
def centre (x y : Nat) : Q × Q := (mkQ (2 * x + 1 : Nat) 2, mkQ (2 * y + 1 : Nat) 2)

def covers (t : ScrVert × ScrVert × ScrVert) (x y : Nat) : Bool :=
  let (a, b, c) := t
  let (px, py) := centre x y
  edgeCovers a b px py && edgeCovers b c px py && edgeCovers c a px py

/-- What a triangle gives at a pixel's centre: depth, and the perspective-correct barycentrics of vertices 1 and 2. -/
def interpolate (t : ScrVert × ScrVert × ScrVert) (x y : Nat) : Q × Q × Q :=
  let (a, b, c) := t
  let (px, py) := centre x y
  let area := edgeAt a b c.x c.y
  let la := Q.div (edgeAt b c px py) area
  let lb := Q.div (edgeAt c a px py) area
  let lc := Q.div (edgeAt a b px py) area
  let sum := fun (f : ScrVert → Q) => Q.add (Q.add (Q.mul la (f a)) (Q.mul lb (f b))) (Q.mul lc (f c))
  let q := sum (·.q)
  (sum (·.z), Q.div (sum (·.b1)) q, Q.div (sum (·.b2)) q)

/-- An attribute's component at given barycentrics. -/
def attrAt (vs : List (List Nat)) (k : Nat) (b1 b2 : Q) : Q :=
  let v := fun (i : Nat) => qOfF32 ((vs.getD i []).getD k 0)
  let b0 := Q.sub (Q.sub (qInt 1) b1) b2
  Q.add (Q.add (Q.mul b0 (v 0)) (Q.mul b1 (v 1))) (Q.mul b2 (v 2))

end Sys2Proof.Machine
end

