-- ==== Sys2Proof/Machine/Raster.lean ====
section
/-! DEFINITION. Render passes: binning, incremental flushes, tiles and their fragments (11 R380-R397, R405, R409). -/

namespace Sys2Proof.Machine

/-- Why a pass stops: a failed access, malformed render state at a DVA, or a launch that cannot be placed. -/
inductive RenderErr where
  | acc (x : AccFail)
  | state (dva : Nat)
  | shape (entry : Nat)
  deriving DecidableEq, Repr

/-- The answer of one part of a pass: nothing wrong, the heap empty, or an error. -/
inductive RenderEnd where
  | ok
  | dry
  | err (e : RenderErr)
  deriving DecidableEq, Repr

/-- An access whose failure stops the pass. -/
def ofAcc {α : Type} (r : Except AccFail α × Dev) : Except RenderErr α × Dev :=
  match r with
  | (.ok x, d) => (.ok x, d)
  | (.error e, d) => (.error (.acc e), d)

/-- `f` done for every element in order, until one fails. -/
def tryAll {α : Type} (f : Dev → α → Except RenderErr Unit × Dev) : List α → Dev → Except RenderErr Unit × Dev
  | [], d => (.ok (), d)
  | x :: r, d =>
    match f d x with
    | (.error e, d) => (.error e, d)
    | (.ok _, d) => tryAll f r d

/-! ### The pass descriptor (11 Tables 11-3, 11-4) -/

def Pass.h (p : Pass) (hi lo : Nat) : Nat := fld p.hdr.toNat hi lo
def Pass.width (p : Pass) : Nat := p.h 239 226
def Pass.height (p : Pass) : Nat := p.h 225 212
def Pass.depthTest (p : Pass) : Bool := p.hdr.getLsbD 388
def Pass.nx (p : Pass) : Nat := ceilDiv p.width 32
def Pass.tileCount (p : Pass) : Nat := p.nx * ceilDiv p.height 32

def tgtAddr (t : BitVec 256) : Nat := fld t.toNat 191 144
def tgtPitch (t : BitVec 256) : Nat := fld t.toNat 143 126
def tgtSize (t : BitVec 256) : Nat := 2 ^ fld t.toNat 125 123

/-- The header is well formed (R409). -/
def headerOk (h : Nat) : Bool :=
  fld h 387 384 == 0 && fld h 211 192 == 0 && fld h 127 0 == 0 && fld h 397 396 != 3 && fld h 395 394 != 3 &&
  fld h 255 240 != 0 && decide (1 ≤ fld h 239 226) && decide (fld h 239 226 ≤ 8192) && decide (1 ≤ fld h 225 212) &&
  decide (fld h 225 212 ≤ 8192) && fld h 511 464 % 64 == 0 && fld h 463 416 % 64 == 0 && fld h 351 304 % 64 == 0 &&
  fld h 303 256 % 128 == 0 && !(fld h 463 416 == 0 && (fld h 395 394 == 1 || bitOf h 393))

/-- A colour target record is well formed (R409). -/
def targetOk (width : Nat) (t : BitVec 256) : Bool :=
  fld t.toNat 119 0 == 0 && decide (fld t.toNat 125 123 ≤ 4) && fld t.toNat 122 121 != 3 &&
  (tgtAddr t == 0 || (tgtAddr t % tgtSize t == 0 && decide (width * tgtSize t ≤ tgtPitch t)))

/-- The targets in use with the offset of each plane in the core's render region (R393, Table 11-9). -/
def Pass.planes (p : Pass) : List (BitVec 256 × Nat) :=
  ((p.targets.filter (fun t => tgtAddr t != 0)).foldl
    (fun (r : List (BitVec 256 × Nat) × Nat) t => (r.1 ++ [(t, r.2)], r.2 + 1024 * tgtSize t)) ([], 0x9000)).1

def planeBytes (l : List (BitVec 256)) : Nat :=
  ((l.filter (fun t => tgtAddr t != 0)).map (fun t => 1024 * tgtSize t)).sum

/-- The depth plane is in use. -/
def Pass.hasDepth (p : Pass) : Bool := p.depthTest || p.h 463 416 != 0

/-- The tiler's agent: UNIT 3 (R381). -/
def Dev.tilerAgent (d : Dev) (part ctx : Nat) : Agent := { rq := d.rqPart part, unit := 3, index := 0, ctx := ctx }

/-- The raster and texture units' agent of a cluster: UNIT 4. -/
def Dev.pixelAgent (d : Dev) (part ctx cl : Nat) : Agent := { rq := d.rqPart part, unit := 4, index := cl, ctx := ctx }

/-- The job fault of an error, raised by an agent (R409, R56, Table 5-6). -/
def Dev.renderFault (d : Dev) (a : Agent) (part : Nat) (e : RenderErr) : Dev :=
  match e with
  | .acc x => d.agentFault a part x
  | .state dva => d.raise { code := 0x0E, unit := a.unit, index := a.index, part := part, func := (d.part part).cfg.func,
                            ctx := a.ctx, pc := 0, group := 0, addr := dva }
  | .shape entry => d.launchShape a.unit a.index part a.ctx entry

def Dev.putPass (d : Dev) (p : Pass) : Dev := { d with render := { d.render with passes := Tab.put d.render.passes p.part p } }

/-! ### Draws and primitives (11 Table 11-5, R384, R385) -/

/-- The entries of a binding list: bindings 0 to 3 of a 128-byte draw record. -/
def drawBinding (r k : Nat) : Nat := fld r (512 + 128 * k + 127) (512 + 128 * k)

/-- Bytes 0 to 63 of a draw record are well formed (R409). -/
def drawOk (r : Nat) : Bool :=
  fld r 219 0 == 0 && fld r 511 464 % 16 == 0 && fld r 463 416 % (if bitOf r 244 then 4 else 2) == 0 &&
  fld r 415 368 % 64 == 0 && fld r 367 320 % 8 == 0 && decide (4 ≤ fld r 255 248) && decide (fld r 247 245 ≤ 4) &&
  fld r 242 241 != 3 && fld r 239 236 != 15 && decide (fld r 235 228 ≤ 224) && decide (1 ≤ fld r 224 220) &&
  decide (fld r 224 220 ≤ 16) && decide (16 + 8 * fld r 247 245 ≤ 4 * fld r 255 248)

/-- Draw record `k`, checked: itself first, then its bindings in order. -/
def Dev.readDraw (d : Dev) (a : Agent) (p : Pass) (k : Nat) : Except RenderErr Nat × Dev :=
  let dva := (p.h 303 256 + 128 * k) % 2 ^ 48
  match d.agentRead a false dva 128 with
  | (.error e, d) => (.error (.acc e), d)
  | (.ok bs, d) =>
    let r := leNat bs
    if !drawOk r then (.error (.state dva), d) else
    match (List.range 4).find? (fun i => !bindingOk (drawBinding r i) (fld r 247 245)) with
    | some i => (.error (.state ((dva + 64 + 16 * i) % 2 ^ 48)), d)
    | none => (.ok r, d)

/-- The three index positions of primitive `i`, from FIRST (R385). -/
def primIndices (r i : Nat) : List Nat :=
  let k := fld r 319 288
  if !bitOf r 243 then [k + 3 * i, k + 3 * i + 1, k + 3 * i + 2]
  else if i % 2 = 0 then [k + i, k + i + 1, k + i + 2] else [k + i + 1, k + i, k + i + 2]

/-- One vertex: its clip-space words and attribute words. -/
def Dev.readVertex (d : Dev) (a : Agent) (r j : Nat) : Except RenderErr (List Nat) × Dev :=
  let sz := if bitOf r 244 then 4 else 2
  match (if fld r 463 416 = 0 then (.ok (toLe 8 j), d) else d.agentRead a false ((fld r 463 416 + sz * j) % 2 ^ 48) sz) with
  | (.error e, d) => (.error (.acc e), d)
  | (.ok bs, d) =>
    let n := 16 + 8 * fld r 247 245
    match d.agentRead a false ((fld r 511 464 + 4 * fld r 255 248 * leNat bs) % 2 ^ 48) n with
    | (.error e, d) => (.error (.acc e), d)
    | (.ok v, d) => (.ok ((List.range (n / 4)).map (fun k => leNat ((v.drop (4 * k)).take 4))), d)

def Dev.readVertices (d : Dev) (a : Agent) (r : Nat) : List Nat → Except RenderErr (List (List Nat)) × Dev
  | [] => (.ok [], d)
  | j :: rest =>
    match d.readVertex a r j with
    | (.error e, d) => (.error e, d)
    | (.ok v, d) =>
      match d.readVertices a r rest with
      | (.error e, d) => (.error e, d)
      | (.ok l, d) => (.ok (v :: l), d)

/-- The clipped polygon of a primitive and its facing, none where it is culled. -/
def Pass.polygon (p : Pass) (r : Nat) (vs : List (List Nat)) : Option (List ScrVert × Bool) :=
  assemble p.width p.height (fld r 242 241) (bitOf r 240) vs

/-! ### Tile lists and the heap (11 R387-R389) -/

/-- The next segment: of the chunk in hand, or of a new one; none where the pool gives the empty answer. -/
def Dev.takeSegment (d : Dev) (p : Pass) : Option Nat × Dev × Pass :=
  match p.chunks.getLast?, decide (p.segs < 256) with
  | some c, true => (some (c + 256 * p.segs), d, { p with segs := p.segs + 1 })
  | _, _ =>
    match d.poolFor p.part 1 16 with
    | none => (none, d, p)
    | some i =>
      match d.mintCall p.part i 1 with
      | (none, d) => (none, d, p)
      | (some c, d) =>
        (some c, d, { p with chunks := p.chunks ++ [c], segs := 1, pool := some i,
                             maxChunks := max p.maxChunks (p.chunks.length + 1) })

/-- An eight-byte entry written to a list. -/
def Dev.putEntry (d : Dev) (p : Pass) (dva v : Nat) : RenderEnd × Dev :=
  match d.agentWrite (d.tilerAgent p.part p.ctx) false (dva % 2 ^ 48) (toLe 8 v) with
  | (.error e, d) => (.err (.acc e), d)
  | (.ok _, d) => (.ok, d)

/-- An entry other than END appended to a tile's list; slot 31 of a segment takes the LINK to the next. -/
def Dev.appendEntry (d : Dev) (p : Pass) (tile v : Nat) : RenderEnd × Dev × Pass :=
  let set := fun (p : Pass) (l : TileList) => { p with lists := Tab.put p.lists tile l }
  match Tab.get? p.lists tile with
  | none =>
    match d.takeSegment p with
    | (none, d, p) => (.dry, d, p)
    | (some a, d, p) =>
      let (e, d) := d.putEntry p a v
      (e, d, set p { first := a, seg := a, fill := 1, draw := none })
  | some l =>
    if l.fill < 31 then
      let (e, d) := d.putEntry p (l.seg + 8 * l.fill) v
      (e, d, set p { l with fill := l.fill + 1 })
    else
      match d.takeSegment p with
      | (none, d, p) => (.dry, d, p)
      | (some a, d, p) =>
        match d.putEntry p (l.seg + 248) (2 * 2 ^ 62 + a) with
        | (.ok, d) =>
          let (e, d) := d.putEntry p a v
          (e, d, set p { l with seg := a, fill := 1 })
        | (e, d) => (e, d, p)

/-- A primitive's entry in one tile's list, after a DRAW entry where the draw is new to the list. -/
def Dev.binTile (d : Dev) (p : Pass) (tile draw prim : Nat) : RenderEnd × Dev × Pass :=
  let known := match Tab.get? p.lists tile with | some l => l.draw == some draw | none => false
  match (if known then (.ok, d, p) else d.appendEntry p tile (3 * 2 ^ 62 + draw)) with
  | (.ok, d, p) =>
    let p := { p with lists := Tab.mod p.lists tile (fun l => { l with draw := some draw }) }
    d.appendEntry p tile (2 ^ 62 + prim)
  | r => r

def Dev.binTiles (d : Dev) (p : Pass) (draw prim : Nat) : List Nat → RenderEnd × Dev × Pass
  | [] => (.ok, d, p)
  | t :: rest =>
    match d.binTile p t draw prim with
    | (.ok, d, p) => d.binTiles p draw prim rest
    | r => r

/-- `n` primitives of draw record `r` binned, from the pass's current one. A primitive that finds the heap empty leaves no
entry (R389 step 1). -/
def Dev.binPrims (d : Dev) (p : Pass) (r : Nat) : Nat → RenderEnd × Dev × Pass
  | 0 => (.ok, d, p)
  | n + 1 =>
    match d.readVertices (d.tilerAgent p.part p.ctx) r (primIndices r p.prim) with
    | (.error e, d) => (.err e, d, p)
    | (.ok vs, d) =>
      let tiles := match p.polygon r vs with
        | some (poly, _) => tilesOf p.nx (ceilDiv p.height 32) poly
        | none => []
      match d.binTiles p p.draw p.prim tiles with
      | (.ok, d, q) =>
        d.binPrims { q with prim := p.prim + 1, binned := p.binned + (if tiles.isEmpty then 0 else 1) } r n
      | (.dry, d, q) => (.dry, d, { q with lists := p.lists })
      | (.err e, d, q) => (.err e, d, q)

/-- `n` draws binned, from the pass's current one. -/
def Dev.binDraws (d : Dev) (p : Pass) : Nat → RenderEnd × Dev × Pass
  | 0 => (.ok, d, p)
  | n + 1 =>
    match d.readDraw (d.tilerAgent p.part p.ctx) p p.draw with
    | (.error e, d) => (.err e, d, p)
    | (.ok r, d) =>
      match d.binPrims p r (fld r 287 256 - p.prim) with
      | (.ok, d, p) => d.binDraws { p with draw := p.draw + 1, prim := 0 } n
      | x => x

/-- The lists are ended and the tile table written (R387, R388). -/
def Dev.closeLists (d : Dev) (p : Pass) : Except RenderErr Unit × Dev :=
  let put := fun (d : Dev) (e : Nat × Nat) => ofAcc (d.agentWrite (d.tilerAgent p.part p.ctx) false (e.1 % 2 ^ 48) (toLe 8 e.2))
  let ends := p.lists.map (fun (e : Nat × TileList) => (e.2.seg + 8 * e.2.fill, 0))
  let table := (List.range p.tileCount).map (fun t =>
    (p.h 351 304 + 8 * t, match Tab.get? p.lists t with | some l => l.first | none => 0))
  tryAll put (ends ++ table) d

/-- The pass stops at an error of the tiler. -/
def Dev.passFault (d : Dev) (p : Pass) (e : RenderErr) : Dev :=
  (d.putPass { p with phase := .faulted }).renderFault (d.tilerAgent p.part p.ctx) p.part e

/-- The binned tiles of a round are ready to be rendered. -/
def Dev.renderRound (d : Dev) (p : Pass) : Dev :=
  match d.closeLists p with
  | (.error e, d) => d.passFault p e
  | (.ok _, d) => d.putPass { p with phase := .rendering, nextTile := 0 }

/-- A round begins with empty lists, and the texel caches of the target set are invalidated (R389, R405). -/
def Dev.binRound (d : Dev) (p : Pass) : Dev :=
  let d := { d with render := { d.render with texels := Tab.keep d.render.texels (fun c _ => !p.set.getLsbD c) } }
  let p := { p with lists := [], binned := 0, chunks := [], segs := 0, pool := none, nextTile := 0 }
  match d.binDraws p (p.h 255 240 - p.draw) with
  | (.ok, d, p) => d.renderRound { p with final := true }
  | (.dry, d, p) => d.putPass { p with phase := .dry }
  | (.err e, d, p) => d.passFault p e

/-! ### The start of a pass (11 R380-R383) -/

/-- A pass reads its descriptor and bins its first round. -/
def Dev.startPass (d : Dev) (x : CmdId) (c : Cmd) (ctx : Nat) : Dev :=
  let a := d.tilerAgent c.part ctx
  let desc := c.f 303 256
  match d.agentRead a false desc 192 with
  | (.error e, d) => d.agentFault a c.part e
  | (.ok bs, d) =>
    let h := leNat (bs.take 64)
    let targets := (List.range 4).map (fun t => BitVec.ofNat 256 (leNat ((bs.drop (64 + 32 * t)).take 32)))
    let set := maskOf 64 ((onesOf (BitVec.ofNat 64 (fld h 191 128))).filter (d.holds c.part))
    if !headerOk h || !targets.all (targetOk (fld h 239 226)) || planeBytes targets > 24576 || set == 0 then
      d.renderFault a c.part (.state desc)
    else
      d.binRound { cmd := x, part := c.part, ctx := ctx, hdr := BitVec.ofNat 512 h, targets := targets, set := set, round := 0,
                   flushes := 0, renders := 0, final := false, draw := 0, prim := 0, binned := 0, pool := none, chunks := [],
                   segs := 0, lists := [], phase := .rendering, nextTile := 0, maxChunks := 0 }

/-- RND_PASS (R380, R381): a pass starts, or waits for the one of its partition in progress. -/
def execRndPass (x : CmdId) (s : State) : Host.Outcome State Fault Refusal :=
  runRing x 0x40 (fun d c ctx =>
    if c.f 303 256 % 64 != 0 then d.cmdDone x 0x10 0
    else if Tab.has d.render.passes c.part then
      (({ d with render := { d.render with waiting := d.render.waiting ++ [x] } }).cmdRuns x)
    else (d.cmdRuns x).startPass x c ctx) s

/-- The next waiting pass of a partition starts. -/
def Dev.nextPass (d : Dev) (p : Nat) : Dev :=
  match d.render.waiting.find? (fun x => (d.cmd? x).any (fun c => c.part == p)) with
  | none => d
  | some x =>
    let d := { d with render := { d.render with waiting := d.render.waiting.filter (· != x) } }
    match d.cmd? x with
    | some c => d.startPass x c (c.ctx.getD 0)
    | none => d

/-! ### The ends of rounds and passes (11 R389, R391) -/

/-- The chunks of a round go back to their pool. -/
def Dev.returnChunks (d : Dev) (p : Pass) : Dev :=
  match p.pool with
  | none => d
  | some i => p.chunks.foldl (fun (d : Dev) c => d.mintReturn p.part i 1 c) d

def TilPart.zero : TilPart := { passes := 0, flushes := 0, maxChunks := 0 }

def Dev.modTil (d : Dev) (p : Nat) (f : TilPart → TilPart) : Dev :=
  { d with render := { d.render with til := Tab.upd d.render.til p TilPart.zero f } }

/-- A pass ends with a status; the next of its partition starts. -/
def Dev.endPass (d : Dev) (p : Pass) (status : Nat) : Dev :=
  let d := (d.returnChunks p).cmdDone p.cmd status (min p.flushes 65535 + 2 ^ 16 * (p.renders % 2 ^ 32))
  let d := { d with render := { d.render with passes := Tab.del d.render.passes p.part } }
  d.nextPass p.part

/-- INCREMENTAL_FLUSH (R389): the heap has run dry. Where nothing is binned, or a flush has nowhere to keep depth, the pass
ends with NO_HEAP; otherwise the round's tiles are rendered. -/
def execIncrementalFlush (p : Nat) (s : State) : Host.Outcome State Fault Refusal :=
  s.on (fun d =>
    match Tab.get? d.render.passes p with
    | none => d
    | some x =>
      if !d.running || x.phase != .dry then d
      else if x.binned = 0 || (x.depthTest && x.h 511 464 == 0) then d.endPass x 0x38
      else
        let d := d.modTil p (fun t => { t with flushes := (t.flushes + 1) % 2 ^ 32 })
        d.renderRound { x with flushes := x.flushes + 1, final := false })

/-- ROUND_END (R389): every tile of the round has been stored; the chunks are returned, and the pass ends or the next
round begins. -/
def execRoundEnd (p : Nat) (s : State) : Host.Outcome State Fault Refusal :=
  s.on (fun d =>
    match Tab.get? d.render.passes p with
    | none => d
    | some x =>
      if !d.running || x.phase != .rendering || x.nextTile < x.tileCount || d.render.tiles.any (fun t => t.2.part == p) then d
      else if x.final then
        (d.modTil p (fun t => { t with passes := (t.passes + 1) % 2 ^ 32, maxChunks := x.maxChunks })).endPass x 0
      else (d.returnChunks x).binRound { x with round := x.round + 1 })

/-! ### Loading and storing a tile (11 R390, R394) -/

/-- The rows of a tile inside the render area: (x, y) of the first pixel, and the pixels. -/
def Pass.rows (p : Pass) (tile : Nat) : List (Nat × Nat × Nat) :=
  let x0 := 32 * (tile % p.nx)
  let y0 := 32 * (tile / p.nx)
  (List.range (min 32 (p.height - y0))).map (fun k => (x0, y0 + k, min 32 (p.width - x0)))

/-- The pixels of a tile inside the render area. -/
def Pass.pixels (p : Pass) (tile : Nat) : List (Nat × Nat) :=
  (p.rows tile).flatMap (fun (r : Nat × Nat × Nat) => (List.range r.2.2).map (fun k => (r.1 + k, r.2.1)))

/-- The place of a pixel in a tile. -/
def inTile (x y : Nat) : Nat := y % 32 * 32 + x % 32

/-- The depth of a pixel in a core's depth plane. -/
def Dev.depthAt (d : Dev) (ci x y : Nat) : Nat := leNat (d.tileRead (clusterOf ci) (renderBase ci + 0x8000 + 4 * inTile x y) 4)
def Dev.setDepth (d : Dev) (ci x y z : Nat) : Dev :=
  d.tileWrite (clusterOf ci) (renderBase ci + 0x8000 + 4 * inTile x y) (toLe 4 z)

/-- Rows copied from memory to tile memory, or back: `at_` gives a row's address and its place in tile memory. -/
def Dev.copyRow (d : Dev) (a : Agent) (cl dva off n : Nat) (store : Bool) : Except RenderErr Unit × Dev :=
  if store then ofAcc (d.agentWrite a false (dva % 2 ^ 48) (d.tileRead cl off n))
  else
    match d.agentRead a false (dva % 2 ^ 48) n with
    | (.error e, d) => (.error (.acc e), d)
    | (.ok bs, d) => (.ok (), d.tileWrite cl off bs)

/-- A colour plane loaded from its target, or stored to it. -/
def Dev.movePlane (d : Dev) (a : Agent) (ci tile : Nat) (p : Pass) (e : BitVec 256 × Nat) (store : Bool) :
    Except RenderErr Unit × Dev :=
  let sz := tgtSize e.1
  tryAll (fun (d : Dev) (r : Nat × Nat × Nat) =>
    d.copyRow a (clusterOf ci) (tgtAddr e.1 + r.2.1 * tgtPitch e.1 + r.1 * sz) (renderBase ci + e.2 + inTile r.1 r.2.1 * sz)
      (r.2.2 * sz) store) (p.rows tile) d

/-- The depth plane exchanged with the spill area. -/
def Dev.moveSpill (d : Dev) (a : Agent) (ci tile : Nat) (p : Pass) (store : Bool) : Except RenderErr Unit × Dev :=
  tryAll (fun (d : Dev) (r : Nat × Nat × Nat) =>
    d.copyRow a (clusterOf ci) (p.h 511 464 + 4096 * tile + 4 * inTile r.1 r.2.1)
      (renderBase ci + 0x8000 + 4 * inTile r.1 r.2.1) (4 * r.2.2) store) (p.rows tile) d

/-- The SFD blocks of a tile that hold a pixel of the render area, by block coordinates. -/
def Pass.blocks (p : Pass) (tile : Nat) : List (Nat × Nat) := ((p.pixels tile).map (fun e => (e.1 / 8, e.2 / 8))).eraseDups

/-- A 16-bit depth as FP32. -/
def depth16 (v : Nat) : Nat := f32OfQ (mkQ v 65535)

/-- The depth plane loaded from the depth target. -/
def Dev.loadDepth (d : Dev) (a : Agent) (ci tile : Nat) (p : Pass) : Except RenderErr Unit × Dev :=
  let base := p.h 463 416
  let pitch := p.h 415 398
  match p.h 397 396 with
  | 0 => tryAll (fun (d : Dev) (r : Nat × Nat × Nat) =>
      d.copyRow a (clusterOf ci) (base + r.2.1 * pitch + 4 * r.1) (renderBase ci + 0x8000 + 4 * inTile r.1 r.2.1) (4 * r.2.2) false)
      (p.rows tile) d
  | 1 => tryAll (fun (d : Dev) (e : Nat × Nat) =>
      match d.agentRead a false ((base + e.2 * pitch + 2 * e.1) % 2 ^ 48) 2 with
      | (.error x, d) => (.error (.acc x), d)
      | (.ok bs, d) => (.ok (), d.setDepth ci e.1 e.2 (depth16 (leNat bs)))) (p.pixels tile) d
  | _ => tryAll (fun (d : Dev) (b : Nat × Nat) =>
      match d.agentRead a false ((base + b.2 * pitch + 64 * b.1) % 2 ^ 48) 64 with
      | (.error x, d) => (.error (.acc x), d)
      | (.ok bs, d) =>
        let blk := leNat bs
        (.ok (), ((p.pixels tile).filter (fun e => e.1 / 8 == b.1 && e.2 / 8 == b.2)).foldl (fun (d : Dev) e =>
          d.setDepth ci e.1 e.2 (match sfdDecode blk (e.1 % 8) (e.2 % 8) with
            | some v => depth16 v
            | none => 0x3F800000)) d)) (p.blocks tile) d

/-- round_to_nearest_even(clamp(z, 0, 1) × 65,535); for a NaN the manual states no value and a free one is taken. -/
def depthTo16 (z fr : Nat) : Nat :=
  match fmtF32.decode z with
  | .nan => fr % 65536
  | .inf neg => if neg then 0 else 65535
  | v => (Q.mul (Q.max (qInt 0) (Q.min (qInt 1) v.toQ)) (qInt 65535)).roundEven.toNat

/-- The depth of a pixel as 16 bits. -/
def Dev.depth16At (d : Dev) (ci x y : Nat) : Nat := depthTo16 (d.depthAt ci x y) (Config.free (d.free + inTile x y))

/-- The depth plane stored to the depth target. -/
def Dev.storeDepth (d : Dev) (a : Agent) (ci tile : Nat) (p : Pass) : Except RenderErr Unit × Dev :=
  let base := p.h 463 416
  let pitch := p.h 415 398
  let go := match p.h 397 396 with
    | 0 => tryAll (fun (d : Dev) (r : Nat × Nat × Nat) =>
        d.copyRow a (clusterOf ci) (base + r.2.1 * pitch + 4 * r.1) (renderBase ci + 0x8000 + 4 * inTile r.1 r.2.1) (4 * r.2.2) true)
        (p.rows tile) d
    | 1 => tryAll (fun (d : Dev) (e : Nat × Nat) =>
        ofAcc (d.agentWrite a false ((base + e.2 * pitch + 2 * e.1) % 2 ^ 48) (toLe 2 (d.depth16At ci e.1 e.2)))) (p.pixels tile) d
    | _ => tryAll (fun (d : Dev) (b : Nat × Nat) =>
        let v := fun i =>
          let x := 8 * b.1 + i % 8
          let y := 8 * b.2 + i / 8
          if x < p.width && y < p.height then some (d.depth16At ci x y) else none
        ofAcc (d.agentWrite a false ((base + b.2 * pitch + 64 * b.1) % 2 ^ 48) (toLe 64 (sfdEncode v)))) (p.blocks tile) d
  (go.1, { go.2 with free := go.2.free + 1024 })

/-- A plane of `n` bytes filled with open bytes. -/
def Dev.fillOpen (d : Dev) (ci off n : Nat) : Dev :=
  let (bs, d) := d.freshBytes n
  d.tileWrite (clusterOf ci) (renderBase ci + off) bs

/-- A tile's planes filled (R394 step 1, R390). -/
def Dev.loadTile (d : Dev) (a : Agent) (ci tile : Nat) (p : Pass) : Except RenderErr Unit × Dev :=
  let colour := fun (d : Dev) (e : BitVec 256 × Nat) =>
    let sz := tgtSize e.1
    match (if p.round = 0 then fld e.1.toNat 122 121 else 1) with
    | 0 => (Except.ok (), d.tileWrite (clusterOf ci) (renderBase ci + e.2) ((List.range (1024 * sz)).map (fun k =>
        BitVec.ofNat 8 (fld e.1.toNat 255 192 / 2 ^ (8 * (k % sz % 8))))))
    | 1 => d.movePlane a ci tile p e false
    | _ => (.ok (), d.fillOpen ci e.2 (1024 * sz))
  match tryAll colour p.planes d with
  | (.error e, d) => (.error e, d)
  | (.ok _, d) =>
    if !p.hasDepth then (.ok (), d)
    else if p.round != 0 && p.depthTest then d.moveSpill a ci tile p false
    else match p.h 395 394 with
      | 0 => (.ok (), d.tileWrite (clusterOf ci) (renderBase ci + 0x8000) ((List.range 1024).flatMap (fun _ => toLe 4 (p.h 383 352))))
      | 1 => d.loadDepth a ci tile p
      | _ => (.ok (), d.fillOpen ci 0x8000 4096)

/-- A tile's planes stored (R394 step 4, R390). After a pass that flushed, a target that the final round does not store
holds open bytes. -/
def Dev.storeTile (d : Dev) (a : Agent) (ci tile : Nat) (p : Pass) : Except RenderErr Unit × Dev :=
  let colour := fun (d : Dev) (e : BitVec 256 × Nat) =>
    if !p.final || bitOf e.1.toNat 120 then d.movePlane a ci tile p e true
    else if p.flushes = 0 then (Except.ok (), d)
    else (d.fillOpen ci e.2 (1024 * tgtSize e.1)).movePlane a ci tile p e true
  match tryAll colour p.planes d with
  | (.error e, d) => (.error e, d)
  | (.ok _, d) =>
    if p.final then (if p.hdr.getLsbD 393 then d.storeDepth a ci tile p else (.ok (), d))
    else if p.depthTest then d.moveSpill a ci tile p true else (.ok (), d)

/-! ### Rasterising a tile (11 R387, R395, R396, R401) -/

/-- A tile's list read: (draw, primitive) in order. A PRIM before any DRAW names none. -/
def Dev.walkList (d : Dev) (a : Agent) (dva : Nat) (draw : Option Nat) : Nat → Except RenderErr (List (Nat × Nat)) × Dev
  | 0 => (.ok [], d)
  | n + 1 =>
    match d.agentRead a false (dva % 2 ^ 48) 8 with
    | (.error e, d) => (.error (.acc e), d)
    | (.ok bs, d) =>
      let v := leNat bs
      let kind := fld v 63 62
      if fld v 61 48 != 0 || (kind = 1 && fld v 47 32 != 0) || (kind = 3 && fld v 47 16 != 0) || (kind = 0 && fld v 47 0 != 0)
      then (.error (.state (dva % 2 ^ 48)), d)
      else match kind with
        | 0 => (.ok [], d)
        | 1 =>
          match d.walkList a (dva + 8) draw n with
          | (.ok l, d) => (.ok ((draw.toList.map (fun k => (k, fld v 31 0))) ++ l), d)
          | r => r
        | 2 => d.walkList a (fld v 47 0) draw n
        | _ => d.walkList a (dva + 8) (some (fld v 15 0)) n

/-- The depth test by DEPTH_FUNC: the fragment's depth against the plane's. -/
def depthPass (func z old : Nat) : Bool :=
  match func, FVal.cmp (fmtF32.decode z) (fmtF32.decode old) with
  | 0, _ => false
  | 7, _ => true
  | 5, none => true
  | _, none => false
  | 1, some o => o == .lt
  | 2, some o => o == .eq
  | 3, some o => o != .gt
  | 4, some o => o == .gt
  | 5, some o => o != .eq
  | _, some o => o != .lt

/-- A primitive being rasterised in a tile: its draw's number and record, its index, vertices and facing. -/
structure RasterPrim where
  draw : Nat
  rec_ : Nat
  prim : Nat
  verts : List (List Nat)
  front : Bool
  deriving DecidableEq, Repr

/-- A pixel of a quad after coverage and depth test: whether it is a fragment, with its depth and barycentrics. -/
def Dev.testPixel (d : Dev) (ci : Nat) (p : Pass) (t : ScrVert × ScrVert × ScrVert) (x y : Nat) :
    (Bool × Nat × Q × Q) × Dev :=
  let (z, b1, b2) := interpolate t x y
  let zc := f32OfQ z
  let z1 := match FVal.cmp (fmtF32.decode zc) (.fin false 1 0) with | some .gt => true | _ => false
  if !(x < p.width && y < p.height && covers t x y) || z1 then ((false, zc, b1, b2), d)
  else if !p.depthTest then ((true, zc, b1, b2), d)
  else if depthPass (p.h 392 390) zc (d.depthAt ci x y) then
    ((true, zc, b1, b2), if p.hdr.getLsbD 389 then d.setDepth ci x y zc else d)
  else ((false, zc, b1, b2), d)

/-- The results of the enabled bindings at a fragment (R401). -/
def Dev.sampleAll (d : Dev) (a : Agent) (ci : Nat) (r : RasterPrim) (corner : List (Q × Q)) (b1 b2 : Q) :
    List Nat → Except RenderErr Nat × Dev
  | [] => (.ok 0, d)
  | k :: rest =>
    let b := drawBinding r.rec_ k
    let uv := fun (c : Q × Q) => (attrAt r.verts (4 + 2 * fld b 120 119) c.1 c.2, attrAt r.verts (5 + 2 * fld b 120 119) c.1 c.2)
    let c := fun (i : Nat) => uv (corner.getD i (qInt 0, qInt 0))
    let s : Except AccFail Nat × Dev :=
      if bitOf b 127 then
        let p := uv (b1, b2)
        (d.countCluster (clusterOf ci) 6 1).texSample a (clusterOf ci) b (lodOf b (c 0) (c 1) (c 2)) p.1 p.2
      else (.ok 0, d)
    match s with
    | (.error e, d) => (.error (.acc e), d)
    | (.ok x, d) =>
      match d.sampleAll a ci r corner b1 b2 rest with
      | (.error e, d) => (.error e, d)
      | (.ok y, d) => (.ok (x * 2 ^ (64 * k) + y), d)

/-- The input record of a fragment (Table 11-10). -/
def fragRecord (r : RasterPrim) (x y z : Nat) (b1 b2 : Q) (tex : Nat) : BitVec 512 :=
  BitVec.ofNat 512 (x + at_ 16 y + at_ 32 r.prim + at_ 64 (f32OfQ b1) + at_ 96 (f32OfQ b2) + at_ 128 z + at_ 160 r.draw +
    at_ 176 (b2n r.front) + at_ 256 tex)

/-- The pixels of a quad in lane order: 2 dy + dx. -/
def quadPixels (qx qy : Nat) : List (Nat × Nat) := [(qx, qy), (qx + 1, qy), (qx, qy + 1), (qx + 1, qy + 1)]

/-- The fragments of a quad's pixels, each tested and textured in turn. -/
def Dev.shadePixels (d : Dev) (a : Agent) (ci : Nat) (p : Pass) (r : RasterPrim) (t : ScrVert × ScrVert × ScrVert)
    (corner : List (Q × Q)) : List (Nat × Nat) → Except RenderErr (List Fragment) × Dev
  | [] => (.ok [], d)
  | (x, y) :: rest =>
    let ((live, z, b1, b2), d) := d.testPixel ci p t x y
    match (if live then d.sampleAll a ci r corner b1 b2 [0, 1, 2, 3] else (.ok 0, d)) with
    | (.error e, d) => (.error e, d)
    | (.ok tex, d) =>
      match d.shadePixels a ci p r t corner rest with
      | (.error e, d) => (.error e, d)
      | (.ok l, d) => (.ok ({ x := x, y := y, live := live, record := if live then fragRecord r x y z b1 b2 tex else 0 } :: l), d)

/-- One quad of a triangle: none where no lane survives. -/
def Dev.shadeQuad (d : Dev) (a : Agent) (ci : Nat) (p : Pass) (r : RasterPrim) (t : ScrVert × ScrVert × ScrVert)
    (qx qy : Nat) : Except RenderErr (Option Quad) × Dev :=
  let corner := (quadPixels qx qy).map (fun e => (interpolate t e.1 e.2).2)
  match (d.countCluster (clusterOf ci) 4 1).shadePixels a ci p r t corner (quadPixels qx qy) with
  | (.error e, d) => (.error e, d)
  | (.ok fs, d) =>
    if fs.any (·.live) then (.ok (some { x := qx, y := qy, draw := r.draw, frags := fs }), d)
    else (.ok none, d.countCluster (clusterOf ci) 5 1)

/-- The quads of a tile that a triangle covers, row by row. -/
def Pass.quadsOf (p : Pass) (tile : Nat) (t : ScrVert × ScrVert × ScrVert) : List (Nat × Nat) :=
  let x0 := 32 * (tile % p.nx)
  let y0 := 32 * (tile / p.nx)
  let all := (List.range 16).flatMap (fun j => (List.range 16).map (fun i => (x0 + 2 * i, y0 + 2 * j)))
  all.filter (fun e => (quadPixels e.1 e.2).any (fun c => decide (c.1 < p.width) && decide (c.2 < p.height) && covers t c.1 c.2))

def Dev.shadeQuads (d : Dev) (a : Agent) (ci : Nat) (p : Pass) (r : RasterPrim) (t : ScrVert × ScrVert × ScrVert) :
    List (Nat × Nat) → Except RenderErr (List Quad) × Dev
  | [] => (.ok [], d)
  | (qx, qy) :: rest =>
    match d.shadeQuad a ci p r t qx qy with
    | (.error e, d) => (.error e, d)
    | (.ok q, d) =>
      match d.shadeQuads a ci p r t rest with
      | (.error e, d) => (.error e, d)
      | (.ok l, d) => (.ok (q.toList ++ l), d)

/-- The triangles of a primitive in turn. -/
def Dev.shadeTris (d : Dev) (a : Agent) (ci tile : Nat) (p : Pass) (r : RasterPrim) :
    List (ScrVert × ScrVert × ScrVert) → Except RenderErr (List Quad) × Dev
  | [] => (.ok [], d)
  | t :: rest =>
    match d.shadeQuads a ci p r t (p.quadsOf tile t) with
    | (.error e, d) => (.error e, d)
    | (.ok q, d) =>
      match d.shadeTris a ci tile p r rest with
      | (.error e, d) => (.error e, d)
      | (.ok l, d) => (.ok (q ++ l), d)

/-- The entries of a tile's list rasterised in submission order. -/
def Dev.shadeList (d : Dev) (a : Agent) (ci tile : Nat) (p : Pass) : List (Nat × Nat) → Except RenderErr (List Quad) × Dev
  | [] => (.ok [], d)
  | (draw, prim) :: rest =>
    match d.readDraw a p draw with
    | (.error e, d) => (.error e, d)
    | (.ok r, d) =>
      match d.readVertices a r (primIndices r prim) with
      | (.error e, d) => (.error e, d)
      | (.ok vs, d) =>
        let (tris, front) := match p.polygon r vs with
          | some (poly, f) => ((fanOf poly).filterMap turned, f)
          | none => ([], false)
        match d.shadeTris a ci tile p { draw := draw, rec_ := r, prim := prim, verts := vs, front := front } tris with
        | (.error e, d) => (.error e, d)
        | (.ok q, d) =>
          match d.shadeList a ci tile p rest with
          | (.error e, d) => (.error e, d)
          | (.ok l, d) => (.ok (q ++ l), d)

/-! ### Pixel launches and tiles (11 R392, R397) -/

/-- The pixel launch of one draw in a tile; one that cannot place a group is an error (R56). -/
def Dev.pixelLaunch (d : Dev) (a : Agent) (ci : Nat) (p : Pass) (draw : Nat) : Except RenderErr Nat × Dev :=
  match d.readDraw a p draw with
  | (.error e, d) => (.error e, d)
  | (.ok r, d) =>
    let regs := 8 * (fld r 239 236 + 2)
    if shapeGroups regs (fld r 235 228) (fld r 227 225) (fld r 224 220) = 0 then (.error (.shape (fld r 367 320)), d) else
    match d.agentRead a false (fld r 415 368) 64 with
    | (.error e, d) => (.error (.acc e), d)
    | (.ok bs, d) =>
      let l : Launch :=
        { part := p.part, ctx := p.ctx, from_ := .pixel p.part ci draw, entry := fld r 367 320, regs := regs,
          lsGroup := fld r 235 228, split := fld r 227 225, maxg := fld r 224 220, threads := 0,
          params := BitVec.ofNat 512 (leNat bs), targets := maskOf 64 [clusterOf ci], groups := 0, next := 0, live := 0,
          epochs := 0 }
      let k := Tab.freshFrom d.launches
      (.ok k, { d with launches := Tab.put d.launches k l })

def Dev.pixelLaunches (d : Dev) (a : Agent) (ci : Nat) (p : Pass) : List Nat → Except RenderErr (Tab Nat) × Dev
  | [] => (.ok [], d)
  | k :: rest =>
    match d.pixelLaunch a ci p k with
    | (.error e, d) => (.error e, d)
    | (.ok l, d) =>
      match d.pixelLaunches a ci p rest with
      | (.error e, d) => (.error e, d)
      | (.ok t, d) => (.ok (Tab.put t k l), d)

/-- A tile loaded and rasterised on a core: its quads and pixel launches. -/
def Dev.renderTile (d : Dev) (ci : Nat) (p : Pass) (tile : Nat) : Except RenderErr Tile × Dev :=
  let a := d.pixelAgent p.part p.ctx (clusterOf ci)
  match d.loadTile a ci tile p with
  | (.error e, d) => (.error e, d)
  | (.ok _, d) =>
    match d.agentRead a false ((p.h 351 304 + 8 * tile) % 2 ^ 48) 8 with
    | (.error e, d) => (.error (.acc e), d)
    | (.ok bs, d) =>
      match (if leNat bs = 0 then (Except.ok [], d) else d.walkList a (leNat bs) none (2 ^ 34)) with
      | (.error e, d) => (.error e, d)
      | (.ok l, d) =>
        match d.shadeList a ci tile p l with
        | (.error e, d) => (.error e, d)
        | (.ok qs, d) =>
          match d.pixelLaunches a ci p ((qs.map (·.draw)).eraseDups) with
          | (.error e, d) => (.error e, d)
          | (.ok ls, d) => (.ok { part := p.part, tile := tile, quads := qs, closed := [], nextGroup := 0, launches := ls }, d)

/-- The core that takes the next tile: the free one of lowest index in the target set (R383, R392). -/
def Dev.tileCore (d : Dev) (p : Pass) : Option Nat :=
  (List.range 1024).find? (fun i => p.set.getLsbD (clusterOf i) && d.plan.coreOk i && d.holds p.part (clusterOf i) &&
    !(Tab.has d.render.tiles i))

/-- TILE_HANDOUT (R392, R394-R397): the next tile of the round goes to a free core. -/
def execTileHandout (p : Nat) (s : State) : Host.Outcome State Fault Refusal :=
  s.on (fun d =>
    match Tab.get? d.render.passes p with
    | none => d
    | some x =>
      if !d.running || x.phase != .rendering || x.tileCount ≤ x.nextTile then d else
      match d.tileCore x with
      | none => d
      | some ci =>
        match d.renderTile ci x x.nextTile with
        | (.error e, d) => (d.putPass { x with phase := .faulted }).renderFault (d.pixelAgent p x.ctx (clusterOf ci)) p e
        | (.ok t, d) =>
          let d := d.putPass { x with nextTile := x.nextTile + 1 }
          { d with render := { d.render with tiles := Tab.put d.render.tiles ci t } })

/-- GROUP_CLOSE_TIMEOUT (R396): 64 g-cycles pass with no new quad; how many quads the group then holds the manual's
timing leaves open. -/
def execGroupCloseTimeout (core : Nat) (s : State) : Host.Outcome State Fault Refusal :=
  s.on (fun d =>
    match Tab.get? d.render.tiles core with
    | none => d
    | some t =>
      let (g, _) := takeGroup t.quads []
      if !d.running || g.isEmpty then d else
      let (x, d) := d.fresh
      let n := 1 + x % g.length
      let t := { t with closed := t.closed ++ [t.quads.take n], quads := t.quads.drop n }
      { d with render := { d.render with tiles := Tab.put d.render.tiles core t } })

/-- Every group of a tile has exited and every store of them has been performed (R394 step 3). -/
def Dev.tileDrained (d : Dev) (t : Tile) : Bool :=
  t.quads.isEmpty && t.closed.isEmpty && t.launches.all (fun e =>
    match Tab.get? d.launches e.2 with
    | some x => d.launchOver e.2 x
    | none => true)

/-- TILE_STORED (R394 steps 3, 4): the planes are stored and the core is free. -/
def execTileStored (p core : Nat) (s : State) : Host.Outcome State Fault Refusal :=
  s.on (fun d =>
    match Tab.get? d.render.passes p, Tab.get? d.render.tiles core with
    | some x, some t =>
      if !d.running || x.phase != .rendering || t.part != p || !d.tileDrained t then d else
      let a := d.pixelAgent p x.ctx (clusterOf core)
      match d.storeTile a core t.tile x with
      | (.error e, d) => (d.putPass { x with phase := .faulted }).renderFault a p e
      | (.ok _, d) =>
        let d := t.launches.foldl (fun (d : Dev) e => d.dropLaunch e.2) d
        let d := d.putPass { x with renders := x.renders + 1 }
        ({ d with render := { d.render with tiles := Tab.del d.render.tiles core } }).countCluster (clusterOf core) 3 1
    | _, _ => d)

end Sys2Proof.Machine
end

