-- ==== Sys2Proof/Machine/Ray.lean ====
section
/-! DEFINITION. Ray traversal (12): RAYQ, the walk through the Ngasil BVH by exact fractions, hit records, RAYW. -/

namespace Sys2Proof.Machine

def Ray.mode (r : Ray) : Nat := fld r.sub 12 11
def Ray.qid (r : Ray) : Nat := fld r.sub 15 13
def Ray.cluster (r : Ray) : Nat := clusterOf r.core

/-- The ray's origin, direction and interval; no upper end where TMAX is +∞. -/
def Ray.org (r : Ray) (a : Nat) : Q := qOfF32 (r.words.getD a 0)
def Ray.dir (r : Ray) (a : Nat) : Q := qOfF32 (r.words.getD (3 + a) 0)
def Ray.tmin (r : Ray) : Q := qOfF32 (r.words.getD 6 0)
def Ray.tmax (r : Ray) : Option Q :=
  let v := fmtF32.decode (r.words.getD 7 0)
  if v.isFin then some v.toQ else none

def Dev.rayAgent (d : Dev) (r : Ray) : Agent := { rq := d.rqPart r.part, unit := 5, index := r.cluster, ctx := r.ctx }

/-- A ray is invalid (R421). -/
def rayInvalid (ws : List Nat) : Bool :=
  let v := fun (k : Nat) => fmtF32.decode (ws.getD k 0)
  let zero := fun (k : Nat) => (v k).isFin && (v k).toQ.isZero
  (List.range 7).any (fun k => !(v k).isFin) || v 7 == FVal.nan || (zero 3 && zero 4 && zero 5) || (v 6).toQ.isNeg ||
  (match FVal.cmp (v 6) (v 7) with | some .gt => true | _ => false)

/-! ### RAYQ (R419-R421) -/

/-- The hit record of a lane. -/
def Dev.recordDva (d : Dev) (i : Issue) (e : Nat × Nat) : Nat := 0xFF0000000000 + d.readW i.core e.2 e.1 (srccOf i.word)

/-- RAYQ: the strand blocks until the unit has accepted every active lane's query. -/
def execRayq (i : Issue) (s : State) : Host.Outcome State Fault Refusal :=
  runIssue i 0x6C (fun i d st act =>
    match act.find? (fun e => d.recordDva i e % 32 != 0) with
    | some e => d.coreFault i.core (st.one e) 0x04 (d.recordDva i e)
    | none =>
      let inside := fun (e : Nat × Nat) => match d.onchipPlace i.core e.2 (d.recordDva i e) 32 true with
        | some (.ls _) => true
        | _ => false
      match act.find? (fun e => !inside e) with
      | some e => d.coreFault i.core (st.one e) 0x08 (d.recordDva i e)
      | none =>
        if act.isEmpty then d.advance i.core i.strand
        else d.setStrand i.core i.strand { st with wait := .op i.word (act.map (·.1)) [] }) s

/-- A child reference is malformed (R414, R418). -/
def badRef (ref : Nat) : Bool :=
  let ty := fld ref 63 62
  fld ref 6 0 != 0 || (ty != 2 && fld ref 61 60 != 0) ||
  fld (fld ref 47 7 * 128 + (if ty = 2 then 128 * fld ref 61 60 else 0)) 47 40 == 0xFF

def refDva (ref : Nat) : Nat := fld ref 47 7 * 128

/-- The job fault RAY_STRUCTURE (R418). -/
def Dev.rayFault (d : Dev) (r : Ray) (dva : Nat) : Dev :=
  d.raise { code := 0x0F, unit := 5, index := r.cluster, part := r.part, func := (d.part r.part).cfg.func, ctx := r.ctx, pc := 0,
            group := 0, addr := dva }

def Dev.modRays (d : Dev) (f : RayUnits → RayUnits) : Dev := { d with rays := f d.rays }

/-- RAY_ACCEPT (R421): the unit accepts the next lane of a strand that waits in RAYQ, where it has room and the QID is free. -/
def execRayAccept (core strand : Nat) (s : State) : Host.Outcome State Fault Refusal :=
  s.on (fun d =>
    match d.strand? core strand with
    | none => d
    | some st =>
      match st.wait with
      | .op w (lane :: _) _ =>
        let slot := Tab.get st.lanes lane 0
        let g := d.group core slot
        let same := fun (r : Ray) => r.launch == g.launch && r.gindex == g.index && r.lane == lane && r.qid == fld (subOf w) 15 13
        if !d.running || opcOf w != 0x6C || (d.rays.rays.filter (fun r => r.cluster == clusterOf core)).length ≥ 1024 ||
            d.rays.rays.any same then d else
        let off := d.readW core slot lane (srccOf w)
        let ws := (List.range 8).map (fun k => d.readW core slot lane (srcaOf w + k))
        let root := d.readP core slot lane (srcbOf w)
        let bad := rayInvalid ws
        let item : RayItem := { ref := root, depth := 0, lo := [], hi := [], near := qInt 0 }
        let r : Ray :=
          { core := core, launch := g.launch, gindex := g.index, lane := lane, sub := subOf w, part := d.strandPart core st
            ctx := d.strandCtx core st, words := ws, off := off, before := d.onchipRead core g.launch 32 (.ls off)
            items := if bad then [] else [item], fetches := 0, invalid := bad, hit := none, done := bad, stuck := false }
        let d := if bitOf (subOf w) 10 then d.modRays (fun u => { u with cache := Tab.del u.cache (clusterOf core) }) else d
        let wrong := !bad && (fld root 63 62 != 1 || badRef root)
        let d := d.modRays (fun u => { u with rays := u.rays ++ [{ r with stuck := wrong }] })
        let d := if wrong then d.rayFault r (refDva root) else d
        d.answer core strand lane lane 0
      | _ => d)

/-! ### Geometry (R415-R417, R422) -/

/-- The part of a ray inside a slab, from t0 to t1, where the direction crosses it; `none` outside is `some none`. -/
inductive Slab where
  | all
  | empty
  | range (t0 t1 : Q)
  deriving DecidableEq, Repr

def slabOf (o v lo hi : Q) : Slab :=
  if v.isZero then (if Q.le lo o && Q.le o hi then .all else .empty)
  else
    let a := Q.div (Q.sub lo o) v
    let b := Q.div (Q.sub hi o) v
    if Q.le a b then .range a b else .range b a

def Slab.meet : Slab → Slab → Slab
  | .empty, _ => .empty
  | _, .empty => .empty
  | .all, s => s
  | s, .all => s
  | .range a b, .range c e => if Q.le (Q.max a c) (Q.min b e) then .range (Q.max a c) (Q.min b e) else .empty

/-- The ray inside a closed box. -/
def Ray.inBox (r : Ray) (lo hi : List Q) : Slab :=
  (List.range 3).foldl (fun (s : Slab) a => s.meet (slabOf (r.org a) (r.dir a) (lo.getD a (qInt 0)) (hi.getD a (qInt 0)))) .all

/-- The ray's interval inside a closed box: from where to where. -/
def Ray.meets (r : Ray) (lo hi : List Q) : Option (Q × Q) :=
  match r.inBox lo hi with
  | .range a b =>
    let a := Q.max a r.tmin
    let b := match r.tmax with | some m => Q.min b m | none => b
    if Q.le a b then some (a, b) else none
  | _ => none

/-- A power of two. -/
def pow2Q (e : Int) : Q := if e ≥ 0 then qInt (2 ^ e.toNat) else mkQ 1 (2 ^ (-e).toNat)

/-- An ORIGIN of a node. The manual does not say what box one that is a NaN or an infinity gives: it stands for `fr`. -/
def nodeOrigin (v a fr : Nat) : Q :=
  let x := fmtF32.decode (fld v (32 * a + 31) (32 * a))
  if x.isFin then x.toQ else mkQ (sext 32 fr) 1

/-- The corners of child `k`'s box (R415). -/
def childBox (v k fr : Nat) : List Q × List Q :=
  let at3 := fun (c : Nat) (a : Nat) (add : Nat) =>
    Q.add (nodeOrigin v a fr) (Q.mul (qNat (fld v (128 + 48 * k + 8 * (c + a) + 7) (128 + 48 * k + 8 * (c + a)) + add))
      (pow2Q (sext 8 (fld v (96 + 8 * a + 7) (96 + 8 * a)))))
  ((List.range 3).map (fun a => at3 0 a 0), (List.range 3).map (fun a => at3 3 a 1))

def childRef (v k : Nat) : Nat := fld v (512 + 64 * k + 63) (512 + 64 * k)

/-- A node is malformed (R418). -/
def badNode (v : Nat) : Bool :=
  fld v 127 120 != 0 || (List.range 8).any (fun k =>
    let ref := childRef v k
    fld ref 63 62 != 0 && (badRef ref || (List.range 3).any (fun a =>
      decide (fld v (128 + 48 * k + 8 * a + 7) (128 + 48 * k + 8 * a) > fld v (152 + 48 * k + 8 * a + 7) (152 + 48 * k + 8 * a)))))

/-- A leaf type that the query skips. -/
def Ray.skips (r : Ray) (ty : Nat) : Bool := (ty == 2 && bitOf r.sub 8) || (ty == 3 && bitOf r.sub 7)

/-- The items that a node's children give: those whose box the ray's interval meets. -/
def Ray.children (r : Ray) (v depth fr : Nat) : List RayItem :=
  (List.range 8).flatMap (fun k =>
    let ref := childRef v k
    let ty := fld ref 63 62
    if ty = 0 || r.skips ty then [] else
    let (lo, hi) := childBox v k fr
    match r.meets lo hi with
    | none => []
    | some (t, _) =>
      let item : RayItem := { ref := ref, depth := depth + 1, lo := lo, hi := hi, near := t }
      if ty = 2 then (List.range (fld ref 61 60 + 1)).map (fun p =>
        { item with ref := setFld (setFld ref 61 60 0) 47 7 (fld ref 47 7 + p) })
      else [item])

/-! ### Triangles -/

/-- Vertex `k` of triangle `n` of a packet. -/
def triVert (v n k : Nat) : List Nat :=
  (List.range 3).map (fun a => fld v (64 + 288 * n + 96 * k + 32 * a + 31) (64 + 288 * n + 96 * k + 32 * a))

def dot3 (a b : List Q) : Q :=
  (List.range 3).foldl (fun (s : Q) k => Q.add s (Q.mul (a.getD k (qInt 0)) (b.getD k (qInt 0)))) (qInt 0)

def sub3 (a b : List Q) : List Q := (a.zip b).map (fun e => Q.sub e.1 e.2)

def cross3 (a b : List Q) : List Q :=
  let x := fun (l : List Q) (k : Nat) => l.getD k (qInt 0)
  let m := fun (i j : Nat) => Q.sub (Q.mul (x a i) (x b j)) (Q.mul (x a j) (x b i))
  [m 1 2, m 2 0, m 0 1]

/-- The hit of a ray on triangle `n` of a packet (R416, R422): t and the barycentrics of v1 and v2. A triangle that the ray's
line lies in the plane of is not met. Its front is the side on which its vertices turn counter-clockwise. -/
def Ray.triHit (r : Ray) (v n dva user : Nat) : Option RayHit :=
  let ws := (List.range 3).map (triVert v n)
  if ws.any (fun l => l.any (fun w => !(fmtF32.decode w).isFin)) then none else
  let p := fun (k : Nat) => (ws.getD k []).map qOfF32
  let o := (List.range 3).map r.org
  let dir := (List.range 3).map r.dir
  let e1 := sub3 (p 1) (p 0)
  let e2 := sub3 (p 2) (p 0)
  let nrm := cross3 e1 e2
  let den := dot3 dir nrm
  if den.isZero then none else
  let s := sub3 o (p 0)
  let t := Q.div (Q.neg (dot3 s nrm)) den
  let h := cross3 dir e2
  let det := dot3 e1 h
  let u := Q.div (dot3 s h) det
  let w := Q.div (dot3 dir (cross3 s e1)) det
  let back := Q.lt (qInt 0) den
  let inT := Q.le r.tmin t && (match r.tmax with | some m => Q.le t m | none => true)
  if !inT || u.isNeg || w.isNeg || Q.lt (qInt 1) (Q.add u w) || (back && bitOf r.sub 9 && !bitOf v (34 + n)) then none
  else some { t := t, inside := false, status := 1, u := f32OfQ u, v := f32OfQ w, prim := (fld v 31 0 + n) % 2 ^ 32, leaf := dva,
              user := user, back := back, vstate := 0, face := 0 }

/-- A packet is malformed (R418). -/
def badPacket (v : Nat) : Bool := fld v 1023 928 != 0 || fld v 63 37 != 0 || fld v 33 32 == 3

/-- The hits of a packet. -/
def Ray.packetHits (r : Ray) (v dva user : Nat) : List RayHit :=
  (List.range (fld v 33 32 + 1)).filterMap (fun n => r.triHit v n dva user)

/-! ### Voxels -/

/-- The corners of voxel `n` of a brick's box. -/
def voxelBox (lo hi : List Q) (n : Nat) : List Q × List Q :=
  let c := fun (add a : Nat) =>
    let l := lo.getD a (qInt 0)
    let i := n / 8 ^ a % 8 + add
    Q.add l (Q.mul (Q.sub (hi.getD a (qInt 0)) l) (mkQ i 8))
  ((List.range 3).map (c 0), (List.range 3).map (c 1))

/-- The ray lies in a face of the box: along an axis it does not move on. -/
def Ray.inFace (r : Ray) (lo hi : List Q) : Bool :=
  (List.range 3).any (fun a => (r.dir a).isZero && (r.org a == lo.getD a (qInt 0) || r.org a == hi.getD a (qInt 0)))

/-- The voxels that the ray touches, with their intervals, and whether it surely visits them: it passes through the inside. -/
def Ray.voxels (r : Ray) (lo hi : List Q) : List (Nat × Q × Bool) :=
  (List.range 512).filterMap (fun n =>
    let (a, b) := voxelBox lo hi n
    match r.meets a b with
    | none => none
    | some (t0, t1) =>
      let point := match r.tmax with | some m => m == r.tmin | none => false
      some (n, t0, !(r.inFace a b) && (point || Q.lt t0 t1)))

/-- The voxels visited (R422): of those that the ray only touches, or in whose face it lies, an open choice by `fr`; where
it visits none surely and none is chosen, one of those it touches. -/
def Ray.visited (r : Ray) (lo hi : List Q) (fr : Nat) : List (Nat × Q) :=
  let all := r.voxels lo hi
  let pick := all.filter (fun e => e.2.2 || Config.free (fr + e.1) % 2 == 1)
  let use := if pick.isEmpty then (all.drop (Config.free (fr + 512) % max 1 all.length)).take 1 else pick
  use.map (fun e => (e.1, e.2.1))

/-- The faces by which the ray can enter a voxel at `t`: 1 x-low to 6 z-high. -/
def Ray.faces (r : Ray) (lo hi : List Q) (t : Q) : List Nat :=
  (List.range 3).filterMap (fun a =>
    let p := Q.add (r.org a) (Q.mul t (r.dir a))
    if Q.lt (qInt 0) (r.dir a) && p == lo.getD a (qInt 0) then some (2 * a + 1)
    else if (r.dir a).isNeg && p == hi.getD a (qInt 0) then some (2 * a + 2) else none)

/-- A voxel state stops the ray: 2 for a hit, 4 for UNKNOWN in cliff mode (R417, R422). -/
def Ray.voxelStatus (r : Ray) (st : Nat) : Option Nat :=
  match st with
  | 1 => some 2
  | 2 => if r.mode = 2 then some 4 else if bitOf r.sub 5 then some 2 else none
  | 3 => if bitOf r.sub 6 then some 2 else none
  | _ => none

/-- The hits of a brick among the voxels visited. -/
def Ray.brickHits (r : Ray) (v dva user : Nat) (lo hi : List Q) (vis : List (Nat × Q)) (fr : Nat) : List RayHit :=
  vis.filterMap (fun e =>
    let st := fld v (2 * e.1 + 1) (2 * e.1)
    match r.voxelStatus st with
    | none => none
    | some code =>
      let (a, b) := voxelBox lo hi e.1
      let fs := r.faces a b e.2
      some { t := e.2, inside := fs.isEmpty, status := code, u := 0, v := 0, prim := e.1, leaf := dva, user := user, back := false
             vstate := st, face := fs.getD (Config.free (fr + 513) % max 1 fs.length) 0 })

/-! ### Traversal (R422, R425) -/

/-- One hit stands before another: a lesser t; at equal t a hit before an UNKNOWN, else an open choice. -/
def hitBefore (a b : RayHit) (choice : Bool) : Bool :=
  Q.lt a.t b.t || (a.t == b.t && ((a.status != 4 && b.status == 4) || (choice && !(a.status == 4 && b.status != 4))))

/-- The hit that a leaf's hits leave: for any-hit an open one of a packet's, else the first. -/
def Ray.keep (r : Ray) (hits : List RayHit) (fr : Nat) : Option RayHit :=
  let start := if r.mode = 1 && (hits.headD
      { t := qInt 0, inside := false, status := 2, u := 0, v := 0, prim := 0, leaf := 0, user := 0, back := false, vstate := 0,
        face := 0 }).status = 1
    then ((hits.drop (Config.free (fr + 514) % max 1 hits.length)).take 1) else hits
  (start.zipIdx).foldl (fun (b : Option RayHit) (e : RayHit × Nat) => match b with
    | none => some e.1
    | some h => if hitBefore e.1 h (Config.free (fr + 515 + e.2) % 2 == 1) then some e.1 else some h) r.hit

/-- A line for a ray: nodes and packets through the cluster's structure cache, bricks at their home slice. -/
def Dev.rayLine (d : Dev) (r : Ray) (dva : Nat) (brick : Bool) : Except AccFail Nat × Dev :=
  let c := r.cluster
  let key := r.ctx * 2 ^ 41 + dva / 128
  let cache := Tab.get d.rays.cache c []
  let held := if brick then none else match Tab.get? cache key with
    | some l => if d.time.ts ≤ l.filled + 4096 && Config.lineHeld d.free then some l else none
    | none => none
  let d := { d with free := d.free + 1 }
  match held with
  | some l => (.ok l.data.toNat, d.countCluster c 11 1)
  | none =>
    match (d.countCluster c 10 1).agentRead (d.rayAgent r) false dva 128 with
    | (.error e, d) => (.error e, d)
    | (.ok bs, d) =>
      let l := lineOf bs
      (.ok l.toNat, if brick then d else d.modRays (fun u =>
        { u with cache := Tab.put u.cache c (Tab.put (Tab.get u.cache c []) key { data := l, filled := d.time.ts }) }))

/-- A traversal ends: nothing is left to visit, or any-hit has a hit. -/
def Ray.settled (r : Ray) : Ray :=
  if r.items.isEmpty || (r.mode == 1 && r.hit.isSome) then { r with items := [], done := true } else r

/-- A line has arrived: the ray after it, and the pipe's charge (R428); none where the line is malformed. -/
def Ray.step (r : Ray) (i : RayItem) (v fr : Nat) : Option (Ray × Nat) :=
  let dva := refDva i.ref
  let user := fld i.ref 59 48
  match fld i.ref 63 62 with
  | 1 => if badNode v || i.depth ≥ 32 then none else some (({ r with items := r.items ++ r.children v i.depth fr }).settled, 1)
  | 2 => if badPacket v then none else some (({ r with hit := r.keep (r.packetHits v dva user) fr }).settled, 1)
  | _ =>
    let vis := r.visited i.lo i.hi fr
    let hits := r.brickHits v dva user i.lo i.hi vis fr
    let first := hits.foldl (fun (b : Option Q) h => match b with | none => some h.t | some t => some (Q.min t h.t)) none
    let s := (vis.filter (fun e => match first with | some t => Q.le e.2 t | none => true)).length
    some (({ r with hit := r.keep hits fr }).settled, ceilDiv s 4)

/-- The items after those beyond the best hit, an open part of them, have been passed over. -/
def Ray.pruned (r : Ray) (fr : Nat) : Ray :=
  match r.hit with
  | none => r
  | some h => { r with items := ((r.items.zipIdx).filter (fun (e : RayItem × Nat) =>
      Q.le e.1.near h.t || Config.free (fr + e.2) % 2 == 0)).map (·.1) }

def Dev.setRay (d : Dev) (k : Nat) (r : Ray) : Dev := d.modRays (fun u => { u with rays := u.rays.set k r })

/-- RAY_LINE_ARRIVAL (R428): one line that ray `k` is still to visit, an open one of them, arrives and is tested. -/
def execRayLineArrival (k : Nat) (s : State) : Host.Outcome State Fault Refusal :=
  s.on (fun d =>
    match d.rays.rays[k]? with
    | none => d
    | some r =>
      if !d.running || r.done || r.stuck then d else
      let (x, d) := d.fresh
      let n := x % max 1 r.items.length
      match r.items[n]? with
      | none => d.setRay k r.settled
      | some i =>
        let r := { r with items := r.items.eraseIdx n }
        let dva := refDva i.ref
        -- a node too deep is found as it is reached, before it is read
        if fld i.ref 63 62 = 1 && i.depth ≥ 32 then (d.setRay k { r with stuck := true }).rayFault r dva else
        match d.rayLine r dva (fld i.ref 63 62 == 3) with
        | (.error e, d) => (d.setRay k { r with stuck := true }).agentFault (d.rayAgent r) r.part e
        | (.ok v, d) =>
          let fr := d.free
          let d := { d with free := d.free + 2048 }
          match ({ r with fetches := satAdd 32 r.fetches 1 }).step i v fr with
          | none => (d.setRay k { r with stuck := true }).rayFault r dva
          | some (r, c) => (d.setRay k ((r.pruned (fr + 1024)).settled)).countCluster r.cluster 9 c)

/-! ### Hit records and RAYW (R423, R424) -/

/-- The 32 bytes of a hit record (Tables 12-6, 12-7). -/
def Ray.record (r : Ray) : List Byte :=
  let tmax := r.words.getD 7 0
  let v :=
    if r.invalid then at_ 200 5
    else match r.hit with
      | none => tmax + at_ 200 (if r.mode = 2 then 3 else 0)
      | some h =>
        (if h.inside then r.words.getD 6 0 else f32OfQ h.t) + at_ 32 h.u + at_ 64 h.v + at_ 96 h.prim + at_ 128 h.leaf +
          at_ 188 h.user + at_ 200 h.status + at_ 210 (b2n h.back) + at_ 211 h.vstate + at_ 213 h.face
  toLe 32 (v + at_ 224 r.fetches)

/-- A word of the record: the unit's, or the thread's where the thread has written it meanwhile, as the manual leaves open. -/
def recordWords (new before now : List Byte) (fr : Nat) : List Byte :=
  (List.range 8).flatMap (fun k =>
    let w := fun (l : List Byte) => (l.drop (4 * k)).take 4
    if w now != w before && Config.free (fr + k) % 2 == 1 then w now else w new)

/-- A lane's queries named by a RAYW are still in flight. -/
def Dev.rayPending (d : Dev) (core : Nat) (w : BitVec 64) (lane slot : Nat) : Bool :=
  let g := d.group core slot
  d.rays.rays.any (fun r => r.launch == g.launch && r.gindex == g.index && r.core == core && r.lane == lane &&
    bitOf (subOf w) (8 + r.qid))

/-- The strands that wait in RAYW go on where their queries have written their records. -/
def Dev.rayWake (d : Dev) (core : Nat) : Dev :=
  (d.core core).strands.foldl (fun (d : Dev) (e : Nat × Strand) =>
    match e.2.wait with
    | .op w left _ =>
      if opcOf w != 0x6D then d else
      left.foldl (fun (d : Dev) lane =>
        if d.rayPending core w lane (Tab.get e.2.lanes lane 0) then d else d.answer core e.1 lane lane 0) d
    | _ => d) d

/-- HIT_RECORD_WRITE (R423): ray `k`'s result is written into its local store and the ray leaves the unit. -/
def execHitRecordWrite (k : Nat) (s : State) : Host.Outcome State Fault Refusal :=
  s.on (fun d =>
    match d.rays.rays[k]? with
    | none => d
    | some r =>
      if !d.running || !r.done || r.stuck then d else
      let now := d.onchipRead r.core r.launch 32 (.ls r.off)
      let d := d.onchipWrite r.core r.launch (recordWords r.record r.before now d.free) (.ls r.off)
      let d := { d with free := d.free + 8 }
      let d := d.modRays (fun u => { u with rays := u.rays.eraseIdx k
                                            completed := Tab.upd u.completed r.cluster 0 (fun n => (n + 1) % 2 ^ 32) })
      ((d.countCluster r.cluster 8 1).countCluster r.cluster 9 1).rayWake r.core)

/-- RAYW (R424). -/
def execRayw (i : Issue) (s : State) : Host.Outcome State Fault Refusal :=
  runIssue i 0x6D (fun i d st act =>
    let left := (act.filter (fun e => d.rayPending i.core i.word e.1 e.2)).map (·.1)
    if left.isEmpty then d.advance i.core i.strand
    else d.setStrand i.core i.strand { st with wait := .op i.word left [] }) s

end Sys2Proof.Machine
end

