-- ==== Sys2Proof/Machine/Drain.lean ====
section
/-! DEFINITION. Draining the work of partitions and clusters, and zeroing clusters (10 R356, R357, R376; 14 R475). -/

namespace Sys2Proof.Machine

/-! ### Orders that leave (08 R308, R309; 10 R356, R376) -/

/-- Every start request still queued at an order is withdrawn; an SO_RUN completes with ABORTED. The manual gives its DETAIL
for an activation only. -/
def Dev.withdrawQueue (d : Dev) (o : Nat) : Dev :=
  match Tab.get? d.orders o with
  | none => d
  | some r => (r.queue.filterMap (fun (q : StartReq) => q.cmd)).foldl (fun (d : Dev) x =>
      let (v, d) := d.fresh
      d.cmdDone x 1 (v % 2 ^ 64)) (d.modOrder o (fun r => { r with queue := [] }))

/-- An order is disarmed, its queue withdrawn and its activations cancelled as by SO_CANCEL with MODE 0b10. With `silent` they
end without record or DONE operation. -/
def Dev.cancelOrder (d : Dev) (o : Nat) (silent : Bool) : Dev :=
  match Tab.get? d.orders o with
  | none => d
  | some r =>
    let t := r.cancelTargets 2 0
    let d := ((d.disarm o).withdrawQueue o).cancelActs o t none
    if silent then t.foldl (fun (d : Dev) q => d.modAct o q (fun a => { a with silent := true })) d else d

/-- An order homed on a cluster that is being moved: cancelled, and removed when its last activation has ended. -/
def Dev.leaveOrder (d : Dev) (o : Nat) : Dev :=
  let d := (d.cancelOrder o false).modOrder o (fun r => { r with leaving := true })
  match Tab.get? d.orders o with
  | some r => if r.acts.isEmpty then d.dropOrder o else d
  | none => d

/-- The orders homed on a cluster. -/
def Dev.homedOn (d : Dev) (c : Nat) : List Nat := (d.orders.map (·.1)).filter (fun o => homeOf o == c)

def Dev.ordersOf (d : Dev) (p : Nat) : List Nat := (d.orders.filter (fun e => e.2.part == p)).map (·.1)

/-! ### A cluster (10 R356, R357; 12 R413) -/

def coresIn (c : Nat) : List Nat := (List.range 16).map (fun k => 16 * c + k)

/-- Nothing of a launch is left on the cluster: no group, no access on its way, no ray, no tile. -/
def Dev.clusterIdle (d : Dev) (c : Nat) : Bool :=
  (coresIn c).all (fun i => (d.core i).groups.isEmpty && (d.core i).ops.isEmpty && !(Tab.has d.render.tiles i)) &&
  !(d.rays.rays.any (fun r => clusterOf r.core == c))

/-- Bytes of the cluster's hot region; 0 for one that is no reserve cluster (10 R359). -/
def Dev.hotBytes (d : Dev) (c : Nat) : Nat :=
  match d.reserves.find? (fun e => e.2.cluster == c) with
  | some (_, r) => r.hotUnits * 65536
  | none => 0

/-- A core's purse is zeroed. Dirty lines of its L1 part go to their home slices first. -/
def Dev.zeroPurse (d : Dev) (i : Nat) : Dev :=
  let c := d.core i
  let d := d.purgeLines i (c.l1.map (·.1) ++ c.leaving.map (·.1))
  d.modCore i (fun c => { c with ls := [], lsZero := [], l1 := [], leaving := [], l1rr := [], lastPart := none })

/-- The purses and the tile memory of a cluster are zeroed; tile memory below `keep` is kept. -/
def Dev.zeroCluster (d : Dev) (c keep : Nat) : Dev :=
  let d := (coresIn c).foldl (fun (d : Dev) i => d.zeroPurse i) d
  let left : Mem := (Tab.get d.mem.tile c []).filter (fun (e : Host.Cell) => decide (e.1 < keep))
  { d with mem := { d.mem with tile := if left.isEmpty then Tab.del d.mem.tile c else Tab.put d.mem.tile c left } }

/-- The receive channels of a cluster's cores are emptied, to the charge of partition `p` (06 R216). -/
def Dev.emptyCluster (d : Dev) (c p : Nat) : Dev := (coresIn c).foldl (fun (d : Dev) i => d.emptyChannels i p) d

/-- The clusters a partition holds. -/
def Dev.clustersOf (d : Dev) (p : Nat) : List Nat := onesOf (d.part p).held

/-! ### A partition's work (10 R376) -/

/-- The tallies a partition owns. -/
def Dev.talliesOf (d : Dev) (p : Nat) : List Nat := (d.tly.tallies.filter (fun e => e.2.owner == some p)).map (·.1)

/-- Every tally of a partition is cleared under 06 R227 and takes `owner`. -/
def Dev.clearTallies (d : Dev) (p : Nat) (owner : Option Nat) : Dev :=
  (d.talliesOf p).foldl (fun (d : Dev) n => d.tallyClear n owner) d

/-- Queries of a partition that have not joined a sweep are discarded. -/
def Dev.dropWaitingQueries (d : Dev) (p : Nat) : Dev :=
  d.modLdg (fun l => { l with queries := l.queries.filter (fun e => !(e.2.part == p && e.2.phase == .waiting)) })

/-- Steps 2 and 3 of R376 for one partition. -/
def Dev.drainPart (d : Dev) (p : Nat) : Dev :=
  let d := d.clearTallies p (some p)
  ((d.ordersOf p).foldl (fun (d : Dev) o => d.cancelOrder o true) d).dropWaitingQueries p

/-- The work of step 4 of R376 that belongs to a partition has ended: its launches and passes, sweeps, migrations and
maintenance operations. -/
def Dev.partDrained (d : Dev) (p : Nat) : Bool :=
  !(d.launches.any (fun e => e.2.part == p)) && !(Tab.has d.render.passes p) &&
  !(d.ledger.queries.any (fun e => e.2.part == p && e.2.phase == .joined)) &&
  !(d.ledger.migrations.any (fun m => m.part == p)) &&
  !(d.mem.maints.any (fun m => d.ctxPart m.ctx == p))

/-- The commands of a ring that a drain stops: those not started, WAITs, and a BATCH that has not been taken up; `mine` names
the commands that belong to the drained work. A started BATCH starts no further command. The others run on without completion
actions. -/
def Dev.stopRing (d : Dev) (f r : Nat) (mine : Cmd → Bool) : Dev :=
  let x := d.ring f r
  let stops := fun (c : Cmd) => mine c && (c.phase == .fetched || c.op == 0x01 || (c.op == 0x08 && c.batch.isNone))
  let gone := x.cmds.filter stops
  let d := gone.foldl (fun (d : Dev) c => d.unwait (.command (c.id f r))) d
  let d := d.modRing f r (fun x => { x with cmds := (x.cmds.filter (fun c => !stops c)).map (fun c =>
    if mine c then { c with discarded := true, batch := c.batch.map (fun b => { b with count := b.next }) } else c) })
  ((d.ring f r).cmds.filter (fun c => mine c && c.batch.isSome)).foldl (fun (d : Dev) c => d.batchCheck (c.id f r)) d

/-- Every ring of a function. -/
def Dev.ringsOf (d : Dev) (f : Nat) : List Nat := (d.func f).rings.map (·.1)

/-- A partition's ledger query slots are released. -/
def Dev.releaseSlots (d : Dev) (p : Nat) : Dev :=
  ((d.ledger.queries.filter (fun e => e.2.part == p)).map (·.1)).foldl (fun (d : Dev) q => d.slotRelease q) d

/-- A partition's mint pools are loaded invalid. -/
def Dev.dropPools (d : Dev) (p : Nat) : Dev :=
  { d with mint := { d.mint with pools := Tab.keep d.mint.pools (fun k _ => k / 8 != p) } }

end Sys2Proof.Machine
end

