-- ==== Sys2Proof/Machine/Partitions.lean ====
section
/-! DEFINITION. The partition, vault, tally, context, tag and port messages (10 R351-R360; 13 R431, R434; 14 R472-R480). -/

namespace Sys2Proof.Machine

/-! ### Settings due at the next boundary (R48, R351, R465) -/

/-- The settings a partition has after the next boundary. -/
def Dev.cfgNext (d : Dev) (p : Nat) : PartCfg := (d.part p).pendCfg.getD (d.part p).cfg

def Window.none : Window := { v := false, w := false, base := 0, size := 0 }

/-- A window a partition has after the next boundary. -/
def Dev.winNext (d : Dev) (p w : Nat) : Window :=
  (Tab.get? (d.part p).pendWins w).getD (Tab.get (d.part p).wins w Window.none)

/-- Two windows share a byte. -/
def Window.meets (a b : Window) : Bool :=
  a.v && b.v && decide (a.base < b.base + b.size) && decide (b.base < a.base + a.size)

/-- A window of `p` overlaps another partition's, and one of the two permits writes (R352). -/
def Dev.windowClash (d : Dev) (p : Nat) (x : Window) : Bool :=
  (List.range 16).any (fun q => q != p && (d.cfgNext q).valid && (List.range 4).any (fun w =>
    [Tab.get (d.part q).wins w Window.none, d.winNext q w].any (fun y => x.meets y && (x.w || y.w))))

/-! ### PART_SET, PART_WINDOW (14 R473, R474) -/

/-- A partition field: an index, or 0xFF for none. -/
def partOrNone (x : Nat) : Bool := decide (x < 16) || x == 0xFF

/-- A field that names no invalid partition (R466 step 6). -/
def Dev.partNamed (d : Dev) (x : Nat) : Bool := x == 0xFF || (d.part x).cfg.valid

/-- The settings of a PART_SET. -/
def MbxReq.partCfg (r : MbxReq) : PartCfg :=
  { valid := true, safety := bitOf (r.p 4 1) 0, func := r.p 1 1, weight := r.p 2 1, runEpochs := r.p 3 1,
    hardHost := bitOf (r.p 4 1) 2, hardDram := bitOf (r.p 4 1) 1, dramBudget := r.p 6 2, hostBudget := r.p 8 4,
    queryBudget := r.p 12 2, ldgQuota := r.p 16 4 }

/-- PART_SET (R473; 17 R535): the settings take effect at the next boundary. -/
def execPartSet (f : Nat) (s : State) : Host.Outcome State Fault Refusal :=
  s.on (fun d => d.onMsg f 0x0100 d.isReady true (fun _ => 20) [(0, 5), (6, 2), (8, 4), (12, 2), (16, 4)]
    (fun r => decide (r.p 0 1 < 16) && decide (r.p 1 1 < 16) && decide (1 ≤ r.p 2 1) && decide (r.p 4 1 < 8) &&
      decide (r.p 8 4 < 2 ^ 20) && decide (r.p 16 4 < 2 ^ 22))
    (fun r =>
      let p := r.p 0 1
      let c := r.partCfg
      decide (d.mgmt.numVfs < c.func) || ((d.part p).cfg.valid && (d.part p).cfg.func != c.func) ||
      (c.safety && (List.range 16).any (fun q => q != p && (d.cfgNext q).valid && (d.cfgNext q).safety)))
    (fun d k r => (d.acceptReq k 0).modPart (r.p 0 1) (fun x => { x with pendCfg := some r.partCfg })))

/-- PART_WINDOW (R474). -/
def execPartWindow (f : Nat) (s : State) : Host.Outcome State Fault Refusal :=
  let win := fun (r : MbxReq) => ({ v := bitOf (r.p 2 1) 0, w := bitOf (r.p 2 1) 1, base := r.p 8 4, size := r.p 12 4 } : Window)
  s.on (fun d => d.onMsg f 0x0101 d.isReady true (fun _ => 16) [(0, 3), (8, 8)]
    (fun r =>
      let x := win r
      decide (r.p 0 1 < 16) && decide (r.p 1 1 < 4) && decide (r.p 2 1 < 4) && decide (x.base < 2 ^ 26) && decide (x.size < 2 ^ 26) &&
      (!x.v || (decide (1 ≤ x.size) && decide ((x.base + x.size) * 2 ^ 21 ≤ d.mmu.dramSize))))
    (fun r => !(d.part (r.p 0 1)).cfg.valid || d.windowClash (r.p 0 1) (win r))
    (fun d k r => (d.acceptReq k 0).modPart (r.p 0 1) (fun x => { x with pendWins := Tab.put x.pendWins (r.p 1 1) (win r) })))

/-! ### Moving clusters (10 R356, R357) -/

/-- A cluster sets out: no more work starts on it, and the orders homed on it go. -/
def Dev.startMove (d : Dev) (c : Nat) (src dst : Option Nat) (loan : Option Nat) : Dev :=
  let d := { d with moves := Tab.put d.moves c { src := src, dst := dst, phase := .draining, waited := 0, loan := loan } }
  (d.homedOn c).foldl (fun (d : Dev) o => d.leaveOrder o) d

/-- The holder of a cluster. -/
def Dev.holderOf (d : Dev) (c : Nat) : Option Nat := (List.range 16).find? (fun p => (d.part p).held.getLsbD c)

/-- The partition a field names. -/
def namedPart (x : Nat) : Option Nat := if x < 16 then some x else none

/-- CLUSTER_MOVE (14 R476). -/
def execClusterMove (f : Nat) (s : State) : Host.Outcome State Fault Refusal :=
  s.on (fun d => d.onMsg f 0x0102 d.isReady true (fun _ => 3) [(0, 3)]
    (fun r => decide (r.p 0 1 < 64) && partOrNone (r.p 1 1) && partOrNone (r.p 2 1))
    (fun r => !d.plan.clusterOk (r.p 0 1) || !d.partNamed (r.p 1 1) || !d.partNamed (r.p 2 1) ||
      d.reserves.any (fun e => e.2.cluster == r.p 0 1) || d.holderOf (r.p 0 1) != namedPart (r.p 1 1))
    (fun d k r => (d.acceptReq k 0).startMove (r.p 0 1) (namedPart (r.p 1 1)) (namedPart (r.p 2 1)) none))

/-- CLUSTER_DRAINED (R356, R357): no launch has a group on the cluster any more; its channels and its structure cache are emptied
and zeroing begins. -/
def execClusterDrained (c : Nat) (s : State) : Host.Outcome State Fault Refusal :=
  s.on (fun d =>
    match Tab.get? d.moves c with
    | none => d
    | some m =>
      if m.phase != MovePhase.draining || !d.clusterIdle c then d else
      let d := match m.src with | some p => d.emptyCluster c p | none => d
      let d := { d with rays := { d.rays with cache := Tab.del d.rays.cache c } }
      { d with moves := Tab.put d.moves c { m with phase := .zeroing } })

/-- ZEROING_COMPLETE (R357): the purses and tile memory are zero, the hot region excepted; the cluster joins its new holder at the
next boundary. -/
def execZeroingComplete (c : Nat) (s : State) : Host.Outcome State Fault Refusal :=
  s.on (fun d =>
    match Tab.get? d.moves c with
    | none => d
    | some m =>
      if m.phase != MovePhase.zeroing then d else
      let d := d.zeroCluster c (d.hotBytes c)
      { d with moves := Tab.put d.moves c { m with phase := .joining } })

/-- The accepted request that moves cluster `c`. -/
def Dev.moveReq (d : Dev) (c : Nat) (m : Move) : Option Nat :=
  d.mgmt.reqs.findIdx? (fun r => r.accepted &&
    (match m.loan with
     | some n => r.msg == 0x0108 && r.p 0 1 == n
     | none => r.msg == 0x0102 && r.p 0 1 == c))

/-- CLUSTER_MOVE_TIMEOUT (R356): the drain has lasted 500,000 k-cycles; the cluster stays, its orders stay cancelled. -/
def execClusterMoveTimeout (c : Nat) (s : State) : Host.Outcome State Fault Refusal :=
  s.on (fun d =>
    match Tab.get? d.moves c with
    | none => d
    | some m =>
      if m.phase != MovePhase.draining || m.waited < 500000 then d else
      let d := { d with moves := Tab.del d.moves c }
      match d.moveReq c m with
      | some k => d.reply k 0x06 0 []
      | none => d)

/-- A moved cluster joins its new holder at a boundary (R356 step 4). -/
def Dev.joinMove (d : Dev) (c : Nat) (m : Move) : Dev :=
  let d := match m.src with | some p => d.modPart p (fun x => { x with held := setBit x.held c false }) | none => d
  let d := match m.dst with | some q => d.modPart q (fun x => { x with held := setBit x.held c true }) | none => d
  let d := match m.loan with
    | some n => { d with reserves := Tab.mod d.reserves n (fun r => { r with holder := m.dst, suspended := none }) }
    | none => d
  { d with moves := Tab.del d.moves c }

/-! ### Reserve clusters (10 R358-R360; 14 R476) -/

/-- RESERVE_SET. -/
def execReserveSet (f : Nat) (s : State) : Host.Outcome State Fault Refusal :=
  s.on (fun d =>
    let slot := fun (r : MbxReq) => Tab.get? d.reserves (r.p 0 1)
    d.onMsg f 0x0107 d.isReady true (fun _ => 4) [(0, 4)]
      (fun r => decide (r.p 0 1 < 4) && decide (r.p 1 1 < 2) && decide (r.p 2 1 < 64) && decide (r.p 3 1 ≤ 48))
      (fun r => (match slot r with | some x => x.holder.isSome || x.suspended.isSome | none => false) ||
        (r.p 1 1 == 1 && (!d.plan.clusterOk (r.p 2 1) || (d.holderOf (r.p 2 1)).isSome ||
          d.reserves.any (fun e => e.1 != r.p 0 1 && e.2.cluster == r.p 2 1))))
      (fun d k r =>
        let x : Reserve := { cluster := r.p 2 1, holder := none, hotUnits := r.p 3 1, hotState := 0, image := 0, ctx := 0, dva := 0,
                             bytes := 0, suspended := none }
        let d := { d with reserves := if r.p 1 1 = 1 then Tab.put d.reserves (r.p 0 1) x else Tab.del d.reserves (r.p 0 1) }
        d.reply k 0 0 []))

/-- RESERVE_LEND: lending and returning follow R356. -/
def execReserveLend (f : Nat) (s : State) : Host.Outcome State Fault Refusal :=
  s.on (fun d => d.onMsg f 0x0108 d.isReady true (fun _ => 2) [(0, 2)]
    (fun r => decide (r.p 0 1 < 4) && partOrNone (r.p 1 1))
    (fun r => !(Tab.has d.reserves (r.p 0 1)) || !d.partNamed (r.p 1 1))
    (fun d k r =>
      match Tab.get? d.reserves (r.p 0 1) with
      | some x => (d.acceptReq k 0).startMove x.cluster x.holder (namedPart (r.p 1 1)) (some (r.p 0 1))
      | none => d))

/-- Firmware as a reader of a hot-set image: requester 36, the control complex; Table 5-7 gives it no UNIT of its own. -/
def imageAgent (ctx : Nat) : Agent := { rq := rqUnit 36 0, unit := 0, index := 0, ctx := ctx }

/-- Every page of an image maps to DRAM in a window of its context's partition. -/
def Dev.imageMapped (d : Dev) (ctx : Nat) : List Nat → Bool × Dev
  | [] => (true, d)
  | a :: r =>
    match d.translate ctx a .read with
    | (.error _, d) => (false, d)
    | (.ok (pa, _), d) => if pa < 2 ^ 47 then d.imageMapped ctx r else (false, d)

/-- HOTSET_LOAD (R359): the image is loaded into the hot region of a cluster without holder. -/
def execHotsetLoad (f : Nat) (s : State) : Host.Outcome State Fault Refusal :=
  s.on (fun d =>
    let slot := fun (r : MbxReq) => Tab.get? d.reserves (r.p 0 1)
    d.onMsg f 0x0109 d.isReady true (fun _ => 16) [(0, 16)]
      (fun r => decide (r.p 0 1 < 4) && decide (r.p 8 8 < 2 ^ 48))
      (fun r => (match slot r with | some x => x.holder.isSome || decide (r.p 4 4 > x.hotUnits * 65536) | none => true) ||
        !d.ownsCtx 0 (r.p 1 1) || (d.part (d.ctxPart (r.p 1 1))).cfg.func != 0 ||
        !(d.imageMapped (r.p 1 1) (pagesOf (r.p 8 8) (r.p 4 4))).1)
      (fun d k r =>
        let d := { d with reserves := Tab.mod d.reserves (r.p 0 1) (fun x =>
          { x with hotState := 1, image := r.p 2 2, ctx := r.p 1 1, dva := r.p 8 8, bytes := r.p 4 4 }) }
        d.acceptReq k 0))

/-- HOTSET_READY (R360): the image stands in the hot region of slot `r`. -/
def execHotsetReady (r : Nat) (s : State) : Host.Outcome State Fault Refusal :=
  s.on (fun d =>
    match Tab.get? d.reserves r with
    | none => d
    | some x =>
      if x.hotState != 1 || !d.running then d else
      match d.agentRead (imageAgent x.ctx) false x.dva x.bytes with
      | (.error _, _) => d
      | (.ok bs, d) =>
        let d := d.tileWrite x.cluster 0 bs
        let d := { d with reserves := Tab.mod d.reserves r (fun x => { x with hotState := 2 }) }
        d.replyAll 0x0109 (fun q => q.p 0 1 == r) [] 4)

/-! ### Vault and tallies (04 R157-R159; 06 R221, R227; 14 R477) -/

/-- VAULT_ALLOC. -/
def execVaultAlloc (f : Nat) (s : State) : Host.Outcome State Fault Refusal :=
  s.on (fun d => d.onMsg f 0x0103 d.isReady true (fun _ => 5) [(0, 1), (2, 3)]
    (fun r => decide (r.p 0 1 ≤ 36) && decide (r.p 4 1 < 2)) (fun _ => false)
    (fun d k r =>
      let v := BitVec.ofNat 17 (r.p 2 2 + 2 ^ 16 * r.p 4 1)
      { d with mem := { d.mem with alloc := Tab.put d.mem.alloc (r.p 0 1) v } }.reply k 0 0 []))

/-- VAULT_PIN. -/
def execVaultPin (f : Nat) (s : State) : Host.Outcome State Fault Refusal :=
  s.on (fun d => d.onMsg f 0x0104 d.isReady true (fun _ => 2) [(0, 2)] (fun _ => true) (fun _ => false)
    (fun d k r => { d with mem := { d.mem with pinned := BitVec.ofNat 16 (r.p 0 2) } }.reply k 0 0 []))

/-- TALLY_OWN (R477): each tally of the range changes owner, unless it has it already. -/
def execTallyOwn (f : Nat) (s : State) : Host.Outcome State Fault Refusal :=
  s.on (fun d => d.onMsg f 0x0105 d.isReady true (fun _ => 5) [(0, 5)]
    (fun r => decide (1 ≤ r.p 2 2) && decide (r.p 0 2 + r.p 2 2 ≤ 16384) && partOrNone (r.p 4 1))
    (fun r => !d.partNamed (r.p 4 1))
    (fun d k r =>
      let o := namedPart (r.p 4 1)
      let d := (List.range (r.p 2 2)).foldl (fun (d : Dev) i =>
        let n := r.p 0 2 + i
        if (d.tally n).owner == o then d else d.tallyClear n o) d
      d.reply k 0 0 []))

/-! ### PART_RELEASE (14 R475) -/

/-- The commands of a partition. -/
def Cmd.ofPart (p : Nat) (c : Cmd) : Bool := c.ctx.isSome && c.part == p

/-- Every ring of every function, as function and ring. -/
def Dev.allRings (d : Dev) : List (Nat × Nat) := d.funcs.flatMap (fun e => e.2.rings.map (fun r => (e.1, r.1)))

/-- Step 1 has ended: R376 step 4 for the partition alone. -/
def Dev.releaseDrained (d : Dev) (p : Nat) : Bool :=
  d.partDrained p && !(d.allRings.any (fun e => (d.ring e.1 e.2).cmds.any (Cmd.ofPart p)))

/-- The lines in the ways of a mask are written back if dirty, then invalidated. -/
def Dev.emptyWays (d : Dev) (p : Nat) (mask : BitVec 16) : Dev :=
  (d.mem.vault.filter (fun e => mask.getLsbD e.2.way)).foldl (fun (d : Dev) e =>
    (if e.2.dirty then d.memWrite (d.rqPart p) e.1 fullMask e.2.data e.2.poison else d).delVault e.1) d

/-- Steps 2 to 4: streams, ways, contexts, tallies, clusters, loans and pools. -/
def Dev.releasePart (d : Dev) (p : Nat) : Dev :=
  let streams := (d.ledger.streams.filter (fun e => e.2.part == p)).map (·.1)
  let ents := (d.ledger.entries.filter (fun e => streams.contains e.2.stream)).map (·.1)
  let d := ents.foldl (fun (d : Dev) i => d.ldgDrop i false) d
  let d := d.modLdg (fun l => { l with streams := Tab.keep l.streams (fun _ s => s.part != p) })
  let d := d.releaseSlots p
  let mask := d.allocMask p ||| d.allocMask (16 + p)
  let alloc := [p, 16 + p].foldl (fun (t : Tab (BitVec 17)) r =>
    Tab.put t r (BitVec.ofNat 17 (2 ^ 16 * b2n (d.nlp r)))) d.mem.alloc
  let d := ({ d with mem := { d.mem with alloc := alloc } }).emptyWays p mask
  let mine := fun (c : Nat) => (d.ctx c).valid && (d.ctx c).part == p
  let d := d.tlbDrop (fun t => mine t.ctx)
  let d := { d with mmu := { d.mmu with ctxs := Tab.mapv d.mmu.ctxs (fun c =>
    if c.valid && c.part == p then { c with valid := false } else c) } }
  let d := (d.clearTallies p none).dropPools p
  let d := d.modPart p (fun x => { x with held := 0, drainK := 0 })
  { d with reserves := Tab.mapv d.reserves (fun r =>
      { r with holder := if r.holder == some p then none else r.holder
               suspended := if r.suspended == some p then none else r.suspended }) }

/-- A release whose drain has ended goes on; the message completes at the next boundary. -/
def Dev.releaseGo (d : Dev) (k : Nat) (r : MbxReq) : Dev :=
  let p := r.p 0 1
  if r.phase = 0 && (d.releaseDrained p || decide (3 ≤ d.dp.step)) then (d.releasePart p).acceptReq k 1 else d

/-- PART_RELEASE: accepted, its drain begins; commanded again on an accepted message, the release goes on once it has drained. -/
def execPartRelease (f : Nat) (s : State) : Host.Outcome State Fault Refusal :=
  s.on (fun d =>
    match d.findReq f 0x0106 true with
    | some (k, r) => d.releaseGo k r
    | none =>
      d.onMsg f 0x0106 d.isReady true (fun _ => 1) [(0, 1)] (fun r => decide (r.p 0 1 < 16))
        (fun r => !(d.part (r.p 0 1)).cfg.valid)
        (fun d k r =>
          let p := r.p 0 1
          let d := d.acceptReq k 0
          let d := d.allRings.foldl (fun (d : Dev) e => d.stopRing e.1 e.2 (Cmd.ofPart p)) d
          (d.drainPart p).releaseGo k { r with phase := 0 }))

/-- A drain for a message has lasted 500,000 k-cycles. -/
def MbxReq.late (r : MbxReq) : Bool := r.accepted && r.phase == 0 && decide (500000 ≤ r.waited)

/-- PART_RELEASE_TIMEOUT. -/
def execPartReleaseTimeout (f : Nat) (s : State) : Host.Outcome State Fault Refusal :=
  s.on (fun d => match d.findReq f 0x0106 true with
    | some (k, r) => if r.late then (d.modPart (r.p 0 1) (fun x => { x with drainK := 0 })).reply k 0x06 0 [] else d
    | none => d)

/-! ### Contexts and tags (14 R479, R480; 05 R185, R194; 07 R248) -/

/-- A context is idle: no command resolved to it is incomplete and no launch runs in it. -/
def Dev.ctxIdle (d : Dev) (c : Nat) : Bool :=
  !(d.allRings.any (fun e => (d.ring e.1 e.2).cmds.any (fun x => x.ctx == some c))) && !(d.launches.any (fun e => e.2.ctx == c))

/-- The descriptor of a CTX_SET. -/
def MbxReq.ctxDesc (r : MbxReq) : CtxDesc := { valid := bitOf (r.p 1 1) 0, part := r.p 2 1, func := r.p 3 1, root := r.p 8 8 / 4096 }

/-- The change waits for the context to be idle. -/
def Dev.ctxWaits (d : Dev) (r : MbxReq) : Bool :=
  let o := d.ctx (r.p 0 1)
  let n := r.ctxDesc
  o.valid && (!n.valid || o.root != n.root || o.part != n.part) && !d.ctxIdle (r.p 0 1) && decide (d.dp.step < 3)

/-- The context is invalidated and its descriptor written. -/
def Dev.ctxWrite (d : Dev) (k : Nat) (r : MbxReq) : Dev :=
  let c := r.p 0 1
  let d := d.tlbDrop (fun t => t.ctx == c)
  { d with mmu := { d.mmu with ctxs := Tab.put d.mmu.ctxs c r.ctxDesc } }.reply k 0 0 []

/-- CTX_SET: commanded again on an accepted message, it goes on once the context is idle. -/
def execCtxSet (f : Nat) (s : State) : Host.Outcome State Fault Refusal :=
  s.on (fun d =>
    match d.findReq f 0x0200 true with
    | some (k, r) => if d.ctxWaits r then d else d.ctxWrite k r
    | none =>
      d.onMsg f 0x0200 d.isReady true (fun _ => 16) [(0, 4), (8, 8)]
        (fun r => decide (r.p 1 1 < 2) && decide (r.p 2 1 < 16) && decide (r.p 3 1 < 16) && decide (r.p 8 8 < 2 ^ 48) &&
          r.p 8 8 % 4096 == 0)
        (fun r => !(d.part (r.p 2 1)).cfg.valid || (d.part (r.p 2 1)).cfg.func != r.p 3 1 || !d.inWindow (r.p 2 1) (r.p 8 8) false)
        (fun d k r => if d.ctxWaits r then d.acceptReq k 0 else d.ctxWrite k r))

/-- CTX_SET_TIMEOUT. -/
def execCtxSetTimeout (f : Nat) (s : State) : Host.Outcome State Fault Refusal :=
  s.on (fun d => match d.findReq f 0x0200 true with
    | some (k, r) => if r.late && d.ctxWaits r then d.reply k 0x06 0 [] else d
    | none => d)

/-- TAG_RANGE (R480): the entries of the old and the new range are cleared. -/
def execTagRange (f : Nat) (s : State) : Host.Outcome State Fault Refusal :=
  s.on (fun d => d.onMsg f 0x0201 d.isReady true (fun _ => 6) [(0, 1), (2, 4)] (fun r => decide (r.p 0 1 < 16))
    (fun r =>
      let b := r.p 2 2
      let n := r.p 4 2
      decide (b + n > 40960) || (List.range 16).any (fun g => g != r.p 0 1 && decide (b < (d.func g).tagBase + (d.func g).tagCount) &&
        decide ((d.func g).tagBase < b + n)))
    (fun d k r =>
      let u := d.func (r.p 0 1)
      let inside := fun (x b n : Nat) => decide (b ≤ x) && decide (x < b + n)
      let d := { d with tags := Tab.keep d.tags (fun x _ =>
        !(inside x u.tagBase u.tagCount || inside x (r.p 2 2) (r.p 4 2))) }
      (d.modFunc (r.p 0 1) (fun u => { u with tagBase := r.p 2 2, tagCount := r.p 4 2 })).reply k 0 0 []))

/-! ### Camera ports (13 R431, R434) -/

/-- INGEST_PORT: the port takes its binding and set-up; it is down until its receiver locks. A change of owner disables its
streams. Commanded again on an accepted message, it completes with the port as it stands, 2 ms at most after it was accepted. -/
def execIngestPort (f : Nat) (s : State) : Host.Outcome State Fault Refusal :=
  s.on (fun d =>
    match d.findReq f 0x0400 true with
    | some (k, _) => d.reply k 0 0 []
    | none =>
      d.onMsg f 0x0400 d.isReady true (fun _ => 6) [(0, 6)]
        (fun r => decide (r.p 0 1 < 8) && d.plan.csi.getLsbD (r.p 0 1) && partOrNone (r.p 1 1) && decide (r.p 2 1 < 2) &&
          decide (r.p 3 1 < 3) && decide (80 ≤ r.p 4 2) && decide (r.p 4 2 ≤ (if r.p 2 1 = 1 then 2500 else 4500)))
        (fun r => !d.partNamed (r.p 1 1))
        (fun d k r =>
          let n := r.p 0 1
          let o := namedPart (r.p 1 1)
          let old := (d.port n).bound
          let d := d.portIdle n
          let d := d.modPort n (fun p =>
            { p with up := false, bound := o, phy := r.p 2 1 == 1, width := r.p 3 1, rate := r.p 4 2
                     streams := if old == o then p.streams else Tab.mapv p.streams (fun (t : IngStream) => { t with cfg := none }) })
          match o with
          | some _ => { d with aud := { d.aud with viol := Tab.del d.aud.viol (violPortOff n) } }.acceptReq k 0
          | none => d.reply k 0 0 []))

/-- CSI2_LINK_UP (R431). -/
def execCsi2LinkUp (n : Nat) (s : State) : Host.Outcome State Fault Refusal :=
  s.on (fun d => if n < 8 && (d.port n).bound.isSome && !(d.port n).up then
    (d.modPort n (fun p => { p with up := true })).replyAll 0x0400 (fun r => r.p 0 1 == n) [] 4 else d)

/-- CSI2_LINK_DOWN (R434): the streams of a port that is down are idle. -/
def execCsi2LinkDown (n : Nat) (s : State) : Host.Outcome State Fault Refusal :=
  s.on (fun d => if n < 8 && (d.port n).up then (d.portIdle n).modPort n (fun p => { p with up := false }) else d)

end Sys2Proof.Machine
end

