-- ==== Sys2Proof/Machine/Recovery.lean ====
section
/-! DEFINITION. Job faults, chip-wide faults, data-plane resets and function-level resets (10 R371-R378; 15 R496-R507). -/

namespace Sys2Proof.Machine

/-! ### Shared pieces -/

def Dev.modDp (d : Dev) (g : DpStatus → DpStatus) : Dev := { d with dp := g d.dp }

/-- Every function raises the event that its HIF_EVENT_VEC routes by enable bit `en` to the vector at `lo`; the message bypasses
moderation (10 R370). -/
def Dev.eventAll (d : Dev) (en lo : Nat) : Dev :=
  (List.range 16).foldl (fun (d : Dev) f =>
    let e := (d.func f).eventVec
    let v := fld e (lo + 5) lo
    if bitOf e en && decide (v < vecCount f) then
      let was := (d.vec f v).sent
      (d.sendMsg f v).modVec f v (fun x => { x with sent := was })
    else d) d

/-- Accepted requests are stopped before taking effect (14 Table 14-4). -/
def Dev.abortReqs (d : Dev) : Nat → Dev
  | 0 => d
  | n + 1 =>
    match d.mgmt.reqs.findIdx? (fun r => r.accepted) with
    | some k => (d.reply k 0x0B 0 []).abortReqs n
    | none => d

/-- The data plane stops until a full reset, and the part is NOT_READY with FAULT_N asserted (15 R498, R504, R506). -/
def Dev.stopPart (d : Dev) : Dev :=
  let d := d.modDp (fun p => { p with step := 7, pending := none })
  d.modMgmt (fun m => { m with faultN := true, bring := { m.bring with st := .notReady } })

/-- A chip-wide fault is recorded (15 R504, Table 15-6). -/
def Dev.chipFault (d : Dev) (cause detail : Nat) (fatal : Bool) : Dev :=
  d.modMgmt (fun m => { m with chip := { valid := true, fatal := fatal, count := satAdd 16 m.chip.count 1, detail := detail,
                                         cause := cause, time := d.time.ts } })

/-- A fault marked FATAL: also reported through AER (17 R538). -/
def Dev.fatalFault (d : Dev) (cause detail : Nat) : Dev :=
  let d := ((d.chipFault cause detail true).stopPart.send (.aer true)).modMgmt (fun m => { m with pciFatal := m.pciFatal + 1 })
  if d.mgmt.fw.dead then d else d.abortReqs d.mgmt.reqs.length

/-- A fault that requires a data-plane reset: one begins, or the one in progress goes on from its step 2 (15 R507). -/
def Dev.hardwareReset (d : Dev) : Dev :=
  if d.dp.step = 7 then d
  else if d.dp.step = 0 then (if d.dp.pending.isSome then d else d.modDp (fun p => { p with pending := some (3, []) }))
  else d.modDp (fun p => { p with step := 1 })

/-! ### Job faults (10 R372) -/

/-- MGT_JOB_FAULT takes a fault of the reset that has the given COUNT. -/
def Dev.recordFault (d : Dev) (j : JobFault) (count : Nat) : Dev :=
  { d with faultRec := { time := d.time.ts, fault := j, resetCount := count % 2 ^ 16, valid := true, suppressed := 0 } }.modDp
    (fun p => { p with recorded := true })

/-- JOB_FAULT: fault `k` of those on their way reaches the management plane. -/
def execJobFault (k : Nat) (s : State) : Host.Outcome State Fault Refusal :=
  s.on (fun d =>
    match d.faults[k]? with
    | none => d
    | some j =>
      let d := { d with faults := d.faults.eraseIdx k }
      if d.dp.step ≥ 3 then d
      else if d.dp.recorded then
        { d with faultRec := { d.faultRec with suppressed := satAdd 8 d.faultRec.suppressed 1 } }
      else
        let d := d.recordFault j (if d.dp.step = 0 then d.dp.count + 1 else d.dp.count)
        if d.dp.step = 0 && d.dp.pending.isNone then d.modDp (fun p => { p with pending := some (1, [j.func]) }) else d)

/-! ### The reset sequence (15 R505, Table 15-7) -/

/-- DATA_PLANE_RESET: step 1. -/
def execDataPlaneReset (s : State) : Host.Outcome State Fault Refusal :=
  s.on (fun d =>
    match d.dp.pending with
    | none => d
    | some (cause, own) =>
      if d.dp.step != 0 then d else
      let d := d.modDp (fun p => { p with step := 1, cause := cause, own := own, count := (p.count + 1) % 2 ^ 16,
                                          startEpoch := d.time.epoch % 2 ^ 32, pending := none })
      let d := d.modMgmt (fun m => { m with faultN := true, bring := { m.bring with
        st := if m.bring.st = Bring.ready then .recovering else m.bring.st } })
      (d.eventAll 31 24).ingestReset.composeReset)

/-- A ring at a data-plane reset (07 R281). -/
def Ring.lose (r : Ring) : Ring :=
  match r.st with
  | .disabled => r
  | .lost => r
  | _ => { r with en := false, st := .lost, cmds := [], slotIssued := false, slotEmpty := false }

/-- A core without its jobs; its local store is cleared later. -/
def Core.lose (c : Core) : Core := { Core.empty with ls := c.ls, lsZero := c.lsZero, split := c.split, lastPart := c.lastPart }

/-- Step 3: what the reset discards at once. -/
def Dev.loseWork (d : Dev) : Dev :=
  let d := d.talliesLost.composeDiscard.ingestDiscard
  { d with
    funcs := Tab.mapv d.funcs (fun u => { u with rings := Tab.mapv u.rings Ring.lose })
    cores := Tab.mapv d.cores Core.lose
    orders := [], nodeFree := [], launches := [], grid := []
    render := { passes := [], waiting := [], tiles := [], til := [], texels := [] }
    rays := { rays := [], cache := [], completed := [] }
    ledger := d.ledger.afterReset
    mint := { pools := [], calls := [] }
    mmu := { d.mmu with tlb := [], invs := [], invBusy := false }
    reserves := Tab.mapv d.reserves (fun r => if r.hotState = 0 then r else { r with hotState := 1 })
    mem := { d.mem with dir := [], dirRR := [], txns := [], resps := [], missRegs := [], prefetches := [], maints := []
                        maintBusy := false, maintAborted := d.mem.maintAborted || d.mem.maintBusy }
    faults := [] }

/-- DP_QUIESCE: steps 2 and 3. -/
def execDpQuiesce (s : State) : Host.Outcome State Fault Refusal :=
  s.on (fun d => if d.dp.step = 1 then d.loseWork.modDp (fun p => { p with step := 3 }) else d)

/-- DP_CLEAR: step 4. Lines in pinned ways are kept unless poisoned (04 R178). -/
def execDpClear (s : State) : Host.Outcome State Fault Refusal :=
  s.on (fun d =>
    if d.dp.step != 3 then d else
    let keep := fun (_ : Nat) (v : VLine) => d.mem.pinned.getLsbD v.way && v.poison == 0
    { d with cores := [], mem := { d.mem with vault := Tab.keep d.mem.vault keep, tile := [] } }.modDp (fun p => { p with step := 4 }))

/-- Usable cores of the plan. -/
def FloorPlan.coreCount (p : FloorPlan) : Nat :=
  ((onesOf p.clusters).map (fun c => (onesOf (Tab.get p.cores c (0 : BitVec 16))).length)).sum

/-- The usable counts fall below a minimum of 00 Table 0-1 (control cores are counted apart). -/
def FloorPlan.belowMin (p : FloorPlan) : Bool :=
  decide ((onesOf p.clusters).length < 63) || decide (p.coreCount < 1000) || decide ((onesOf p.slices).length < 62) ||
  decide ((onesOf p.banks).length < 15) || decide ((onesOf p.channels).length < 16) || decide ((onesOf p.csi).length < 8) ||
  decide ((onesOf p.dsi).length < 2)

/-- Whether the check of step 5 is made: on the cluster of the core that consumed a damaged register file or matrix slot. -/
def Dev.checkCluster (d : Dev) : Option Nat :=
  let j := d.faultRec.fault
  if d.dp.recorded && j.code == 0x0A && j.addr == 0 && j.unit == 0 then some (clusterOf j.index) else none

/-- DP_CHECK: step 5 (R506). A cluster that fails leaves the floor plan with its cores. -/
def execDpCheck (coresOk : BitVec 16) (clusterOk : Bool) (s : State) : Host.Outcome State Fault Refusal :=
  s.on (fun d =>
    if d.dp.step != 4 then d else
    let d := d.modDp (fun p => { p with step := 5 })
    match d.checkCluster with
    | none => d
    | some c =>
      let coresBad := (Tab.get d.plan.cores c 0) &&& ~~~ coresOk != 0
      if clusterOk && !coresBad then d else
      let plan := { d.plan with clusters := setBit d.plan.clusters c false, cores := Tab.del d.plan.cores c }
      let flags := (if clusterOk then 2 else 1) + (if plan.belowMin then 16 else 0)
      { d with plan := plan }.modMgmt (fun m => { m with bring := { m.bring with mismatch := m.bring.mismatch ||| flags } }))

/-- A reserve cluster whose image is loaded again leaves its holder meanwhile (10 R360). -/
def Dev.suspendLoans (d : Dev) : Dev :=
  d.reserves.foldl (fun (d : Dev) e =>
    match e.2.holder with
    | some p =>
      if e.2.hotState != 1 then d else
      let d := d.modPart p (fun x => { x with held := setBit x.held e.2.cluster false })
      { d with reserves := Tab.mod d.reserves e.1 (fun r => { r with holder := none, suspended := some p }) }
    | none => d) d

/-- DP_RELEASE: step 6; a part whose floor plan has a mismatch enters NOT_READY instead (R506). -/
def execDpRelease (s : State) : Host.Outcome State Fault Refusal :=
  s.on (fun d =>
    if d.dp.step != 5 then d
    else if d.mgmt.bring.mismatch != 0 then
      (d.stopPart.notice 0 1 d.mgmt.bring.mismatch).abortReqs d.mgmt.reqs.length
    else
      let d := { d with cycle := 0 }.modDp (fun p => { p with step := 0, recorded := false })
      let d := d.modMgmt (fun m => { m with
        faultN := m.clk.lost.getLsbD 3 || (m.faultN && m.bring.st != Bring.recovering)
        bring := { m.bring with st := if m.bring.st = Bring.recovering then .ready else m.bring.st } })
      ((d.eventAll 23 16).suspendLoans).replyAll 0x0500 (fun _ => true) (toLe 2 d.dp.count) d.mgmt.reqs.length)

/-- DP_RESET (14 R467, R478): the physical function asks for a data-plane reset, or joins the one in progress. -/
def execDpReset (f : Nat) (s : State) : Host.Outcome State Fault Refusal :=
  s.on (fun d => d.onMsg f 0x0500 d.isReady true (fun _ => 0) [] (fun _ => true) (fun _ => false)
    (fun d k _ =>
      let d := d.acceptReq k 0
      if d.dp.step = 0 && d.dp.pending.isNone then d.modDp (fun p => { p with pending := some (4, [0]) }) else d))

/-! ### PLLs and the control complex (01 R53; 14 R458; 15 R497, R504) -/

def Pll.bit : Pll → Nat
  | .array => 0
  | .sys => 1
  | .mem => 2
  | .pcie => 3
  | .disp0 => 4
  | .disp1 => 5

def Dev.setPll (d : Dev) (p : Pll) (lock lost : Bool) : Dev :=
  d.modMgmt (fun m => { m with clk := { m.clk with locks := setBit m.clk.locks (Pll.bit p) lock, lost := setBit m.clk.lost (Pll.bit p) lost } })

/-- PLL_LOSS_OF_LOCK. -/
def execPllLossOfLock (p : Pll) (s : State) : Host.Outcome State Fault Refusal :=
  s.on (fun d =>
    if !d.mgmt.clk.locks.getLsbD (Pll.bit p) then d else
    let d := d.setPll p false true
    let display := fun (e : Nat) =>
      (((d.chipFault 4 e false).stopOutput e).replyAll 0x0401 (fun r => r.p 0 1 == e) [] 4).notice 0 3 e
    match p with
    | .array => (d.chipFault 1 0 false).hardwareReset
    | .sys => (d.chipFault 2 0 false).hardwareReset
    | .mem => (d.chipFault 3 0 false).hardwareReset
    | .pcie => d.modMgmt (fun m => { m with faultN := true })
    | .disp0 => display 0
    | .disp1 => display 1)

/-- PLL_RELOCK. The PCIe PLL runs again only through a full reset. -/
def execPllRelock (p : Pll) (s : State) : Host.Outcome State Fault Refusal :=
  s.on (fun d => if p != Pll.pcie && d.mgmt.clk.lost.getLsbD (Pll.bit p) then d.setPll p true false else d)

/-- PLL_FAIL: 10 ms after the loss the PLL has not locked again. -/
def execPllFail (p : Pll) (s : State) : Host.Outcome State Fault Refusal :=
  s.on (fun d => if p != Pll.pcie && d.mgmt.clk.lost.getLsbD (Pll.bit p) then d.fatalFault 6 (Pll.bit p) else d)

/-- A fault that firmware does not survive: the mailboxes are served no more. -/
def Dev.controlDies (d : Dev) (detail : Nat) : Dev :=
  if d.mgmt.bring.held || d.mgmt.fw.dead then d else
  (d.modMgmt (fun m => { m with fw := { m.fw with dead := true } })).fatalFault 7 detail

/-- CONTROL_FATAL: an uncorrectable error in firmware memory (1) or an exception on a control core (2). -/
def execControlFatal (detail : Nat) (s : State) : Host.Outcome State Fault Refusal :=
  s.on (fun d => if detail = 1 || detail = 2 then d.controlDies detail else d)

/-- CONTROL_WATCHDOG. -/
def execControlWatchdog (s : State) : Host.Outcome State Fault Refusal := s.on (fun d => d.controlDies 3)

/-! ### Function-level resets (10 R376-R378; 14 R467) -/

/-- The functions whose reset is one with that of `f`. -/
def Dev.flrGroup (d : Dev) (f : Nat) : List Nat :=
  match (d.func f).flr with
  | none => []
  | some r => (List.range 16).filter (fun g => match (d.func g).flr with | some x => x.lead == r.lead | none => false)

/-- Steps 1 to 3 of R376 for functions that drain as one. A function whose reset is in progress is left out. -/
def Dev.flrStart (d : Dev) (fs : List Nat) (lead : Nat) : Dev :=
  let fs := fs.filter (fun f => (d.func f).flr.isNone)
  let d := fs.foldl (fun (d : Dev) f => d.modFunc f (fun u => { u with flr := some { waited := 0, lead := lead } })) d
  let d := d.modMgmt (fun m => { m with reqs := m.reqs.map (fun r => if fs.contains r.fn then { r with live := false } else r) })
  let d := fs.foldl (fun (d : Dev) f => (d.ringsOf f).foldl (fun (d : Dev) r => d.stopRing f r (fun _ => true)) d) d
  (fs.flatMap d.partsOf).foldl (fun (d : Dev) p => d.drainPart p) d

/-- Step 4 has ended. -/
def Dev.flrDrained (d : Dev) (fs : List Nat) : Bool :=
  (fs.flatMap d.partsOf).all d.partDrained && fs.all (fun f => (d.ringsOf f).all (fun r => (d.ring f r).cmds.isEmpty)) &&
  !(fs.contains 0 && d.mem.maintBusy)

/-- Step 5 for a partition. -/
def Dev.flrPart (d : Dev) (p : Nat) : Dev :=
  let d := d.clearTallies p (some p)
  let d := (d.ordersOf p).foldl (fun (d : Dev) o => d.dropOrder o) d
  let d := (d.releaseSlots p).dropPools p
  let d := (d.clustersOf p).foldl (fun (d : Dev) c => (d.emptyCluster c p).zeroCluster c 0) d
  d.modPart p (fun x => { x with drainK := 0 })

/-- Step 5 for a function: its registers, tags, fault records and violation counters. -/
def Dev.flrFunc (d : Dev) (f : Nat) : Dev :=
  let u := d.func f
  let d := { d with
    tags := Tab.keep d.tags (fun k _ => !(decide (u.tagBase ≤ k) && decide (k < u.tagBase + u.tagCount)))
    mmu := { d.mmu with recs := d.mmu.recs.map (fun (e : Nat × FaultRec) =>
      if d.ownsCtx f e.1 then (e.1, { e.2 with valid := false, more := false }) else e) }
    aud := { d.aud with viol := Tab.keep d.aud.viol (fun k _ => !(decide (violFnOff f 0 ≤ k) && decide (k < violFnOff f 0 + 32))) } }
  d.modFunc f (fun u => { Func.reset f with tagBase := u.tagBase, tagCount := u.tagCount })

/-- FLR (R376, R378): one of the physical function clears VF Enable and takes every virtual function with it. -/
def execFlr (f : Nat) (s : State) : Host.Outcome State Fault Refusal :=
  s.on (fun d =>
    if f ≥ 16 then d
    else if f = 0 then
      (d.flrStart (if d.mgmt.vfEnable then List.range 16 else [0]) 0).modMgmt (fun m => { m with vfEnable := false })
    else d.flrStart [f] f)

/-- VF_ENABLE_CLEAR (R378): the virtual functions drain as one. -/
def Dev.vfClear (d : Dev) : Dev :=
  if d.mgmt.vfEnable then
    (d.flrStart ((List.range 16).filter (· != 0)) 16).modMgmt (fun m => { m with vfEnable := false })
  else d

def execVfEnableClear (s : State) : Host.Outcome State Fault Refusal := s.on (fun d => d.vfClear)

/-- FLR_DRAINED (R376 step 5; R377): the work has drained, or a data-plane reset has discarded it. -/
def execFlrDrained (f : Nat) (s : State) : Host.Outcome State Fault Refusal :=
  s.on (fun d =>
    let fs := d.flrGroup f
    if fs.isEmpty || !(d.flrDrained fs || decide (3 ≤ d.dp.step)) then d else
    let d := (fs.flatMap d.partsOf).foldl (fun (d : Dev) p => d.flrPart p) d
    fs.foldl (fun (d : Dev) f => d.flrFunc f) d)

/-- FLR_ESCALATION (R377): 500,000 k-cycles have passed and the work has not drained. -/
def execFlrEscalation (f : Nat) (s : State) : Host.Outcome State Fault Refusal :=
  s.on (fun d =>
    match (d.func f).flr with
    | none => d
    | some r =>
      let fs := d.flrGroup f
      if r.waited < 500000 || d.flrDrained fs || d.dp.step != 0 || d.dp.pending.isSome then d else
      let own := if r.lead < 16 then [r.lead] else fs
      (own.foldl (fun (d : Dev) g => d.violFn g 3) d).modDp (fun p => { p with pending := some (2, own) }))

end Sys2Proof.Machine
end

