-- ==== Sys2Proof/Machine/Firmware.lean ====
section
/-! DEFINITION. The information, firmware and security messages, image verification, attestation over DOE, and the states of
bring-up (14 R471-R494; 15 R498-R503). -/

namespace Sys2Proof.Machine

/-! ### The running image (14 R484-R489) -/

/-- `n` bytes of a list, missing ones 0. -/
def fitBytes (n : Nat) (l : List Byte) : List Byte := (l ++ List.replicate n 0).take n

/-- FUSED_SVN (R489). -/
def Fuses.fusedSvn (f : Fuses) : Nat := (onesOf f.svn).foldl (fun (m : Nat) i => max m (i + 1)) 0

/-- The header digest (R487). -/
def headerDigest (h : BitVec 1024) : List Byte := fitBytes 64 (Config.shake256 (lineBytes h 0 128) 64)

def hdrSvn (h : BitVec 1024) : Nat := fld h.toNat 15 8
def hdrKey (h : BitVec 1024) : Nat := fld h.toNat 23 16
def hdrVersion (h : BitVec 1024) : Nat := fld h.toNat 159 128

/-- GET_STATE byte 1 (14 Table 14-6). -/
def Dev.stateFlags (d : Dev) : Nat :=
  b2n (d.mgmt.bring.st == Bring.ready) + 2 * b2n (d.mgmt.bring.mismatch != 0) +
  4 * b2n (d.mgmt.fw.header.isSome && !d.mgmt.fw.dead)

/-- The state codes of 15 Table 15-2. -/
def Bring.code : Bring → Nat
  | .romStart => 0
  | .awaitFw => 1
  | .verify => 2
  | .memTrain => 3
  | .memInit => 4
  | .selfTest => 5
  | .topology => 6
  | .ready => 7
  | .notReady => 8
  | .recovering => 9

def Dev.stateCode (d : Dev) : Nat := Bring.code d.mgmt.bring.st

/-! ### The floor-plan report (15 R503, Table 15-5a) -/

/-- A core mask for each cluster. -/
def coreMasks (m : Nat → BitVec 16) : List Byte := (List.range 64).flatMap (fun c => toLe 2 (m c).toNat)

def Dev.report (d : Dev) : List Byte :=
  let b := d.mgmt.bring
  let p := d.plan
  toLe 2 1 ++ toLe 2 384 ++ toLe 1 0x21 ++ toLe 1 b.control ++ toLe 2 b.mismatch ++ toLe 16 Config.serial.toNat ++
  toLe 8 p.clusters.toNat ++ toLe 8 p.slices.toNat ++ toLe 2 p.banks.toNat ++ toLe 2 p.channels.toNat ++
  toLe 1 p.csi.toNat ++ toLe 1 p.dsi.toNat ++ toLe 2 p.coreCount ++ toLe 8 b.fitted ++ toLe 8 d.mmu.dramSize ++
  coreMasks (fun c => Tab.get p.cores c 0) ++ toLe 8 Config.fusedClusters.toNat ++ toLe 8 Config.fusedSlices.toNat ++
  toLe 2 Config.fusedBanks.toNat ++ toLe 14 0 ++ toLe 8 b.readyTime ++ toLe 24 0 ++ coreMasks Config.fusedCores

/-! ### Messages that need no firmware (14 R471) -/

/-- GET_VERSION: what only an image has reads as open values until one runs. -/
def execGetVersion (f : Nat) (s : State) : Host.Outcome State Fault Refusal :=
  s.on (fun d => d.onMsg f 0x0001 true false (fun _ => 0) [] (fun _ => true) (fun _ => false)
    (fun d k _ =>
      let (x, d) := d.fresh
      let version := match d.mgmt.fw.header with | some h => toLe 4 (hdrVersion h) ++ toLe 1 (hdrSvn h) | none => toLe 5 x
      let key := match d.mgmt.fw.header with | some h => hdrKey h | none => x / 2 ^ 40
      let digest := match d.mgmt.fw.header with | some h => headerDigest h | none => toLe 64 (x / 2 ^ 48)
      d.reply k 0 0 (toLe 4 Config.romVersion ++ version ++ toLe 1 d.fuses.fusedSvn ++ toLe 1 key ++ toLe 1 1 ++
        toLe 2 d.fuses.revoked.toNat ++ toLe 2 0 ++ digest)))

/-- GET_STATE. -/
def execGetState (f : Nat) (s : State) : Host.Outcome State Fault Refusal :=
  s.on (fun d => d.onMsg f 0x0002 true false (fun _ => 0) [] (fun _ => true) (fun _ => false)
    (fun d k _ => d.reply k 0 0 (toLe 1 d.stateCode ++ toLe 1 d.stateFlags ++ toLe 2 0 ++ toLe 4 d.time.epoch ++ toLe 2 d.dp.count)))

/-- GET_FLOORPLAN: served from the end of the topology check (15 R503). -/
def execGetFloorplan (f : Nat) (s : State) : Host.Outcome State Fault Refusal :=
  s.on (fun d =>
    let ok := d.mgmt.bring.reported &&
      (d.mgmt.bring.st == Bring.ready || d.mgmt.bring.st == Bring.recovering || d.mgmt.bring.st == Bring.notReady)
    d.onMsg f 0x0003 ok false (fun _ => 4) [(0, 4)] (fun _ => true) (fun _ => false)
      (fun d k r => d.reply k 0 0 (toLe 4 384 ++ (d.report.drop (r.p 0 4)).take 224)))

/-! ### Loading and verifying an image (14 R484-R488) -/

/-- FW_LOAD: the boot ROM reads the image; it is verified by IMAGE_VERIFY. An image that cannot be read fails there. -/
def execFwLoad (f : Nat) (s : State) : Host.Outcome State Fault Refusal :=
  s.on (fun d => d.onMsg f 0x0600 (d.mgmt.bring.st == Bring.awaitFw) true (fun _ => 12) [(0, 12)] (fun _ => true) (fun _ => false)
    (fun d k r =>
      let n := r.p 8 4
      let read := d.masterOk 0 && decide (0x3000 ≤ n) && decide (n ≤ 7352320)
      let img := if read then Mem.readN d.mem.host (r.p 0 8) n else []
      let d := d.countGlobal 12 img.length
      (d.modMgmt (fun m => { m with
        fw := { m.fw with image := img }
        bring := { m.bring with st := .verify } })).acceptReq k 0))

/-- The status of an image under R486. -/
def imageStatus (fuses : Fuses) (img : List Byte) : Nat :=
  let part := fun (off n : Nat) => (img.drop off).take n
  let hb := part 0 128
  let h := leNat hb
  let zero := fun (off n : Nat) => (part off n).all (fun b => b == 0)
  let size := fld h 191 160
  let entry := fld h 223 192
  let formed := fld h 127 64 == 0x57464C495341474E && fld h 7 0 == 1 && fld h 31 24 == 0x21 && fld h 511 224 == 0 &&
    fld h 63 32 == 0 && zero 0x1CAD 3 && zero 0x299D 0x663 && decide (4096 ≤ size) && decide (size ≤ 7340032) && size % 8 == 0 &&
    decide (entry < size) && entry % 8 == 0 && decide (fld h 23 16 ≤ 15) && decide (fld h 15 8 ≤ 64) &&
    img.length == 0x3000 + size
  let digest := fun (m : List Byte) => Config.shake256 m 64
  let root := part 0x80 1952
  let sign := part 0x820 1952
  if !formed then 8
  else if Config.shake256 root 32 != toLe 32 Config.rootHash.toNat then 8
  else if !Config.mldsaVerify root (digest (toLe 4 (fld h 23 16) ++ sign)) (part 0xFC0 3309) then 8
  else if !Config.mldsaVerify sign (digest hb) (part 0x1CB0 3309) then 8
  else if digest (img.drop 0x3000) != toLe 64 (fld h 1023 512) then 8
  else if fuses.revoked.getLsbD (fld h 23 16) then 10
  else if fld h 15 8 < fuses.fusedSvn then 9
  else 0

/-- IMAGE_VERIFY (R486, R488): the firmware starts, or firmware memory is zeroed and the boot ROM waits again. -/
def execImageVerify (s : State) : Host.Outcome State Fault Refusal :=
  s.on (fun d =>
    if d.mgmt.bring.st != Bring.verify || d.mgmt.bring.held then d else
    let done := fun (d : Dev) (st : Nat) (pay : List Byte) =>
      match d.mgmt.reqs.findIdx? (fun r => r.accepted && r.msg == 0x0600) with
      | some k => d.reply k st 0 pay
      | none => d
    let img := d.mgmt.fw.image
    let st := imageStatus d.fuses img
    if st = 0 then
      let h := lineOf (img.take 128)
      let (x, d) := d.fresh
      done (d.modMgmt (fun m => { m with
        fw := { m.fw with header := some h, aliasRnd := x }
        bring := { m.bring with st := .memTrain } })) 0 (headerDigest h)
    else
      done (d.modMgmt (fun m => { m with
        fw := { m.fw with image := [] }
        bring := { m.bring with st := .awaitFw } })) st [])

/-! ### Fuses (14 R490, R491) -/

/-- The bits from `i` up, `n` of them, programmed in ascending order until one does not read back: the fuses and whether all
read back. -/
def burnSvn (stuck : BitVec 64) : Nat → Nat → BitVec 64 → BitVec 64 × Bool
  | _, 0, x => (x, true)
  | i, n + 1, x =>
    if !x.getLsbD i && stuck.getLsbD i then (x, false) else burnSvn stuck (i + 1) n (setBit x i true)

/-- SVN_COMMIT. `stuck` names the bits that do not read back as programmed. -/
def execSvnCommit (f : Nat) (stuck : BitVec 64) (s : State) : Host.Outcome State Fault Refusal :=
  s.onFuses (fun d => d.onMsg f 0x0601 d.isReady true (fun _ => 0) [] (fun _ => true) (fun _ => false)
    (fun d k _ =>
      let svn := match d.mgmt.fw.header with | some h => hdrSvn h | none => 0
      let r := burnSvn stuck 0 svn d.fuses.svn
      let d := { d with fuses := { d.fuses with svn := r.1 } }
      if r.2 then d.reply k 0 0 (toLe 1 d.fuses.fusedSvn) else d.reply k 0x0D 0 []))

/-- KEY_REVOKE. `ok`: the fuse reads back as programmed. -/
def execKeyRevoke (f : Nat) (ok : Bool) (s : State) : Host.Outcome State Fault Refusal :=
  s.onFuses (fun d => d.onMsg f 0x0602 d.isReady true (fun _ => 1) [(0, 1)] (fun r => decide (r.p 0 1 < 16))
    (fun r => match d.mgmt.fw.header with | some h => decide (hdrKey h ≤ r.p 0 1) | none => true)
    (fun d k r =>
      let i := r.p 0 1
      if d.fuses.revoked.getLsbD i || ok then
        let d := { d with fuses := { d.fuses with revoked := setBit d.fuses.revoked i true } }
        d.reply k 0 0 (toLe 2 d.fuses.revoked.toNat)
      else d.reply k 0x0D 0 []))

/-! ### Attestation (14 R492-R494) -/

/-- The DOE mailbox is served. -/
def Dev.doeServed (d : Dev) : Bool := d.mailServed

def Dev.doeAnswer (d : Dev) (bs : List Byte) : Dev := d.modMgmt (fun m => { m with fw := { m.fw with doe := some bs } })

/-- DOE_DISCOVERY: the types that the mailbox supports: discovery itself and ATTEST (layout of PCIe, notes/assumptions/11.md). -/
def execDoeDiscovery (index : Nat) (s : State) : Host.Outcome State Fault Refusal :=
  s.on (fun d =>
    if !d.doeServed then d else
    match index with
    | 0 => d.doeAnswer (toLe 2 0x0001 ++ toLe 1 0 ++ toLe 1 1)
    | 1 => d.doeAnswer (toLe 2 0x4A57 ++ toLe 1 1 ++ toLe 1 0)
    | _ => d.doeAnswer (toLe 2 0xFFFF ++ toLe 1 0 ++ toLe 1 0))

def asciiBytes (s : String) : List Byte := s.toList.map (fun c => BitVec.ofNat 8 c.toNat)

def udsBytes : List Byte := toLe 32 Config.uds.toNat
def idSeed : List Byte := fitBytes 32 (Config.shake256 (asciiBytes "NGASIL-ID" ++ udsBytes) 32)
def idPublic : List Byte := fitBytes 1952 (Config.mldsaPublic idSeed)

/-- The alias seed of an image (R493). -/
def aliasSeed (h : BitVec 1024) : List Byte :=
  fitBytes 32 (Config.shake256 (asciiBytes "NGASIL-ALIAS" ++ udsBytes ++ headerDigest h) 32)

/-- The alias certificate (14 Table 14-12). -/
def aliasCert (h : BitVec 1024) (rnd : Nat) : List Byte :=
  let tbs := toLe 16 2 ++ toLe 16 Config.serial.toNat ++ fitBytes 32 (Config.shake256 idPublic 32) ++ headerDigest h ++
    fitBytes 1952 (Config.mldsaPublic (aliasSeed h))
  tbs ++ fitBytes 3309 (Config.mldsaSign idSeed (Config.shake256 tbs 64) rnd)

/-- An ATTEST response with a status and what follows it. -/
def Dev.attest (d : Dev) (code status : Nat) (body : List Byte) : Dev :=
  d.doeAnswer (toLe 1 code ++ toLe 1 status ++ toLe 2 0 ++ body)

/-- GET_CERT. -/
def execGetCert (kind : Nat) (s : State) : Host.Outcome State Fault Refusal :=
  s.on (fun d =>
    if !d.doeServed then d else
    match kind with
    | 1 => d.attest 1 0 (fitBytes 5392 Config.certOtp)
    | 2 =>
      match d.mgmt.fw.header with
      | some h => d.attest 1 0 (fitBytes 5392 (aliasCert h d.mgmt.fw.aliasRnd))
      | none => d.attest 1 7 []
    | _ => d.attest 1 3 [])

/-- Bytes 0 to 151 of an evidence record (14 Table 14-13). -/
def Dev.evidenceBytes (d : Dev) (h : BitVec 1024) (nonce : BitVec 256) : List Byte :=
  toLe 32 nonce.toNat ++ toLe 8 d.time.ts ++ headerDigest h ++ toLe 4 (hdrVersion h) ++ toLe 1 (hdrSvn h) ++
  toLe 1 d.fuses.fusedSvn ++ toLe 2 d.fuses.revoked.toNat ++ toLe 1 d.stateCode ++ toLe 1 d.stateFlags ++ toLe 2 d.dp.count ++
  (if d.mgmt.bring.reported then fitBytes 32 (Config.shake256 d.report 32) else toLe 32 0) ++ toLe 4 0

/-- GET_EVIDENCE. The random input of the signature is open (FIPS 204). -/
def execGetEvidence (nonce : BitVec 256) (s : State) : Host.Outcome State Fault Refusal :=
  s.on (fun d =>
    if !d.doeServed then d else
    match d.mgmt.fw.header with
    | none => d.attest 2 7 []
    | some h =>
      let (x, d) := d.fresh
      let bs := d.evidenceBytes h nonce
      let sig := fitBytes 3309 (Config.mldsaSign (aliasSeed h) (Config.shake256 bs 64) x)
      d.attest 2 0 (fitBytes 3464 (bs ++ sig)))

/-- DOE_ABORT: the request in progress is discarded and no response to it is sent. -/
def execDoeAbort (s : State) : Host.Outcome State Fault Refusal :=
  s.on (fun d => d.modMgmt (fun m => { m with fw := { m.fw with doe := none } }))

/-! ### Bring-up (15 R498-R502) -/

def Dev.modBring (d : Dev) (g : BringUp → BringUp) : Dev := d.modMgmt (fun m => { m with bring := g m.bring })

/-- The bring-up state is `st`, and the part is powered and out of reset. -/
def Dev.inBring (d : Dev) (st : Bring) : Bool := d.mgmt.bring.st == st && d.mgmt.bring.powered && !d.mgmt.bring.held

/-- ROM_START_END: array, system, memory and PCIe PLLs are locked and configuration space is ready. `ok`: every control core and
the firmware memory pass the ROM tests; else which cores do is an open value. -/
def execRomStartEnd (ok : Bool) (s : State) : Host.Outcome State Fault Refusal :=
  s.on (fun d =>
    if !d.inBring .romStart then d else
    let (x, d) := d.fresh
    d.modMgmt (fun m => { m with
      clk := { m.clk with locks := 0b001111 }
      bring := { m.bring with
        st := .awaitFw
        control := if ok then 0xF else x % 16
        mismatch := if ok then m.bring.mismatch else m.bring.mismatch ||| 64 } }))

/-- The fitted capacity that the MEMSEL strap selects (17 Table 17-4); none for a reserved code (R540). -/
def fittedBytes (memSel : Nat) : Nat :=
  match memSel with
  | 0 => 2 ^ 34
  | 1 => 2 ^ 35
  | 2 => 2 ^ 36
  | 3 => 2 ^ 36
  | _ => 0

/-- MEM_TRAIN_END: `trained` names the channels that trained; a reserved MEMSEL trains none. -/
def execMemTrainEnd (trained : BitVec 16) (s : State) : Host.Outcome State Fault Refusal :=
  s.on (fun d =>
    if !d.inBring .memTrain then d else
    let ch : BitVec 16 := if d.memSel < 4 then trained else 0
    { d with plan := { d.plan with channels := ch } }.modBring (fun b => { b with
      st := .memInit
      fitted := fittedBytes d.memSel
      mismatch := if ch = 0xFFFF then b.mismatch else b.mismatch ||| 32 }))

/-- MEM_INIT_END: every fitted byte is zero with a valid outer code. -/
def execMemInitEnd (s : State) : Host.Outcome State Fault Refusal :=
  s.on (fun d =>
    if !d.inBring .memInit then d else
    { d with mem := { d.mem with dram := [], dpoison := [], dramLost := false } }.modBring (fun b => { b with st := .selfTest }))

/-- The units that are marked usable and pass: a cluster needs a core that passes with it (00 Table 0-1). -/
def SelfTest.plan (r : SelfTest) (channels : BitVec 16) : FloorPlan :=
  let cores := fun (c : Nat) => Config.fusedCores c &&& (r.cores[c]?).getD 0
  let clusters := maskOf 64 ((onesOf (Config.fusedClusters &&& r.clusters)).filter (fun c => cores c != 0))
  { clusters := clusters
    cores := (onesOf clusters).map (fun c => (c, cores c))
    slices := Config.fusedSlices &&& r.slices
    banks := Config.fusedBanks &&& r.banks
    channels := channels
    csi := r.csi
    dsi := r.dsi }

/-- SELF_TEST_END. Firmware then sets the operating point that the part is to run at; which one is open (01 R52). -/
def execSelfTestEnd (r : SelfTest) (s : State) : Host.Outcome State Fault Refusal :=
  s.on (fun d =>
    if !d.inBring .selfTest then d else
    let (x, d) := d.fresh
    let d := { d with plan := SelfTest.plan r d.plan.channels }
    d.modMgmt (fun m => { m with
      clk := { m.clk with aNext := x % 3 }
      pow := { m.pow with pointReq := x % 3, ceiling := 2, avsMv := Config.fusedMv (x % 3) }
      bring := { m.bring with st := .topology } }))

/-- The mismatch flags of 15 Table 15-4 that the topology check sets. -/
def Dev.topologyFlags (d : Dev) : Nat :=
  let p := d.plan
  let lostCluster := Config.fusedClusters &&& ~~~ p.clusters != 0
  let lostCore := (List.range 64).any (fun c => Config.fusedCores c &&& ~~~ (Tab.get p.cores c 0) != 0)
  (if Config.descBad then 256 else
    b2n lostCluster + 2 * b2n lostCore + 4 * b2n (Config.fusedSlices &&& ~~~ p.slices != 0) +
    8 * b2n (Config.fusedBanks &&& ~~~ p.banks != 0)) +
  16 * b2n (p.belowMin || d.mgmt.bring.control != 0xF) + 128 * b2n (p.csi != 0xFF || p.dsi != 3)

/-- The usable DRAM size (05 R183): 7/8 of what is fitted with the outer code on. -/
def Dev.usableDram (d : Dev) : Nat :=
  if d.outerOff then d.mgmt.bring.fitted else d.mgmt.bring.fitted / 8 * 7

/-- TOPOLOGY_CHECK (R502): made once the a-clock runs at the operating point. -/
def execTopologyCheck (s : State) : Host.Outcome State Fault Refusal :=
  s.on (fun d =>
    if !d.inBring .topology || d.time.aPoint != d.mgmt.clk.aNext then d else
    let d := { d with mmu := { d.mmu with dramSize := d.usableDram } }
    let d := d.modBring (fun b => { b with mismatch := b.mismatch ||| d.topologyFlags, reported := true })
    if d.mgmt.bring.mismatch = 0 then
      let d := d.modPart 0 (fun x => { x with held := d.plan.clusters })
      { d with cycle := 0 }.modMgmt (fun m => { m with
        faultN := m.clk.lost.getLsbD 3
        bring := { m.bring with st := .ready, readyTime := d.time.ts } })
    else d.stopPart.notice 0 1 d.mgmt.bring.mismatch)

end Sys2Proof.Machine
end

