-- ==== Sys2Proof/Machine/Boundary.lean ====
section
/-! DEFINITION. The passage of time, the actions of an epoch boundary, operating points, and thermal and power policy
(00 R25-R28; 01 R39-R52; 15 R508; 17 R553; 18 R569-R574). -/

namespace Sys2Proof.Machine

/-- The k-cycles of an epoch (00 R26). -/
def epochK : Nat := 125000

/-! ### Elapsing k-cycles -/

/-- The part is powered and out of reset: its timestamp counts. -/
def Dev.clocked (d : Dev) : Bool := d.mgmt.bring.powered && !d.mgmt.bring.held

/-- a-cycles in a k-cycle: none after a thermal trip, one while the array PLL is bypassed (15 R497, 18 R574). -/
def Dev.aPerK (d : Dev) : Nat :=
  if d.mgmt.thermTrip then 0 else if d.mgmt.clk.lost.getLsbD 0 then 1 else
  match d.time.aPoint with
  | 0 => 4
  | 1 => 6
  | _ => 8

/-- A group's watchdog counts (02 R97). -/
def Core.watches (c : Core) (a : Nat) : Core :=
  if c.stopped then c else { c with groups := Tab.mapv c.groups (fun (g : Group) => { g with watch := g.watch + a }) }

/-- A drain of partition `p`'s work is under way (10 R589). -/
def Dev.drains (d : Dev) (p : Nat) : Bool :=
  ((d.part p).cfg.valid && (d.func (d.part p).cfg.func).flr.isSome) ||
  d.mgmt.reqs.any (fun r => r.accepted && r.msg == 0x0106 && r.phase == 0 && r.p 0 1 == p)

/-- What `k` k-cycles count, the timestamp apart: CYCLE, the watchdogs, DRAIN_K, and the limits of resets, moves and messages. -/
def Dev.counts (d : Dev) (k : Nat) : Dev :=
  let a := k * d.aPerK
  { d with
    cycle := d.cycle + a
    cores := if d.running then Tab.mapv d.cores (fun c => Core.watches c a) else d.cores
    parts := d.parts.map (fun (e : Nat × Part) => if d.drains e.1 then (e.1, { e.2 with drainK := satAdd 32 e.2.drainK k }) else e)
    funcs := Tab.mapv d.funcs (fun (u : Func) =>
      { u with flr := u.flr.map (fun (x : Flr) => { x with waited := x.waited + k }) })
    moves := Tab.mapv d.moves (fun (m : Move) => if m.phase = MovePhase.draining then { m with waited := m.waited + k } else m)
    mgmt := { d.mgmt with reqs := d.mgmt.reqs.map (fun (r : MbxReq) => if r.accepted then { r with waited := r.waited + k } else r) } }

/-- `k` k-cycles pass within an epoch. -/
def Dev.elapse (d : Dev) (k : Nat) : Dev :=
  { d.counts k with time := { d.time with ts := d.time.ts + k, phase := d.time.phase + k } }

/-- One k-cycle in which no command comes: the timestamp counts up to the last k-cycle of an epoch, or of its range; the next is
EPOCH_BOUNDARY's or TIMESTAMP_WRAP's. -/
def Dev.tick (d : Dev) : Dev :=
  if d.clocked && decide (d.time.phase + 1 < epochK) && decide (d.time.ts + 1 < 2 ^ 64) then d.elapse 1 else d

/-! ### Steps 1 and 2: snapshots and budget violations (10 R364; 16 R522) -/

def Dev.modAud (d : Dev) (g : Aud → Aud) : Dev := { d with aud := g d.aud }

/-- AUDIT_SNAPSHOT of the epoch that ends. -/
def Dev.snapshot (d : Dev) : Dev :=
  d.modAud (fun a => { a with snap := a.count, snapWrap := a.wrapEpoch, wrapEpoch := [], snapValid := true,
                              snapIndex := d.time.epoch })

/-- The budgets of a partition that were reached: DRAM, host, queries. -/
def Part.reached (x : Part) : List Nat :=
  (if x.cfg.dramBudget != 0 && decide (x.cfg.dramBudget * 65536 ≤ x.dramUsed) then [0] else []) ++
  (if x.cfg.hostBudget != 0 && decide (x.cfg.hostBudget * 4096 ≤ x.hostUsed) then [1] else []) ++
  (if x.cfg.queryBudget != 0 && decide (x.cfg.queryBudget ≤ x.queriesUsed) then [2] else [])

/-- The partitions with a budget that was reached. -/
def Dev.overBudget (d : Dev) : List Nat := (List.range 16).filter (fun p => (d.part p).cfg.valid && !(d.part p).reached.isEmpty)

/-- BUDGET_VIOLATION_UPDATE, and each function's BUDGET_VEC event. -/
def Dev.budgetViolations (d : Dev) : Dev :=
  let ps := d.overBudget
  let d := ps.foldl (fun (d : Dev) p => (d.part p).reached.foldl (fun (d : Dev) k => d.violPart p k) d) d
  let fs := (List.range 16).filter (fun f => ps.any (fun p => (d.part p).cfg.func == f))
  fs.foldl (fun (d : Dev) f =>
    let e := (d.func f).eventVec
    if bitOf e 15 then d.raiseVec f (fld e 13 8) else d) d

/-! ### Step 3: budgets and settings (10 R351, R356, R364; 14 R465, R475) -/

/-- The audit counters of a cluster that joins a partition are counted from the snapshot (16 R524). -/
def Dev.markJoin (d : Dev) (c : Nat) : Dev :=
  let offs := (List.range 16).flatMap (fun e => [0x60000 + 128 * c + 8 * e, 0x64000 + 128 * c + 8 * e])
  d.modAud (fun a => { a with joins := offs.foldl (fun (t : Tab Nat) o => Tab.put t o (Tab.get a.snap o 0)) a.joins })

/-- A partition's violation counters are 0. -/
def Dev.clearPartViol (d : Dev) (p : Nat) : Dev :=
  d.modAud (fun a => { a with viol := Tab.keep a.viol (fun k _ => !(decide (violPartOff p 0 ≤ k) && decide (k < violPartOff p 0 + 64))) })

/-- A partition that PART_SET makes valid has no clusters and no windows. -/
def Part.fresh (x : Part) : Part := { x with held := 0, wins := [] }

/-- BUDGET_REARM for one partition: USE becomes USE_PREV and the pending settings apply. -/
def Dev.rearmPart (d : Dev) (p epoch : Nat) : Dev :=
  let x := d.part p
  let becomes := !x.cfg.valid && x.pendCfg.isSome
  let changed := x.pendCfg.isSome || !x.pendWins.isEmpty || decide ((d.talliesOf p).length ≠ x.tallies)
  let x := if becomes then x.fresh else x
  let d := if becomes then d.clearPartViol p else d
  if !(Tab.has d.parts p) && !changed then d else
  d.modPart p (fun _ =>
    { x with
      cfg := x.pendCfg.getD x.cfg
      pendCfg := none
      wins := x.pendWins.foldl (fun (t : Tab Window) (e : Nat × Window) => Tab.put t e.1 e.2) x.wins
      pendWins := []
      applied := if changed then epoch % 2 ^ 32 else x.applied
      tallies := (d.talliesOf p).length
      dramPrev := x.dramUsed
      hostPrev := x.hostUsed
      queriesPrev := x.queriesUsed
      dramUsed := 0
      hostUsed := 0
      queriesUsed := 0 })

/-- The APPLIED payload. -/
def appliedBytes (epoch : Nat) : List Byte := toLe 4 (epoch % 2 ^ 32)

/-- Every cluster whose zeroing has ended joins its new holder; its message completes. -/
def Dev.joinAll (d : Dev) (epoch : Nat) : Dev :=
  (d.moves.filter (fun (e : Nat × Move) => e.2.phase == MovePhase.joining)).foldl (fun (d : Dev) (e : Nat × Move) =>
    let k := d.moveReq e.1 e.2
    let d := (d.joinMove e.1 e.2).markJoin e.1
    let d := [e.2.src, e.2.dst].foldl (fun (d : Dev) (q : Option Nat) => match q with
      | some p => d.modPart p (fun x => { x with applied := epoch % 2 ^ 32 })
      | none => d) d
    match k with
    | some k => d.reply k 0 0 (appliedBytes epoch)
    | none => d) d

/-- A cluster whose hot set is READY again returns to its holder (10 R360). -/
def Dev.returnLoans (d : Dev) (epoch : Nat) : Dev :=
  d.reserves.foldl (fun (d : Dev) (e : Nat × Reserve) =>
    match e.2.suspended with
    | some p =>
      if e.2.hotState != 2 then d else
      let d := d.modPart p (fun x => { x with held := setBit x.held e.2.cluster true, applied := epoch % 2 ^ 32 })
      ({ d with reserves := Tab.mod d.reserves e.1 (fun r => { r with holder := some p, suspended := none }) }).markJoin e.2.cluster
    | none => d) d

/-- The last step of every PART_RELEASE whose steps 1 to 4 are done. -/
def Dev.endReleases (d : Dev) (epoch : Nat) : Dev :=
  let go := d.mgmt.reqs.filter (fun r => r.accepted && r.msg == 0x0106 && r.phase == 1)
  let d := go.foldl (fun (d : Dev) r =>
    let p := r.p 0 1
    (d.modPart p (fun x => { x with
      cfg := { x.cfg with valid := false }
      applied := epoch % 2 ^ 32 })).clearPartViol p) d
  d.replyAll 0x0106 (fun r => r.phase == 1) [] go.length

/-- Step 3 for the boundary that begins epoch `epoch`. -/
def Dev.rearm (d : Dev) (epoch : Nat) : Dev :=
  let was := d.safety?
  let d := (List.range 16).foldl (fun (d : Dev) p => d.rearmPart p epoch) d
  let d := ((d.joinAll epoch).returnLoans epoch).endReleases epoch
  let d := if was.isSome && d.safety? != was then d.strongClear else d
  let d := { d with ledger := { d.ledger with queries := Tab.mapv d.ledger.queries (fun (q : LQuery) => { q with beyond := false }) } }
  let d := d.modMgmt (fun m => { m with pow := { m.pow with limit := m.pow.limitNext.getD m.pow.limit, limitNext := none } })
  let n := d.mgmt.reqs.length
  let pay := appliedBytes epoch
  ((d.replyAll 0x0100 (fun _ => true) pay n).replyAll 0x0101 (fun _ => true) pay n).replyAll 0x0301 (fun _ => true) pay n

/-! ### Step 4: interrupt moderation (10 R369) -/

/-- Every vector with held events sends one message, and a new window opens. -/
def Dev.closeWindows (d : Dev) : Dev :=
  let held := d.funcs.flatMap (fun (e : Nat × Func) =>
    (e.2.vecs.filter (fun (v : Nat × Vector) => decide (1 ≤ v.2.events))).map (fun v => (e.1, v.1)))
  let d := held.foldl (fun (d : Dev) (e : Nat × Nat) => d.sendMsg e.1 e.2) d
  { d with funcs := Tab.mapv d.funcs (fun (u : Func) =>
      { u with vecs := Tab.mapv u.vecs (fun (v : Vector) => { v with sent := false }) }) }

/-! ### Step 5: the operating point (01 R39, R40; 17 R553; 18 R573) -/

/-- The point due at the next boundary is the lower of the requested one and the ceiling; firmware writes a higher point's
voltage at once. -/
def Dev.retarget (d : Dev) : Dev :=
  let n := min d.mgmt.pow.pointReq d.mgmt.pow.ceiling
  d.modMgmt (fun m => { m with
    clk := { m.clk with aNext := n }
    pow := if d.time.aPoint < n then { m.pow with avsMv := Config.fusedMv n } else m.pow })

/-- The array supply follows the point due: it was read back within 5 mV of the target 100 µs before the boundary, and its bus
has not failed three times in succession. -/
def Dev.supplyReady (d : Dev) : Bool :=
  match d.mgmt.pow.avsAt with
  | none => false
  | some v =>
    let t := Config.fusedMv d.mgmt.clk.aNext
    decide (v ≤ t + 5) && decide (t ≤ v + 5) && decide (d.mgmt.pow.avsFails < 3)

/-- OPERATING_POINT_APPLY; there is no point above 2 (01 Table 1-4). -/
def Dev.applyPoint (d : Dev) : Dev :=
  let n := min d.mgmt.clk.aNext 2
  let a := d.time.aPoint
  let ready := d.supplyReady
  let d := d.modMgmt (fun m => { m with pow := { m.pow with avsAt := m.pow.avsRead } })
  if n < a || (a < n && ready) then
    ({ d with time := { d.time with aPoint := n } }).modMgmt (fun m => { m with
      clk := { m.clk with switching := true }
      pow := if n < a then { m.pow with avsMv := Config.fusedMv n } else m.pow })
  else d

/-- The replies of POWER_POINT, and the THROTTLE notice where policy holds the point below the requested one (14 R469, R480). -/
def Dev.pointReplies (d : Dev) (epoch : Nat) : Dev :=
  let p := d.mgmt.pow
  let asked := d.mgmt.reqs.any (fun r => r.accepted && r.msg == 0x0300)
  let post := (p.lowered || asked) && decide (p.ceiling < p.pointReq)
  let d := d.replyAll 0x0300 (fun _ => true) (appliedBytes epoch ++ toLe 1 d.time.aPoint) d.mgmt.reqs.length
  let d := d.modMgmt (fun m => { m with pow := { m.pow with lowered := false } })
  if post then d.notice 0 2 (d.time.aPoint + 256 * p.why + 2 ^ 32 * (epoch % 2 ^ 32)) else d

/-! ### Step 6: thermal and power policy (18 R571, R572) -/

def EpochStat.hot (e : EpochStat) : Bool := decide (1600 * (e.tn : Int) ≤ e.tsum)
def EpochStat.cool (e : EpochStat) (limit : Nat) : Bool :=
  decide (e.tsum ≤ 1520 * (e.tn : Int)) && decide (10 * e.mw ≤ 7 * limit)

/-- The firmware runs. -/
def Dev.fwRuns (d : Dev) : Bool := d.mgmt.fw.header.isSome && !d.mgmt.fw.dead

/-- The evaluation of the epoch that has ended. -/
def Dev.policy (d : Dev) (e : EpochStat) : Dev :=
  if !d.fwRuns then d else
  let p := d.mgmt.pow
  let hist := (e :: p.hist).take 20
  let d := d.modMgmt (fun m => { m with pow := { m.pow with hist := hist } })
  if e.point != d.time.aPoint then d
  else if e.hot || decide (p.limit < e.mw) then
    if p.ceiling = 0 then d else
    (d.modMgmt (fun m => { m with pow :=
      { m.pow with ceiling := p.ceiling - 1, why := if e.hot then 1 else 2, lowered := true } })).retarget
  else if p.ceiling < 2 && hist.length == 20 && hist.all (fun x => x.point == d.time.aPoint && x.cool p.limit) then
    (d.modMgmt (fun m => { m with pow := { m.pow with ceiling := p.ceiling + 1 } })).retarget
  else d

/-- The readings of the ended epoch: its averages, and what TELEMETRY and SMBus report from then on. An epoch without a sample
has an open temperature. -/
def Dev.endEpochStats (d : Dev) (ended point mw : Nat) : EpochStat × Dev :=
  let p := d.mgmt.pow
  let (x, d) := d.fresh
  let e : EpochStat := if p.tn = 0 then { point := point, tsum := sext 16 x, tn := 1, mw := mw }
    else { point := point, tsum := p.tsum, tn := p.tn, mw := mw }
  let temp := match p.sensors with
    | [] => sext 16 x
    | t :: r => r.foldl max t
  (e, d.modMgmt (fun m => { m with pow :=
    { m.pow with tsum := 0, tn := 0, lastMw := mw % 2 ^ 32, lastTemp := temp, lastEpoch := ended % 2 ^ 32 } }))

/-! ### Step 7: the heartbeat (15 R508) -/

/-- The toggle conditions hold so far in the epoch (FED). -/
def Dev.fed (d : Dev) : Bool :=
  let h := d.mgmt.hb
  let t := d.tally h.feedTally
  h.en && d.safety?.isSome && t.owner == d.safety? && t.moved && !t.lost

/-- HEARTBEAT_TOGGLE. MISSED counts while EN = 1 (15 Table 15-8). -/
def Dev.heartbeat (d : Dev) : Dev :=
  let fed := d.fed
  let d := d.modMgmt (fun m => { m with hb :=
    if fed then { m.hb with level := !m.hb.level } else if m.hb.en then { m.hb with missed := satAdd 14 m.hb.missed 1 } else m.hb })
  { d with tly := { d.tly with tallies := Tab.mapv d.tly.tallies (fun (t : Tally) => { t with moved := false }) } }

/-! ### The boundary -/

/-- What counts epoch boundaries: launches, WAIT nodes, front-end WAITs, frames and the scrub. -/
def Dev.countBoundary (d : Dev) : Dev :=
  let d := d.countGlobal 0 1
  { d with
    launches := Tab.mapv d.launches (fun (l : Launch) => { l with epochs := l.epochs + 1 })
    orders := Tab.mapv d.orders (fun (o : Order) => { o with acts := o.acts.map (fun (a : Activation) =>
      { a with wait := a.wait.map (fun (w : Nat × Nat) => (w.1, w.2 + 1)) }) })
    funcs := Tab.mapv d.funcs (fun (u : Func) => { u with rings := Tab.mapv u.rings (fun (r : Ring) =>
      { r with cmds := r.cmds.map (fun (c : Cmd) =>
        if c.op = 0x01 && c.phase = CmdPhase.running then { c with epochs := c.epochs + 1 } else c) }) })
    ports := Tab.mapv d.ports (fun (p : IngPort) => { p with streams := Tab.mapv p.streams (fun (s : IngStream) =>
      { s with frame := s.frame.map (fun (x : InFrame) => { x with boundaries := x.boundaries + 1 }) }) })
    dramc := { d.dramc with scrubbed := [] } }

/-- The actions of 01 Table 1-7 in their order, at the boundary whose time is `t`. -/
def Dev.boundary (d : Dev) (t : Time) (mw : Nat) : Dev :=
  let ended := d.time.epoch
  let point := d.time.aPoint
  let d := { d.snapshot with time := t }
  let d := ((d.budgetViolations.rearm t.epoch).closeWindows.applyPoint).pointReplies t.epoch
  let (e, d) := d.endEpochStats ended point mw
  ((d.policy e).heartbeat).countBoundary

/-- EPOCH_BOUNDARY (00 R26): the timestamp reaches the next multiple of 125,000. -/
def execEpochBoundary (powerMw : Nat) (s : State) : Host.Outcome State Fault Refusal :=
  s.onTime (fun d =>
    let k := epochK - d.time.phase
    if !d.clocked || 2 ^ 64 ≤ d.time.ts + k then d else
    let t : Time := { ts := d.time.ts + k, epoch := (d.time.epoch + 1) % 2 ^ 47, phase := 0, aPoint := d.time.aPoint }
    (d.counts k).boundary t powerMw)

/-- TIMESTAMP_WRAP (00 R28): an epoch that would reach past the last timestamp ends short at zero; its power is open. -/
def execTimestampWrap (s : State) : Host.Outcome State Fault Refusal :=
  s.onTime (fun d =>
    if !d.clocked || d.time.ts + (epochK - d.time.phase) < 2 ^ 64 then d else
    let (x, d) := d.fresh
    let t : Time := { ts := 0, epoch := (d.time.epoch + 1) % 2 ^ 47, phase := 0, aPoint := d.time.aPoint }
    (d.counts (2 ^ 64 - d.time.ts)).boundary t (x % 40001))

/-- DIVIDER_SWITCH_DONE (01 R39). -/
def execDividerSwitchDone (s : State) : Host.Outcome State Fault Refusal :=
  s.on (fun d => d.modMgmt (fun m => { m with clk := { m.clk with switching := false } }))

/-! ### Power messages (14 R478, R480; 18 R573) -/

/-- POWER_POINT: the requested point; it applies, and the message completes, at a boundary. -/
def execPowerPoint (f : Nat) (s : State) : Host.Outcome State Fault Refusal :=
  s.on (fun d => d.onMsg f 0x0300 d.isReady true (fun _ => 1) [(0, 1)] (fun r => decide (r.p 0 1 ≤ 2)) (fun _ => false)
    (fun d k r => (d.modMgmt (fun m => { m with pow := { m.pow with pointReq := r.p 0 1 } })).retarget.acceptReq k 0))

/-- POWER_LIMIT. -/
def execPowerLimit (f : Nat) (s : State) : Host.Outcome State Fault Refusal :=
  s.on (fun d => d.onMsg f 0x0301 d.isReady true (fun _ => 4) [(0, 4)]
    (fun r => decide (5000 ≤ r.p 0 4) && decide (r.p 0 4 ≤ 40000)) (fun _ => false)
    (fun d k r => (d.modMgmt (fun m => { m with pow := { m.pow with limitNext := some (r.p 0 4) } })).acceptReq k 0))

/-- TELEMETRY. An array supply that has never been read back is open. -/
def execTelemetry (f : Nat) (s : State) : Host.Outcome State Fault Refusal :=
  s.on (fun d => d.onMsg f 0x0302 d.isReady true (fun _ => 0) [] (fun _ => true) (fun _ => false)
    (fun d k _ =>
      let (x, d) := d.fresh
      let p := d.mgmt.pow
      d.reply k 0 0 (toLe 4 p.lastMw ++ toLe 2 (toBits 16 p.lastTemp) ++ toLe 2 (p.avsRead.getD x) ++ toLe 1 d.time.aPoint ++
        toLe 3 0 ++ toLe 4 p.lastEpoch ++ toLe 2 (Config.fusedMv 0) ++ toLe 2 (Config.fusedMv 1) ++ toLe 2 (Config.fusedMv 2))))

/-! ### Sensors and the regulator bus (17 R553; 18 R569, R574) -/

/-- THERMAL_TRIP: the a-, g- and f-clocks stop, and both pins assert until a full reset. -/
def Dev.thermalTrip (d : Dev) : Dev := (d.fatalFault 8 0).modMgmt (fun m => { m with thermTrip := true })

/-- SENSOR_SAMPLE: the 72 readings, in 1/16 °C as 16-bit two's complement. -/
def execSensorSample (t : List Nat) (s : State) : Host.Outcome State Fault Refusal :=
  s.on (fun d =>
    if t.length != 72 || !d.clocked then d else
    let v := t.map (sext 16)
    let hot := ((List.range 72).filter (fun i => decide (1840 ≤ (v[i]?).getD 0))).map
      (fun i => (i, min 4 (Tab.get d.mgmt.pow.hot i 0 + 1)))
    let top := v.foldl max ((v[0]?).getD 0)
    let d := d.modMgmt (fun m => { m with pow :=
      { m.pow with sensors := v, hot := hot, tsum := m.pow.tsum + top, tn := m.pow.tn + 1 } })
    if !d.mgmt.thermTrip && hot.any (fun (e : Nat × Nat) => e.2 == 4) then d.thermalTrip else d)

/-- AVSBUS_TRANSACTION: the voltage read back, or a failure. A voltage read within the last 100 µs of an epoch comes too late for
its boundary. -/
def execAvsbusTransaction (readMv : Option Nat) (s : State) : Host.Outcome State Fault Refusal :=
  s.on (fun d =>
    if !d.clocked || !d.fwRuns then d else
    d.modMgmt (fun m => { m with pow :=
      match readMv with
      | none => { m.pow with avsFails := m.pow.avsFails + 1 }
      | some v => { m.pow with
          avsRead := some (v % 2 ^ 16)
          avsAt := if d.time.phase ≤ 122500 then some (v % 2 ^ 16) else m.pow.avsAt
          avsFails := 0 } }))

end Sys2Proof.Machine
end

