-- ==== Sys2Proof/Machine/View.lean ====
section
/-! DEFINITION. The registers of BAR0 as they read: where each starts, its width and its value (07 Table 7-1 and the register
tables of the chapters). -/

namespace Sys2Proof.Machine

/-- A register: the offset of its block's first byte that it starts at, its width in bytes, and what it reads as. -/
structure Reg where
  start : Nat
  width : Nat
  value : Nat
  deriving DecidableEq, Repr

/-- The 32-bit register that holds the byte at `off`. -/
def reg4 (off v : Nat) : Option Reg := some { start := off / 4 * 4, width := 4, value := v % 2 ^ 32 }

/-- The 64-bit register that holds the byte at `off`. -/
def reg8 (off v : Nat) : Option Reg := some { start := off / 8 * 8, width := 8, value := v % 2 ^ 64 }

/-- The 64-bit word at `off` of a register of several words that starts at `base`. -/
def regWords (base off v : Nat) : Option Reg := reg8 off (v / 2 ^ (64 * ((off - base) / 8)))

/-- `off` lies in the `n` bytes from `a`. -/
def within (off a n : Nat) : Bool := decide (a ≤ off) && decide (off < a + n)

/-! ### The host interface function block (07 R243; 10 R354, R368-R374) -/

def Dev.partCtrl (d : Dev) (p : Nat) : Nat :=
  let x := d.part p
  at_ 63 (b2n x.cfg.valid) + at_ 62 (b2n x.cfg.safety) + at_ 56 x.cfg.func + at_ 48 x.cfg.weight + at_ 40 x.cfg.runEpochs +
  at_ 33 (b2n x.cfg.hardHost) + at_ 32 (b2n x.cfg.hardDram) + x.applied

def useWord (dram host queries : Nat) : Nat :=
  at_ 48 (min (dram / 65536) 65535) + at_ 24 (min (host / 4096) (2 ^ 20 - 1)) + min queries 65535

/-- MGT_PART_STATE_p's STATE (10 Table 10-8, R589). -/
def Dev.partState (d : Dev) (p : Nat) : Nat :=
  if !(d.part p).cfg.valid then 0
  else if d.dp.step != 0 then 3
  else if (d.func (d.part p).cfg.func).flr.isSome then 2 else 1

/-- A register of partition `p`'s descriptor (10 Table 10-1). -/
def Dev.partReg (d : Dev) (p off : Nat) : Option Reg :=
  let x := d.part p
  if off < 8 then reg8 off (d.partCtrl p)
  else if off < 0x10 then reg8 off x.held.toNat
  else if off < 0x18 then reg8 off (at_ 48 x.cfg.dramBudget + at_ 24 x.cfg.hostBudget + x.cfg.queryBudget)
  else if off < 0x20 then reg8 off (at_ 32 x.cfg.ldgQuota + x.tallies)
  else if off < 0x40 then
    let w := Tab.get x.wins ((off - 0x20) / 8) Window.none
    reg8 off (at_ 63 (b2n w.v) + at_ 62 (b2n w.w) + at_ 26 w.base + w.size)
  else if off < 0x48 then reg8 off (useWord x.dramUsed x.hostUsed x.queriesUsed)
  else if off < 0x50 then reg8 off (useWord x.dramPrev x.hostPrev x.queriesPrev)
  else if off < 0x58 then
    reg8 off (at_ 60 (d.partState p) + at_ 32 (min (d.launches.filter (fun (e : Nat × Launch) => e.2.part == p)).length 65535) +
      x.drainK)
  else none

/-- A register moved to where its table stands in a block. -/
def Reg.shift (r : Option Reg) (base : Nat) : Option Reg := r.map (fun x => { x with start := x.start + base })

/-- HIF_DP_STATUS for function `f` (10 Table 10-15). -/
def Dev.dpStatus (d : Dev) (f : Nat) : Nat :=
  at_ 60 (b2n (d.dp.step != 0)) + at_ 56 d.dp.cause + at_ 55 (b2n (d.dp.own.contains f)) + at_ 32 d.dp.count + d.dp.startEpoch

/-- MGT_JOB_FAULT (10 Table 10-14); `detail`: the reader may see whose work it was (R373). -/
def Dev.jobFaultWord (d : Dev) (detail : Bool) : Nat :=
  let r := d.faultRec
  let j := r.fault
  at_ 192 r.time + at_ 48 r.resetCount + at_ 16 (b2n r.valid) + at_ 8 r.suppressed + j.code +
  (if detail then at_ 144 j.pc + at_ 96 j.addr + at_ 69 j.group + at_ 40 j.ctx + at_ 29 j.index + at_ 25 j.unit + at_ 21 j.func +
    at_ 17 j.part else 0)

/-- The rings of a function that need attention. -/
def Dev.ringAttn (d : Dev) (f : Nat) : Nat :=
  ((List.range 16).map (fun r => if (d.ring f r).st == .error || (d.ring f r).st == .lost then 2 ^ r else 0)).sum

def Dev.hifReg (d : Dev) (f off : Nat) : Option Reg :=
  let u := d.func f
  if off < 4 then reg4 off (((d.partsOf f).map (fun p => 2 ^ (16 + p))).sum + at_ 4 (b2n (f != 0)) + f)
  else if within off 8 4 then reg4 off (at_ 16 u.tagCount + u.tagBase)
  else if within off 0x10 8 then reg8 off (at_ 48 u.winCtx + at_ 30 u.winBase)
  else if within off 0x18 4 then reg4 off (d.ringAttn f)
  else if within off 0x20 8 then reg8 off (d.dpStatus f)
  else if within off 0x28 4 then reg4 off u.eventVec
  else if within off 0x40 32 then regWords 0x40 off (d.jobFaultWord (d.bound f d.faultRec.fault.part))
  else if within off 0x200 (4 * vecCount f) then
    let v := d.vec f ((off - 0x200) / 4)
    reg4 off (at_ 30 v.mode + at_ 16 v.thresh + v.events)
  else if within off 0x800 0x800 then
    let p := (off - 0x800) / 128
    if d.bound f p then Reg.shift (d.partReg p ((off - 0x800) % 128)) (0x800 + 128 * p)
    else (Reg.shift (d.partReg p ((off - 0x800) % 128)) (0x800 + 128 * p)).map (fun r => { r with value := 0 })
  else none

/-! ### Mailbox, MSI-X table, rings, fault records, tags, tallies -/

def Dev.mbxReg (d : Dev) (f off : Nat) : Option Reg :=
  let m := (d.func f).mbx
  if off < 0x100 then reg8 off (Tab.get m.req (off / 8) 0)
  else if off < 0x200 then reg8 off (Tab.get m.rsp (off / 8 - 32) 0)
  else if within off 0x200 4 then reg4 off 0
  else if within off 0x204 4 then
    reg4 off (at_ 31 (b2n m.busy) + at_ 30 (b2n m.done) + at_ 29 (b2n m.noticeLost) + m.lastSeq)
  else if within off 0x208 4 then reg4 off (at_ 31 (b2n m.doneEn) + at_ 30 (b2n m.noticeEn) + m.vec)
  else if within off 0x20C 4 then reg4 off m.head
  else if within off 0x210 4 then reg4 off m.tail
  else if within off 0x300 256 then
    let j := (off - 0x300) / 32
    regWords (0x300 + 32 * j) off (leNat (Tab.get m.notices j []))
  else none

/-- The MSI-X table and its pending bits; the layout is PCIe's (notes/assumptions/11.md). -/
def Dev.msixReg (d : Dev) (f off : Nat) : Option Reg :=
  if off < 16 * vecCount f then
    let v := d.vec f (off / 16)
    match off % 16 / 4 with
    | 0 => reg4 off v.addr
    | 1 => reg4 off (v.addr / 2 ^ 32)
    | 2 => reg4 off v.data
    | _ => reg4 off (b2n v.masked)
  else if within off 0x800 8 then
    reg8 off (((List.range (vecCount f)).map (fun v => if (d.vec f v).pending then 2 ^ v else 0)).sum)
  else none

def Dev.ringReg (d : Dev) (f off : Nat) : Option Reg :=
  if off ≥ 0x400 then none else
  let r := off / 64
  let x := d.ring f r
  let o := off % 64
  let base := fun (g : Option Reg) => Reg.shift g (64 * r)
  if o < 8 then base (reg8 o (at_ 48 x.ctx + at_ 12 x.base))
  else if within o 8 4 then
    base (reg4 o (at_ 31 (b2n x.en) + at_ 30 (b2n x.kind) + at_ 14 x.dbTally + at_ 8 x.weight + x.log2n))
  else if within o 0x10 4 then base (reg4 o x.head)
  else if within o 0x14 4 then base (reg4 o (if x.kind then 0 else x.tail))
  else if within o 0x18 4 then base (reg4 o x.done)
  else if within o 0x1C 4 then
    base (reg4 o (at_ 28 x.stateCode + at_ 16 x.err + at_ 8 (min x.inFlight.length 8) + b2n x.notOk))
  else none

/-- A fault record (05 Table 5-7). -/
def FaultRec.word (r : FaultRec) : Nat :=
  at_ 192 r.time + at_ 154 r.req + at_ 150 r.unit + at_ 128 r.index + at_ 112 r.level + at_ 64 r.entryPa + at_ 63 (b2n r.valid) +
  at_ 62 (b2n r.more) + at_ 52 r.access + at_ 48 r.type + r.dva

def Dev.recReg (d : Dev) (off : Nat) (seen : Nat → Bool) : Option Reg :=
  let n := off / 32
  if n ≥ 256 then none else
  regWords (32 * n) off (if seen n then FaultRec.word (Tab.get d.mmu.recs n FaultRec.none) else 0)

def Dev.tagReg (d : Dev) (f off : Nat) : Option Reg :=
  let u := d.func f
  if off / 8 < u.tagCount then reg8 off (Tab.get d.tags (u.tagBase + off / 8) 0) else none

/-- The tally window; `own`: the tally is one of a partition bound to the reader (06 R237, R238). -/
def Dev.tallyReg (d : Dev) (own : Bool) (off : Nat) : Option Reg :=
  let n := off / 64
  let o := off % 64
  let v := fun (x : Nat) => if own then x else 0
  if o < 8 then reg8 off (v (d.tally n).value.toNat)
  else if within o 8 4 then reg4 off (v (d.tallyStatus n))
  else if within o 0x10 24 then reg8 off 0
  else none

/-! ### Counters (16 R520-R527) -/

def Dev.snapEpochReg (d : Dev) : Nat := at_ 62 (b2n d.aud.snapValid) + d.aud.snapIndex

/-- The chip-wide block: the live offset of a counter register at `off`, and whether the register is its snapshot. -/
def audCounter (off : Nat) : Option (Nat × Bool) :=
  if within off 0x20000 0x20000 then some (off, false)
  else if within off 0x40000 0x20000 then some (off - 0x20000, true)
  else if within off 0x60000 0x2000 then some (off, false)
  else if within off 0x62000 0x2000 then some (off - 0x2000, true)
  else if within off 0x64000 0x2000 then some (off, false)
  else if within off 0x66000 0x2000 then some (off - 0x2000, true)
  else if within off 0x68000 0x1000 then some (off, false)
  else if within off 0x69000 0x1000 then some (off - 0x1000, true)
  else if within off 0x6A000 0x100 then some (off, false)
  else if within off 0x6A100 0x100 then some (off - 0x100, true)
  else none

def Dev.audReg (d : Dev) (off : Nat) : Option Reg :=
  if off < 8 then reg8 off d.snapEpochReg
  else match audCounter off with
  | some (o, snap) =>
    let k := o / 8 * 8
    if snap then reg8 off (at_ 63 (b2n (Tab.get d.aud.snapWrap k false)) + Tab.get d.aud.snap k 0)
    else reg8 off (at_ 63 (b2n (Tab.get d.aud.wrap k false)) + Tab.get d.aud.count k 0)
  | none =>
    if within off 0x70000 0x620 then reg4 off (Tab.get d.aud.viol (off / 4 * 4) 0) else none

/-- A function reads the violation counter at `off` of the chip view (R527): its own, or those of a partition or port bound to
it. -/
def Dev.violSeen (d : Dev) (f off : Nat) : Bool :=
  if within off 0x70000 0x200 then (off - 0x70000) / 32 == f
  else if within off 0x70200 0x400 then d.bound f ((off - 0x70200) / 64)
  else match (d.ports.find? (fun (e : Nat × IngPort) => e.1 == (off - 0x70600) / 4)) with
  | some (_, p) => (match p.bound with | some q => d.bound f q | none => false)
  | none => false

/-- The chip-view offset of the violation counter at `off` of a function view. -/
def violOff (f off : Nat) : Option Nat :=
  if within off 0x100 20 then some (0x70000 + 32 * f + (off - 0x100) / 4 * 4)
  else if within off 0x200 0x400 && decide (off % 64 < 52) then some (0x70200 + (off - 0x200) / 4 * 4)
  else if within off 0x600 32 then some (0x70600 + (off - 0x600) / 4 * 4)
  else none

/-- A counter of a cluster's block in a function view (R524): counted from when the cluster joined the function's partition. -/
def Dev.clusterView (d : Dev) (f live : Nat) (snap : Bool) : Nat :=
  let c := live / 128 % 64
  let seen := (d.partsOf f).any (fun p => (d.part p).held.getLsbD c)
  let n := if snap then Tab.get d.aud.snap live 0 else Tab.get d.aud.count live 0
  if seen && (d.func f).audUser then toBits 48 ((n : Int) - Tab.get d.aud.joins live 0) else 0

def Dev.viewReg (d : Dev) (f off : Nat) : Option Reg :=
  let p := (d.func f).pcs
  if off < 4 then reg4 off (at_ 31 (b2n (d.func f).audUser))
  else if within off 8 8 then reg8 off d.snapEpochReg
  else if within off 0x800 4 then
    reg4 off (at_ 31 (b2n p.en) + at_ 24 p.part + at_ 16 p.ctx + at_ 8 p.periodLog2 + p.sizeLog2)
  else if within off 0x808 8 then reg8 off (at_ 6 p.base)
  else if within off 0x810 4 then reg4 off p.head
  else if within off 0x814 4 then reg4 off p.tail
  else if within off 0x10000 0x4000 then
    reg8 off (d.clusterView f (0x60000 + (off - 0x10000) % 0x2000 / 8 * 8) (decide (0x12000 ≤ off)))
  else if within off 0x14000 0x4000 then
    reg8 off (d.clusterView f (0x64000 + (off - 0x14000) % 0x2000 / 8 * 8) (decide (0x16000 ≤ off)))
  else if within off 0x18000 8 then reg8 off (if (d.func f).audUser then d.snapEpochReg else 0)
  else match violOff f off with
  | some o => reg4 off (if d.violSeen f o then Tab.get d.aud.viol o 0 else 0)
  | none => none

/-! ### Blocks of the physical function -/

def Dev.vltReg (d : Dev) (off : Nat) : Option Reg :=
  let m := d.mem
  if off < 64 then reg4 off (at_ 31 (b2n (m.pinned.getLsbD (off / 4))))
  else if within off 0x100 148 then reg4 off (Tab.get m.alloc ((off - 0x100) / 4) 0x1FFFF).toNat
  else if within off 0x200 8 then reg8 off m.maintAddr
  else if within off 0x208 4 then reg4 off m.maintLen
  else if within off 0x210 4 then reg4 off (at_ 8 m.maintReq + m.maintOp)
  else if within off 0x218 8 then
    reg8 off (at_ 63 (b2n m.maintBusy) + at_ 62 (b2n m.maintXlat) + at_ 61 (b2n m.maintAborted) + at_ 24 (m.maintConflicts % 2 ^ 24) +
      m.maintDone % 2 ^ 24)
  else if within off 0x220 8 then reg8 off d.plan.slices.toNat
  else if within off 0x228 8 then reg8 off m.errLog
  else if within off 0x1000 0x1000 then
    reg4 off (leNat ((List.range 4).map (fun i => BitVec.ofNat 8 (d.plan.interleave ((off - 0x1000) / 4 * 4 + i)))))
  else none

def Dev.mmuReg (d : Dev) (off : Nat) : Option Reg :=
  if off < 0x800 then
    let c := d.ctx (off / 8)
    reg8 off (at_ 63 (b2n c.valid) + at_ 56 c.part + at_ 52 c.func + at_ 12 c.root)
  else if within off 0x800 8 then reg8 off d.mmu.dramSize
  else if within off 0x810 8 then reg8 off (at_ 48 d.mmu.invCtx + at_ 12 d.mmu.invPage)
  else if within off 0x818 4 then reg4 off (at_ 30 (b2n d.mmu.invBusy) + at_ 24 d.mmu.invMode + d.mmu.invPages)
  else if within off 0x2000 0x2000 then Reg.shift (d.recReg (off - 0x2000) (fun _ => true)) 0x2000
  else none

def Dev.mntReg (d : Dev) (off : Nat) : Option Reg :=
  if off ≥ 0x400 then none else
  match Tab.get? d.mint.pools (off / 8) with
  | none => reg8 off 0
  | some p => reg8 off (at_ 63 (b2n p.valid) + at_ 62 (b2n p.below) + at_ 61 (b2n p.exhausted) + at_ 24 p.free + p.minFree)

/-- MGT_CLOCK_STATUS (01 Table 1-10). -/
def Dev.clockStatus (d : Dev) : Nat :=
  at_ 16 d.mgmt.clk.locks.toNat + at_ 8 (b2n d.mgmt.clk.switching) + at_ 4 d.mgmt.clk.aNext + d.time.aPoint

/-- MGT_HEARTBEAT (15 Table 15-8). -/
def Dev.hbReg (d : Dev) : Nat :=
  let h := d.mgmt.hb
  at_ 31 (b2n h.lock) + at_ 30 (b2n h.en) + at_ 29 (b2n h.level) + at_ 28 (b2n d.fed) + at_ 14 h.feedTally + h.missed

/-- The pins that a composition engine's tearing effect takes (17 R556). -/
def Dev.teMask (d : Dev) : BitVec 16 :=
  maskOf 16 ((d.engines.filter (fun (e : Nat × Engine) => e.2.mode.getLsbD 248)).map
    (fun (e : Nat × Engine) => fld e.2.mode.toNat 247 244))

/-- The levels of the GPIO pins: driven by OUT where DIR says so, else from outside. -/
def Dev.gpioLevels (d : Dev) : BitVec 16 :=
  let g := d.mgmt.gpio
  let dir := g.dir &&& ~~~ d.teMask
  (g.out &&& dir) ||| (g.pins &&& ~~~ dir)

def Dev.mgtReg (d : Dev) (off : Nat) : Option Reg :=
  let c := d.mgmt.chip
  let g := d.mgmt.gpio
  if off < 8 then reg8 off d.time.ts
  else if within off 8 8 then reg8 off (at_ 17 d.time.epoch + d.time.phase)
  else if within off 0x10 4 then reg4 off d.clockStatus
  else if within off 0x100 32 then regWords 0x100 off (d.jobFaultWord true)
  else if within off 0x140 8 then
    reg8 off (at_ 63 (b2n c.valid) + at_ 62 (b2n c.fatal) + at_ 32 c.count + at_ 8 c.detail + c.cause)
  else if within off 0x148 8 then reg8 off c.time
  else if within off 0x150 4 then reg4 off d.hbReg
  else if within off 0x180 4 then
    reg4 off (at_ 4 (b2n d.mgmt.smbAddr) + at_ 3 (b2n d.outerOff) + d.memSel)
  else if within off 0x188 8 then reg8 off (at_ 63 (b2n d.dramc.errValid) + at_ 62 (b2n d.dramc.errScrub) + d.dramc.errPa)
  else if within off 0x190 8 then
    reg8 off (at_ 63 (b2n d.outerOff) + ((List.range 16).map (fun m => Tab.get d.dramc.sweeps m 0)).foldl min (2 ^ 64) % 2 ^ 32)
  else if within off 0x200 4 then reg4 off (g.dir &&& ~~~ d.teMask).toNat
  else if within off 0x204 4 then reg4 off g.out.toNat
  else if within off 0x208 4 then reg4 off d.gpioLevels.toNat
  else if within off 0x20C 4 then reg4 off (at_ 31 (b2n g.irqEn) + at_ 16 g.vec + g.edgeEn.toNat)
  else if within off 0x210 4 then reg4 off g.cap.toNat
  else if within off 0x800 32 then
    match Tab.get? d.reserves ((off - 0x800) / 8) with
    | none => reg8 off 0
    | some r => reg8 off (at_ 63 1 + at_ 62 (b2n r.holder.isSome) + at_ 56 (r.holder.getD 0) + at_ 48 r.cluster + at_ 40 r.hotUnits +
        at_ 32 r.hotState + r.image)
  else if within off 0x1000 0x800 then
    Reg.shift (d.partReg ((off - 0x1000) / 128) (off % 128)) (0x1000 + (off - 0x1000) / 128 * 128)
  else none

def Dev.ldgReg (d : Dev) (off : Nat) : Option Reg :=
  let l := d.ledger
  let count := fun (p : LEntry → Bool) => (l.entries.filter (fun (e : Nat × LEntry) => p e.2)).length
  if off < 4 then reg4 off d.plan.banks.toNat
  else if within off 8 8 then reg8 off (at_ 32 (count (fun e => e.st == LState.retired)) + l.entries.length)
  else if within off 0x10 8 then reg8 off (l.queries.map (fun (e : Nat × LQuery) => 2 ^ e.1)).sum
  else if within off 0x8000 0x8000 then
    let n := (off - 0x8000) / 32
    match Tab.get? l.streams n with
    | none => reg8 off 0
    | some s => regWords (0x8000 + 32 * n) off
        (at_ 255 1 + at_ 254 (b2n s.broken) + at_ 250 s.part + at_ 242 s.ctx + at_ 234 s.set + at_ 229 s.sizeLog2 +
          at_ 228 (b2n s.splitEn) + at_ 227 s.splitPart + at_ 222 s.splitLog2 + at_ 170 s.quota +
          at_ 128 (count (fun e => e.stream == n)) + at_ 96 s.highBlock)
  else none

def Dev.tilReg (d : Dev) (off : Nat) : Option Reg :=
  if off ≥ 256 then none else
  let p := off / 16
  let t := Tab.get d.render.til p { passes := 0, flushes := 0, maxChunks := 0 }
  let cur := match Tab.get? d.render.passes p with
    | some x => at_ 63 1 + at_ 32 (x.round % 65536) + at_ 16 (x.chunks.length % 65536)
    | none => 0
  regWords (16 * p) off (at_ 96 t.passes + at_ 64 t.flushes + cur + t.maxChunks)

def Dev.rayReg (d : Dev) (off : Nat) : Option Reg :=
  if off ≥ 512 then none else
  let c := off / 8
  if !d.plan.clusterOk c then reg8 off 0 else
  reg8 off (at_ 32 (Tab.get d.rays.completed c 0) + min (d.rays.rays.filter (fun (r : Ray) => clusterOf r.core == c)).length 1024)

/-- STATE of a stream (13 Table 13-7). -/
def IngStream.stateCode (s : IngStream) : Nat :=
  match s.frame with
  | some x => if x.written then 2 else 3
  | none => if s.cfg.isSome then 1 else 0

def Dev.ingReg (d : Dev) (off : Nat) : Option Reg :=
  if off < 32 then
    let p := d.port (off / 4)
    reg4 off (at_ 31 (b2n p.up) + at_ 30 (b2n p.bound.isSome) + at_ 26 (p.bound.getD 0) + at_ 25 (b2n p.phy) + at_ 23 p.width + p.rate)
  else if within off 0x100 0x200 then
    let o := off - 0x100
    match Tab.get? (d.port (o / 64)).streams (o % 64 / 16) with
    | none => reg8 off 0
    | some s => regWords (0x100 + o / 16 * 16) off
        (at_ 96 s.delivered + at_ 64 s.frames + at_ 48 s.dropFull + at_ 32 s.dropOther + IngStream.stateCode s)
  else none

def Dev.cmpReg (d : Dev) (off : Nat) : Option Reg :=
  if off < 128 then
    if off % 64 < 32 then regWords (off / 64 * 64) off (d.engine (off / 64)).mode.toNat else none
  else if within off 0x100 16 then
    let g := d.engine ((off - 0x100) / 8)
    reg8 off (at_ 32 (g.refresh % 2 ^ 32) + at_ 16 g.underrun + at_ 7 (b2n d.safety?.isSome) + at_ 6 (b2n g.strong.isSome) +
      at_ 5 (b2n g.strongFail) + at_ 4 g.strongBank + b2n g.running)
  else none

/-! ### BAR0 (07 Table 7-1) -/

/-- The register at an offset of function `f`'s BAR0; none at a reserved address. -/
def Dev.regAt (d : Dev) (f off : Nat) : Option Reg :=
  let block := fun (base : Nat) (g : Nat → Option Reg) => Reg.shift (g (off - base)) base
  if off < 0x1000 then d.hifReg f off
  else if off < 0x2000 then block 0x1000 (d.mbxReg f)
  else if off < 0x3000 then block 0x2000 (d.msixReg f)
  else if off < 0x3008 then block 0x3000 (fun o => reg8 o d.time.ts)
  else if within off 0x4000 0x1000 then block 0x4000 (d.ringReg f)
  else if within off 0x8000 0x2000 then block 0x8000 (fun o => d.recReg o (d.ownsCtx f))
  else if within off 0x10000 0x10000 then (if off % 4096 < 4 then reg4 off 0 else none)
  else if within off 0x20000 0x20000 then block 0x20000 (d.viewReg f)
  else if within off 0x80000 0x80000 then block 0x80000 (d.tagReg f)
  else if within off 0x100000 0x100000 then
    let own := match (d.tally ((off - 0x100000) / 64)).owner with | some p => d.bound f p | none => false
    block 0x100000 (d.tallyReg own)
  else if f != 0 then none
  else if within off 0x200000 0x2000 then block 0x200000 d.vltReg
  else if within off 0x210000 0x4000 then block 0x210000 d.mmuReg
  else if within off 0x220000 0x400 then block 0x220000 d.mntReg
  else if within off 0x240000 0x10000 then block 0x240000 d.mgtReg
  else if within off 0x280000 0x80000 then block 0x280000 d.audReg
  else if within off 0x300000 0x10000 then block 0x300000 d.ldgReg
  else if within off 0x310000 0x10000 then block 0x310000 d.tilReg
  else if within off 0x320000 0x10000 then block 0x320000 d.rayReg
  else if within off 0x330000 0x10000 then block 0x330000 d.ingReg
  else if within off 0x340000 0x10000 then block 0x340000 d.cmpReg
  else none

/-- Function `f` reads the violation counter at `off` of its view (16 R527): the read returns it and clears it. -/
def Dev.violRead (d : Dev) (f off : Nat) : Nat × Dev :=
  match violOff f off with
  | some o =>
    if d.violSeen f o then (Tab.get d.aud.viol o 0, { d with aud := { d.aud with viol := Tab.del d.aud.viol o } }) else (0, d)
  | none => (0, d)

/-- A read of `width` bytes at `off` of function `f`'s BAR0 (00 R16, R18): what returns, and its effects: a violation counter of
the function view is cleared, and a tally that is not the function's counts as a violation (06 R238). -/
def Dev.regRead (d : Dev) (f off width : Nat) : Nat × Dev :=
  match d.regAt f off with
  | none => (0, d)
  | some r =>
    if r.start != off || r.width != width then (0, d.denied f)
    else if within off 0x20000 0x800 && (violOff f (off - 0x20000)).isSome then d.violRead f (off - 0x20000)
    else if within off 0x100000 0x100000 then
      match (d.tally ((off - 0x100000) / 64)).owner with
      | some p => if d.bound f p then (r.value, d) else (0, d.denied f)
      | none => (0, d.denied f)
    else (r.value, d)

end Sys2Proof.Machine
end

