-- ==== Sys2Proof/Machine/Registers.lean ====
section
/-! DEFINITION. Register writes, the registers that act on them, PC sampling and GPIO (00 R15-R19; 10 R368, R369; 15 R509;
16 R521-R532; 17 R535-R539, R556). -/

namespace Sys2Proof.Machine

/-- A vector field under R17: a vector at or above the function's count leaves it as it was. -/
def vecField (f new old : Nat) : Nat := if new < vecCount f then new else old

/-! ### The heartbeat (15 R509) -/

/-- A write of MGT_HEARTBEAT by the physical function. -/
def Dev.hbWrite (d : Dev) (v : Nat) : Dev :=
  let h := d.mgmt.hb
  let en := bitOf v 30
  let t := fld v 27 14
  if h.lock then (if en == h.en && t == h.feedTally then d else d.denied 0)
  else d.modMgmt (fun m => { m with hb := { h with en := en, feedTally := t, lock := bitOf v 31 } })

/-- HEARTBEAT_WRITE. -/
def execHeartbeatWrite (v : Nat) (s : State) : Host.Outcome State Fault Refusal :=
  s.on (fun d => if d.clocked && d.hostOk 0 then d.hbWrite v else d)

/-! ### PC sampling (16 R530-R532) -/

def Dev.modPcs (d : Dev) (f : Nat) (g : Pcs → Pcs) : Dev := d.modFunc f (fun u => { u with pcs := g u.pcs })

/-- A write of AUD_PCS_CTRL. -/
def Dev.pcsCtrl (d : Dev) (f v : Nat) : Dev :=
  let p := (d.func f).pcs
  let en := bitOf v 31
  if en && !(d.bound f (fld v 27 24) && d.ownsCtx f (fld v 23 16)) then d.denied f
  else if p.en then d.modPcs f (fun p => { p with en := en })
  else
    let period := fld v 12 8
    let size := fld v 4 0
    d.modPcs f (fun p => { p with
      en := en
      part := fld v 27 24
      ctx := fld v 23 16
      periodLog2 := if 10 ≤ period && period ≤ 24 then period else p.periodLog2
      sizeLog2 := if 8 ≤ size && size ≤ 20 then size else p.sizeLog2
      head := if en then 0 else p.head })

/-- PCS_CTRL_WRITE. -/
def execPcsCtrlWrite (f v : Nat) (s : State) : Host.Outcome State Fault Refusal :=
  s.on (fun d => if d.clocked && d.hostOk f then d.pcsCtrl f v else d)

/-- A write of AUD_PCS_TAIL. -/
def Dev.pcsTail (d : Dev) (f v : Nat) : Dev :=
  let p := (d.func f).pcs
  let t : Nat := v % 2 ^ 32
  if toBits 32 ((p.head : Int) - t) ≤ 2 ^ p.sizeLog2 then d.modPcs f (fun p => { p with tail := t }) else d.denied f

/-- PCS_TAIL_WRITE. -/
def execPcsTailWrite (f v : Nat) (s : State) : Host.Outcome State Fault Refusal :=
  s.on (fun d => if d.clocked && d.hostOk f then d.pcsTail f v else d)

/-- REASON of a strand's wait (16 Table 16-12), by the opcode of the instruction it waits in. -/
def Strand.reason (s : Strand) : Nat :=
  match s.wait with
  | .ready => 7
  | .join => 5
  | .gsync _ => 5
  | .slot => 3
  | .mxEnd => 3
  | .fence _ _ => 1
  | .backoff _ _ => 4
  | .op w _ _ =>
    let o := opcOf w
    if 0x48 ≤ o && o ≤ 0x4A then 4 else if 0x50 ≤ o && o ≤ 0x55 then 1 else if 0x60 ≤ o && o ≤ 0x64 then 2
    else if o = 0x6C || o = 0x6D then 6 else if o = 0x6E then 4 else if 0x70 ≤ o && o ≤ 0x73 then 3 else 7

/-- A sample of a core: PC, group index, REASON and whether in a matrix region. Of an instruction issued by the core in the
four a-cycles up to the sample, by the record of its last; an open value says whether an older last issue is meant, since a
step has no place among the a-cycles of its k-cycle. -/
def Dev.pcSampleOf (d : Dev) (i x : Nat) : Option (Nat × Nat × Nat × Bool) :=
  let c := d.core i
  let waiting := match c.strands[x / 2 % max c.strands.length 1]? with
    | some (_, st) =>
      let g := Tab.get c.groups (st.lanes.headD (0, 0)).2 Group.empty
      some (st.pc, g.index, Strand.reason st, g.inRegion)
    | none => none
  match c.lastIssue with
  | some (pc, grp, mx, cyc) =>
    if d.cycle ≤ cyc + 4 || (d.cycle ≤ cyc + 11 && x % 2 = 0) then some (pc, grp, 0, mx) else waiting
  | none => waiting

/-- The 16 bytes of a sample record (16 Table 16-12). -/
def sampleBytes (pc cycle grp core reason : Nat) (mx : Bool) : List Byte :=
  toLe 16 (at_ 80 (pc % 2 ^ 48) + at_ 48 (cycle % 2 ^ 32) + at_ 21 (grp % 2 ^ 27) + at_ 11 core + at_ 8 reason + at_ 7 (b2n mx))

/-- A sample is written, or dropped (R532). -/
def Dev.pcRecord (d : Dev) (f : Nat) (bs : List Byte) : Dev :=
  let p := (d.func f).pcs
  if toBits 32 ((p.head : Int) - p.tail) ≥ 2 ^ p.sizeLog2 then d.violFn f 4 else
  let dva := p.base * 64 + 16 * (p.head % 2 ^ p.sizeLog2)
  match d.translate p.ctx dva .write with
  | (.error _, d) => d.violFn f 4
  | (.ok (pa, attr), d) =>
    let rq := d.rqPart p.part
    let d := d.ncWrite rq (attrFor true pa attr) (pa / 128) (spanMask (pa % 128) 16) (lineSet 0 (pa % 128) bs) 0
    d.modPcs f (fun p => { p with head := (p.head + 1) % 2 ^ 32 })

/-- PC_SAMPLE (R531): core `i`'s sample a-cycle, which lies in the k-cycle whose a-cycles begin at CYCLE. -/
def execPcSample (f core : Nat) (s : State) : Host.Outcome State Fault Refusal :=
  s.on (fun d =>
    let p := (d.func f).pcs
    let due := core * 2 ^ p.periodLog2 / 1024
    let hit := (List.range (max d.aPerK 1)).find? (fun k => (d.cycle + k) % 2 ^ p.periodLog2 == due)
    match hit with
    | none => d
    | some k =>
      if f ≥ 16 || !p.en || !d.running || !d.plan.coreOk core || !(d.part p.part).held.getLsbD (clusterOf core) ||
        (d.core core).groups.isEmpty then d
      else
        let (x, d) := d.fresh
        match d.pcSampleOf core x with
        | some (pc, grp, reason, mx) => d.pcRecord f (sampleBytes pc (d.cycle + k) grp core reason mx)
        | none => d)

/-! ### Violation counters (16 R527) -/

/-- VIOLATION_COUNTER_READ: function `f` reads the counter at `off` of its BAR0. -/
def execViolationCounterRead (f off : Nat) (s : State) : Host.Outcome State Fault Refusal :=
  s.on (fun d =>
    if f ≥ 16 then d
    else if !d.hostOk f then d.send (.readUr f)
    else if !(within off 0x20000 0x800 && (violOff f (off - 0x20000)).isSome) then d
    else
      let (v, d) := d.regRead f off 4
      d.send (.counter f v))

/-! ### GPIO (17 R556) -/

/-- The edges between two levels of the pins are captured where enabled, and raise the vector where a CAP bit becomes 1. -/
def Dev.gpioCapture (d : Dev) (old : BitVec 16) : Dev :=
  let g := d.mgmt.gpio
  let e := (old ^^^ d.gpioLevels) &&& g.edgeEn
  let rises := e &&& ~~~ g.cap != 0
  let d := d.modMgmt (fun m => { m with gpio := { m.gpio with cap := m.gpio.cap ||| e } })
  if g.irqEn && rises then d.raiseVec 0 g.vec else d

def Dev.modGpio (d : Dev) (g : Gpio → Gpio) : Dev :=
  (d.modMgmt (fun m => { m with gpio := g m.gpio })).gpioCapture d.gpioLevels

/-- GPIO_EDGE: the level of pin `n` as driven from outside. -/
def execGpioEdge (n : Nat) (level : Bool) (s : State) : Host.Outcome State Fault Refusal :=
  s.on (fun d =>
    if n ≥ 16 then d
    else if d.clocked then d.modGpio (fun g => { g with pins := setBit g.pins n level })
    else d.modMgmt (fun m => { m with gpio := { m.gpio with pins := setBit m.gpio.pins n level } }))

/-- A write of a GPIO register by the physical function. -/
def Dev.gpioWrite (d : Dev) (off v : Nat) : Dev :=
  let b := BitVec.ofNat 16 v
  match off with
  | 0x200 => d.modGpio (fun g => { g with dir := (b &&& ~~~ d.teMask) ||| (g.dir &&& d.teMask) })
  | 0x204 => d.modGpio (fun g => { g with out := b })
  | 0x20C => d.modGpio (fun g => { g with irqEn := bitOf v 31, vec := fld v 21 16, edgeEn := b })
  | 0x210 => d.modGpio (fun g => { g with cap := g.cap &&& ~~~ b })
  | _ => d

/-! ### Function registers -/

/-- A write of HIF_EVENT_VEC (10 Table 10-12). -/
def Dev.eventVecWrite (d : Dev) (f v : Nat) : Dev :=
  let o := (d.func f).eventVec
  let at1 := fun (en lo : Nat) => at_ en (fld v en en) + at_ lo (vecField f (fld v (lo + 5) lo) (fld o (lo + 5) lo))
  d.modFunc f (fun u => { u with eventVec := at1 31 24 + at1 23 16 + at1 15 8 + at1 7 0 })

/-- A write of HIF_VEC_MOD_v (10 Table 10-11). -/
def Dev.vecModWrite (d : Dev) (f i v : Nat) : Dev :=
  d.modVec f i (fun e => { e with mode := if fld v 31 30 = 3 then e.mode else fld v 31 30, thresh := fld v 23 16 })

/-- A write of a mailbox register (14 Table 14-2). -/
def Dev.mbxWrite (d : Dev) (f off v : Nat) : Dev :=
  if off < 0x100 then
    if (d.func f).mbx.busy then d.denied f else d.modMbx f (fun m => { m with req := Tab.put m.req (off / 8) (v % 2 ^ 64) })
  else match off with
  | 0x200 => if bitOf v 31 then d.mbxGo f else d
  | 0x204 => d.modMbx f (fun m => { m with done := m.done && !bitOf v 30, noticeLost := m.noticeLost && !bitOf v 29 })
  | 0x208 => d.modMbx f (fun m =>
      { m with doneEn := bitOf v 31, noticeEn := bitOf v 30, vec := vecField f (fld v 5 0) m.vec })
  | 0x210 => d.noticeTail f v
  | _ => d

/-- The message held in a vector's pending bit follows its unmasking (10 R369). -/
def Dev.unmaskVec (d : Dev) (f v : Nat) : Dev :=
  let u := d.func f
  let e := d.vec f v
  if e.pending && u.msixEn && !u.msixMask && !e.masked && u.bme && !u.d3hot then
    (d.modVec f v (fun e => { e with pending := false })).send (.msix f v e.addr e.data)
  else d

/-- Every vector of a function. -/
def Dev.unmaskAll (d : Dev) (f : Nat) : Dev := (List.range (vecCount f)).foldl (fun (d : Dev) v => d.unmaskVec f v) d

/-- MSIX_UNMASK: one vector, or the function, is unmasked. -/
def execMsixUnmask (f : Nat) (v : Option Nat) (s : State) : Host.Outcome State Fault Refusal :=
  s.on (fun d =>
    if f ≥ 16 || !d.clocked then d else
    match v with
    | some v => if v < vecCount f then (d.modVec f v (fun e => { e with masked := false })).unmaskVec f v else d
    | none => (d.modFunc f (fun u => { u with msixMask := false })).unmaskAll f)

/-- A write of one dword of the MSI-X table. -/
def Dev.msixWrite (d : Dev) (f off v : Nat) : Dev :=
  let i := off / 16
  if off ≥ 16 * vecCount f then d else
  let x : Nat := v % 2 ^ 32
  match off % 16 with
  | 0 => d.modVec f i (fun e => { e with addr := e.addr / 2 ^ 32 * 2 ^ 32 + x / 4 * 4 })
  | 4 => d.modVec f i (fun e => { e with addr := e.addr % 2 ^ 32 + x * 2 ^ 32 })
  | 8 => d.modVec f i (fun e => { e with data := x })
  | _ => (d.modVec f i (fun e => { e with masked := bitOf v 0 })).unmaskVec f i

/-- A write of a ring register (07 R250). -/
def Dev.ringWrite (d : Dev) (f off v : Nat) : Dev :=
  let r := off / 64
  match off % 64 with
  | 0 => if (d.ring f r).en then d.denied f else d.modRing f r (fun x => { x with ctx := fld v 55 48, base := fld v 47 12 })
  | 8 => d.ringCfgWrite f r v
  | 0x1C => d.modRing f r (fun x => { x with notOk := x.notOk && !bitOf v 0 })
  | _ => d

/-- A write in the tally window (06 R237, R238). -/
def Dev.tallyWrite (d : Dev) (f off v : Nat) : Dev :=
  let n := off / 64
  let x := BitVec.ofNat 64 v
  d.windowOp f n (fun d => match off % 64 with
    | 0x08 => if bitOf v 30 then d.setTally n { d.tally n with stale := false } else d
    | 0x10 => d.tallySet (.window f) n x
    | 0x18 => d.tallyAdd (.window f) n x
    | 0x20 => d.tallyRearm (.window f) n x
    | _ => d)

/-- A write in the function view of the counters (16 Tables 16-9, 16-11). -/
def Dev.viewWrite (d : Dev) (f off v : Nat) : Dev :=
  match off with
  | 0 => d.modFunc f (fun u => { u with audUser := bitOf v 31 })
  | 0x800 => d.pcsCtrl f v
  | 0x808 => if (d.func f).pcs.en then d else d.modPcs f (fun p => { p with base := fld v 47 6 })
  | 0x814 => d.pcsTail f v
  | _ => d

/-! ### Registers of the physical function -/

def Dev.vltWrite (d : Dev) (off v : Nat) : Dev :=
  match off with
  | 0x200 => { d with mem := { d.mem with maintAddr := at_ 48 (fld v 55 48) + at_ 7 (fld v 47 7) } }
  | 0x208 => { d with mem := { d.mem with maintLen := fld v 23 0 } }
  | 0x210 => d.maintCtrl v
  | _ => d

def Dev.mmuWrite (d : Dev) (off v : Nat) : Dev :=
  if off = 0x810 then { d with mmu := { d.mmu with invCtx := fld v 55 48, invPage := fld v 47 12 } }
  else if off = 0x818 then d.invCtrl v
  else if 0x2000 ≤ off && off % 32 = 0 then d.clearRecord 0 ((off - 0x2000) / 32) v
  else d

def Dev.mntWrite (d : Dev) (off v : Nat) : Dev :=
  if bitOf v 61 then { d with mint := { d.mint with pools := Tab.mod d.mint.pools (off / 8) (fun p => { p with exhausted := false }) } }
  else d

def Dev.mgtWrite (d : Dev) (off v : Nat) : Dev :=
  match off with
  | 0x150 => d.hbWrite v
  | 0x188 => if bitOf v 63 then { d with dramc := { d.dramc with errValid := false } } else d
  | _ => d.gpioWrite off v

def Dev.audWrite (d : Dev) (off v : Nat) : Dev :=
  match audCounter off with
  | some (o, false) => if bitOf v 63 then d.modAud (fun a => { a with wrap := Tab.del a.wrap o }) else d
  | _ => d

/-! ### REGISTER_WRITE -/

/-- What a write of a whole register does. -/
def Dev.regDo (d : Dev) (f off v : Nat) : Dev :=
  if off < 0x1000 then
    if off = 0x10 then d.winWrite f v
    else if off = 0x28 then d.eventVecWrite f v
    else if within off 0x200 (4 * vecCount f) then d.vecModWrite f ((off - 0x200) / 4) v
    else d
  else if off < 0x2000 then d.mbxWrite f (off - 0x1000) v
  else if off < 0x3000 then d.msixWrite f (off - 0x2000) v
  else if within off 0x4000 0x1000 then d.ringWrite f (off - 0x4000) v
  else if within off 0x8000 0x2000 then (if off % 32 = 0 then d.clearRecord f ((off - 0x8000) / 32) v else d)
  else if within off 0x10000 0x10000 then d.doorbell f ((off - 0x10000) / 4096) v
  else if within off 0x20000 0x20000 then d.viewWrite f (off - 0x20000) v
  else if within off 0x80000 0x80000 then d.tagWrite f ((off - 0x80000) / 8) v
  else if within off 0x100000 0x100000 then d.tallyWrite f (off - 0x100000) v
  else if within off 0x200000 0x2000 then d.vltWrite (off - 0x200000) v
  else if within off 0x210000 0x4000 then d.mmuWrite (off - 0x210000) v
  else if within off 0x220000 0x400 then d.mntWrite (off - 0x220000) v
  else if within off 0x240000 0x10000 then d.mgtWrite (off - 0x240000) v
  else if within off 0x280000 0x80000 then d.audWrite (off - 0x280000) v
  else d

/-- A write of `width` bytes at `off` of function `f`'s BAR0: to a reserved address it does nothing (00 R16), at another width or
alignment than the register's it is discarded and counted (R18). Writes to the user region are ignored and never counted (16
R525). -/
def Dev.bar0Write (d : Dev) (f off width v : Nat) : Dev :=
  if within off 0x30000 0x10000 then d else
  match d.regAt f off with
  | none => d
  | some r => if r.start == off && r.width == width then d.regDo f off v else d.denied f

/-- A write of a configuration register that acts on the device (10 R369, R378; 17 R535, R536, R539). NumVFs changes only while VF
Enable is 0 and holds at most 15 (PCIe). -/
def Dev.cfgWrite (d : Dev) (f : Nat) (r : CfgReg) (v : Nat) : Dev :=
  match r with
  | .busMaster => (d.modFunc f (fun u => { u with bme := bitOf v 0 })).unmaskAll f
  | .msixEnable => (d.modFunc f (fun u => { u with msixEn := bitOf v 0 })).unmaskAll f
  | .functionMask => (d.modFunc f (fun u => { u with msixMask := bitOf v 0 })).unmaskAll f
  | .numVfs => if f = 0 && !d.mgmt.vfEnable && decide (v ≤ 15) then d.modMgmt (fun m => { m with numVfs := v }) else d
  | .vfEnable =>
    if f != 0 then d else if bitOf v 0 then d.modMgmt (fun m => { m with vfEnable := true }) else d.vfClear
  | .powerState => (d.modFunc f (fun u => { u with d3hot := fld v 1 0 == 3 })).unmaskAll f

/-- REGISTER_WRITE. Configuration space stays reachable through a function-level reset; BAR0 does not (10 R376), nor in D3hot (17
R539). A poisoned write is discarded and logged (R537). -/
def execRegisterWrite (w : RegWrite) (s : State) : Host.Outcome State Fault Refusal :=
  s.on (fun d =>
    if !d.clocked || d.mgmt.bring.st == Bring.romStart || !d.funcThere w.fn then d else
    match w.target with
    | .config r => d.cfgWrite w.fn r w.value
    | .bar0 off width => if d.hostOk w.fn then d.bar0Write w.fn off width w.value else d
    | .poisoned => if d.hostOk w.fn then d.poisonedTlp else d)

end Sys2Proof.Machine
end

