-- ==== Sys2Proof/Machine/Board.lean ====
section
/-! DEFINITION. The SMBus target and the TAP (17 R554, R555). -/

namespace Sys2Proof.Machine

/-! ### SMBus (17 Table 17-11) -/

/-- The data of a read command, sent from reset release on; before it the bus is released. -/
def Dev.smb (d : Dev) (bs : List Byte) : Dev := if d.clocked then d.send (.smbus bs) else d

/-- SMB_DEVICE_ID. -/
def execSmbDeviceId (s : State) : Host.Outcome State Fault Refusal :=
  s.on (fun d => d.smb (toLe 2 0x8160 ++ toLe 1 0x21 ++ toLe 1 d.stateCode))

/-- SMB_SERIAL. -/
def execSmbSerial (s : State) : Host.Outcome State Fault Refusal := s.on (fun d => d.smb (toLe 16 Config.serial.toNat))

/-- SMB_TEMPERATURE: 0 until the first epoch has ended. -/
def execSmbTemperature (s : State) : Host.Outcome State Fault Refusal :=
  s.on (fun d => d.smb (toLe 2 (toBits 16 d.mgmt.pow.lastTemp)))

/-- SMB_POWER: 0 until the first epoch has ended. -/
def execSmbPower (s : State) : Host.Outcome State Fault Refusal := s.on (fun d => d.smb (toLe 2 d.mgmt.pow.lastMw))

/-- SMB_CHIP_FAULT. -/
def execSmbChipFault (s : State) : Host.Outcome State Fault Refusal :=
  s.on (fun d => d.smb (toLe 1 d.mgmt.chip.cause ++ toLe 1 d.mgmt.chip.detail ++ toLe 2 d.mgmt.chip.count))

/-- The byte of the pins. -/
def Dev.pinStatus (d : Dev) : Nat :=
  b2n d.mgmt.hb.level + 2 * b2n d.mgmt.hb.en + 4 * b2n d.mgmt.faultN + 8 * b2n d.mgmt.thermTrip

/-- SMB_PIN_STATUS. -/
def execSmbPinStatus (s : State) : Host.Outcome State Fault Refusal := s.on (fun d => d.smb (toLe 1 d.pinStatus))

/-- SMB_WRITE: a write's first data byte, or an unknown command, is not acknowledged. -/
def execSmbWrite (s : State) : Host.Outcome State Fault Refusal := s.on (fun d => if d.clocked then d.send .smbusNack else d)

/-! ### The TAP (IEEE 1149.1, 1149.6) -/

/-- An instruction is loaded: while PERST_N is deasserted every one but BYPASS and IDCODE acts as BYPASS. -/
def Dev.tapLoad (d : Dev) (i : TapInsn) : Dev :=
  if !d.mgmt.bring.powered then d else
  let i := if d.mgmt.bring.held || i == TapInsn.bypass || i == TapInsn.idcode then i else .bypass
  d.modMgmt (fun m => { m with tap := i, tapReset := false })

/-- The pins are taken by the boundary register. -/
def Dev.tapHasPins (d : Dev) : Bool :=
  match d.mgmt.tap with
  | .extest => true
  | .extestPulse => true
  | .extestTrain => true
  | .clamp => true
  | .highz => true
  | .bypass => false
  | .idcode => false
  | .samplePreload => false

/-- BYPASS. -/
def execBypass (s : State) : Host.Outcome State Fault Refusal := s.on (fun d => d.tapLoad .bypass)

/-- IDCODE: version 0x2, part 0x8160, manufacturer 0x0B7. -/
def execIdcode (s : State) : Host.Outcome State Fault Refusal :=
  s.on (fun d => if d.mgmt.bring.powered then (d.tapLoad .idcode).send (.tdo 0x2816016F) else d)

/-- SAMPLE_PRELOAD. -/
def execSamplePreload (s : State) : Host.Outcome State Fault Refusal := s.on (fun d => d.tapLoad .samplePreload)

/-- EXTEST. -/
def execExtest (s : State) : Host.Outcome State Fault Refusal := s.on (fun d => d.tapLoad .extest)

/-- EXTEST_PULSE. -/
def execExtestPulse (s : State) : Host.Outcome State Fault Refusal := s.on (fun d => d.tapLoad .extestPulse)

/-- EXTEST_TRAIN. -/
def execExtestTrain (s : State) : Host.Outcome State Fault Refusal := s.on (fun d => d.tapLoad .extestTrain)

/-- HIGHZ. -/
def execHighz (s : State) : Host.Outcome State Fault Refusal := s.on (fun d => d.tapLoad .highz)

/-- CLAMP. -/
def execClamp (s : State) : Host.Outcome State Fault Refusal := s.on (fun d => d.tapLoad .clamp)

/-- TAP_RESET: in Test-Logic-Reset the instruction is IDCODE (IEEE 1149.1, notes/assumptions/12.md). -/
def execTapReset (s : State) : Host.Outcome State Fault Refusal :=
  s.on (fun d => if d.mgmt.bring.powered then d.modMgmt (fun m => { m with tap := .idcode, tapReset := true }) else d)

end Sys2Proof.Machine
end

