-- ==== Sys2Proof/Machine/Dram.lean ====
section
/-! DEFINITION. The memory controllers as commanded line by line: reads, writes, refresh and scrub (17 R541-R550). -/

namespace Sys2Proof.Machine

/-- DRAM line `l` is usable. -/
def Dev.dramLineOk (d : Dev) (l : Nat) : Bool := decide (l * 128 + 128 ≤ d.usableDram)

/-- Every granule of a line arrives poisoned. -/
def Dev.poisonLine (d : Dev) (l : Nat) : Dev :=
  { d with mem := { d.mem with dpoison := putPoison d.mem.dpoison l allPoison } }

/-- DRAM_READ (R545): the line is decoded for its reader. -/
def execDramRead (line : Nat) (ecc : Ecc) (s : State) : Host.Outcome State Fault Refusal :=
  s.on (fun d => if d.dramLineOk line then ((d.countGlobal 8 1).decodeLine line false ecc).2 else d)

/-- DRAM_WRITE (R546, R548): a whole line with its poison mask, for a requester that is no partition's. -/
def execDramWrite (line : Nat) (data : BitVec 1024) (poison : BitVec 16) (s : State) : Host.Outcome State Fault Refusal :=
  s.on (fun d => if d.dramLineOk line then d.dramWrite (rqUnit 36 0) line fullMask data poison else d)

/-- DRAM_PARTIAL_WRITE (R546): the line is decoded, the bytes of `mask` merged, and the line written back; after an uncorrectable
decode every granule not wholly written is poisoned. -/
def execDramPartialWrite (line : Nat) (mask : BitVec 128) (data : BitVec 1024) (ecc : Ecc) (s : State) :
    Host.Outcome State Fault Refusal :=
  s.on (fun d =>
    if !d.dramLineOk line then d else
    let (p, d) := d.decodeLine line false ecc
    let d := if p = 0 then d else d.poisonLine line
    d.dramWrite (rqUnit 36 0) line mask data 0)

/-- DRAM_REFRESH (R541): per-bank refresh takes the channel's next bank. -/
def execDramRefresh (ch : Nat) (s : State) : Host.Outcome State Fault Refusal :=
  s.on (fun d => if ch < 16 then
    { d with dramc := { d.dramc with refBank := Tab.upd d.dramc.refBank ch 0 (fun b => (b + 1) % 16) } } else d)

/-- The first of the seven lines of block `blk` of a channel, with the outer code on (R542). -/
def blockLine (ch blk : Nat) : Nat :=
  7 * (16 * blk + (ch ^^^ blk ^^^ blk / 16 ^^^ blk / 256) % 16)

/-- The blocks of a channel (R542). -/
def Dev.channelBlocks (d : Dev) : Nat := d.mgmt.bring.fitted / 16384

/-- The scrub reads line `l` (R550). -/
def Dev.scrubLine (d : Dev) (l : Nat) (ecc : Ecc) : Dev :=
  let d := ((d.countGlobal 8 1).decodeLine l true ecc).2
  match ecc with
  | .clean => d
  | .corrected => d.countGlobal 9 1
  | .uncorrectable => (d.countGlobal 9 1).poisonLine l

/-- DRAM_SCRUB (R550): the channel's next block; `errs` names the lines of the block, 0 to 6, in which the decoder finds errors. -/
def execDramScrub (ch : Nat) (errs : List (Nat × Ecc)) (s : State) : Host.Outcome State Fault Refusal :=
  s.on (fun d =>
    if ch ≥ 16 || d.outerOff || d.mem.dramLost || d.channelBlocks = 0 then d else
    let blk := Tab.get d.dramc.scrubBlk ch 0
    let d := (List.range 7).foldl (fun (d : Dev) j =>
      d.scrubLine (blockLine ch blk + j) (Tab.get errs j .clean)) d
    let next := (blk + 1) % d.channelBlocks
    { d with dramc := { d.dramc with
        scrubBlk := Tab.put d.dramc.scrubBlk ch next
        sweeps := if next = 0 then Tab.upd d.dramc.sweeps ch 0 (fun n => n + 1) else d.dramc.sweeps
        scrubbed := Tab.upd d.dramc.scrubbed ch 0 (fun n => n + 1) } })

end Sys2Proof.Machine
end

