-- ==== Sys2Proof/Machine/MemInsn.lean ====
section
/-! DEFINITION. The memory instructions, locks and cache maintenance of the cores (02 R88, R93-R96; 04 R166-R172, R587). -/

namespace Sys2Proof.Machine

/-- The lanes' accesses of an instruction, one for each active lane. -/
def laneOps (act : List (Nat × Nat)) (dva : Nat × Nat → Nat) (kind : Nat × Nat → MemKind) : List LaneOp :=
  act.map (fun e => { lane := e.1, slot := e.2, dva := dva e, kind := kind e })

/-- An access with release ordering that lands on chip while earlier operations of the core are outstanding cannot take
effect yet (04 R169). -/
def Dev.mustWait (d : Dev) (ci : Nat) (rel : Bool) (ops : List LaneOp) : Bool :=
  rel && !(d.core ci).ops.isEmpty && ops.any (fun o => isOnchip o.dva)

/-- A store-like instruction is done for the strand once the purse has accepted it (02 Table 2-9). -/
def Dev.posted (d : Dev) (i : Issue) : Dev := (d.advance i.core i.strand).drainAll i.core

/-- LD (04 R587, R165-R169). -/
def execLd (i : Issue) (s : State) : Host.Outcome State Fault Refusal :=
  runIssue i 0x50 (fun i d st act =>
    let w := i.word
    d.access i st (2 ^ sizeOf w) (ordOf w % 4) false .read
      (laneOps act (fun e => d.laneAddr i.core e.2 e.1 w (offsetOf w)) (fun _ => .load))
      (fun d left done => d.blockOn i left done)) s

/-- What a store of `n` bytes takes from DST (04 R587). -/
def Dev.storeData (d : Dev) (ci : Nat) (w : BitVec 64) (e : Nat × Nat) : Nat :=
  d.readN ci e.2 e.1 (dstOf w) (sizeWords (sizeOf w)) % 2 ^ (8 * 2 ^ sizeOf w)

/-- The register words of ST's data, a code that stands for any width giving its value once. -/
def Dev.storeWords (d : Dev) (ci : Nat) (w : BitVec 64) (e : Nat × Nat) : Nat :=
  if isReg (dstOf w) then d.storeData ci w e else d.readW ci e.2 e.1 (dstOf w) % 2 ^ (8 * 2 ^ sizeOf w)

/-- ST (04 R587). -/
def execSt (i : Issue) (s : State) : Host.Outcome State Fault Refusal :=
  s.on (fun d0 => d0.issue i (isOpc 0x51) (fun d st act =>
    let w := i.word
    let rel := decide (ordOf w / 4 = 2)
    let ops := laneOps act (fun e => d.laneAddr i.core e.2 e.1 w (offsetOf w)) (fun e => .store (d.storeWords i.core w e))
    if d.mustWait i.core rel ops then d0 else
    d.access i st (2 ^ sizeOf w) (ordOf w % 4) rel .write ops (fun d _ _ => d.posted i)))

/-- ATOM (04 R171, Table 4-12). -/
def execAtom (i : Issue) (s : State) : Host.Outcome State Fault Refusal :=
  s.on (fun d0 => d0.issue i (isOpc 0x52) (fun d st act =>
    let w := i.word
    let sub := subOf w
    let n := if bitOf sub 11 then 2 else 1
    let rel := decide (fld sub 7 6 ≥ 2)
    let ops := laneOps act (fun e => d.laneAddr i.core e.2 e.1 w 0) (fun e =>
      .rmw (fld sub 15 12) (bitOf sub 10) (d.rdVal i.core e.2 e.1 (srcbOf w) n) (d.rdVal i.core e.2 e.1 (srccOf w) n))
    if d.mustWait i.core rel ops then d0 else
    d.access i st (4 * n) (fld sub 5 4) rel .atomic ops (fun d left done => d.blockOn i left done)))

/-- FENCE (04 R170): a release at more than core scope waits for the earlier accesses of every thread of the groups. -/
def execFence (i : Issue) (s : State) : Host.Outcome State Fault Refusal :=
  runIssue i 0x53 (fun i d st act =>
    let sub := subOf i.word
    let left := ((d.core i.core).ops.filter (fun e => act.any (fun a => a.2 == e.2.group))).map (·.1)
    if fld sub 7 6 = 1 || fld sub 5 4 = 0 || left.isEmpty then d.advance i.core i.strand
    else d.setStrand i.core i.strand { st with wait := .fence left (fld sub 5 4 == 3) }) s

/-! ### Cache maintenance by cores (04 R172) -/

/-- A purse's dirty line is written back to its home slice and stays, clean. -/
def Dev.flushOwn (d : Dev) (ci line : Nat) : Dev :=
  let c := d.core ci
  match Tab.get? c.l1 line with
  | some l => if l.st == .m then (d.setCore ci (c.putL1 line { l with st := .e })).writeBack ci line l else d
  | none => d

def Dev.dropOwn (d : Dev) (ci line : Nat) : Dev :=
  d.modCore ci (fun c => { c with l1 := Tab.del c.l1 line })

/-- CFLUSH or CINV over the active lanes: addresses are checked as a store's; on-chip ones then do nothing. The core's earlier
accesses to a line it names are performed first (04 R165). -/
def Dev.cacheOp (d0 d : Dev) (i : Issue) (st : Strand) (act : List (Nat × Nat)) (f : Dev → Rq → Nat → Dev) : Dev :=
  let ops := laneOps act (fun e => d.laneAddr i.core e.2 e.1 i.word (offsetOf i.word)) (fun _ => .load)
  match d.places i.core st 1 ops .maint with
  | (.error _, d) => d
  | (.ok l, d) =>
    let busy := fun (pa : Nat) => (d.core i.core).ops.any (fun o => o.2.line == pa / 128)
    if l.any (fun x => match x.2 with | .mem pa _ => busy pa | _ => false) then d0 else
    let rq := d.rqPart (d.strandPart i.core st)
    (l.foldl (fun (d : Dev) x => match x.2 with | .mem pa _ => f d rq (pa / 128) | _ => d) d).advance i.core i.strand

/-- CFLUSH (04 R172). -/
def execCflush (i : Issue) (s : State) : Host.Outcome State Fault Refusal :=
  s.on (fun d0 => d0.issue i (isOpc 0x54) (fun d st act => d0.cacheOp d i st act (fun d rq line =>
    if ordOf i.word % 4 = 3 then d.flushLine rq line else d.flushOwn i.core line)))

/-- CINV (04 R172). -/
def execCinv (i : Issue) (s : State) : Host.Outcome State Fault Refusal :=
  s.on (fun d0 => d0.issue i (isOpc 0x55) (fun d st act => d0.cacheOp d i st act (fun d _ line =>
    match ordOf i.word % 4 with
    | 3 => d.invalidateLine line
    | 2 => d.discardCopies line
    | _ => d.dropOwn i.core line)))

/-! ### Locks (02 R93-R96) -/

/-- The lanes that try in an attempt: of those that name one word, the lowest. -/
def Dev.lockTriers (d : Dev) (ci : Nat) (w : BitVec 64) (act : List (Nat × Nat)) : List (Nat × Nat) :=
  act.filter (fun e => !(act.any (fun o => decide (o.1 < e.1) && d.lockAddr ci w o == d.lockAddr ci w e)))

/-- One acquire attempt of the lanes `act`, each writing `v` where its word is 0; `won` are lanes that hold their lock. -/
def Dev.lockAttempt (d : Dev) (i : Issue) (st : Strand) (act : List (Nat × Nat)) (won : Mask) (v : Nat × Nat → Nat) : Dev :=
  let tries := d.lockTriers i.core i.word act
  let lose := act.filter (fun e => !(tries.contains e))
  let ops := laneOps tries (fun e => d.lockAddr i.core i.word e) (fun e => .rmw 1 false (v e) 0)
  match misaligned 4 (laneOps act (fun e => d.lockAddr i.core i.word e) (fun _ => .load)) with
  | some o => d.coreFault i.core (st.one (o.lane, o.slot)) 0x04 o.dva
  | none =>
    d.access i st 4 (ordOf i.word % 4) false .atomic ops (fun d left done =>
      d.blockOn i left (done ++ lose.map (fun e => (e.1, 1)) ++ (onesOf won).map (fun l => (l, 0))))

/-- LCK.ACQ (02 R93-R95). -/
def execLckAcq (i : Issue) (s : State) : Host.Outcome State Fault Refusal :=
  runIssue i 0x48 (fun i d st act =>
    d.lockAttempt i st act 0 (fun e => d.readW i.core e.2 e.1 (dstOf i.word))) s

/-- LCK.TRY (02 R93): one attempt that writes 1. -/
def execLckTry (i : Issue) (s : State) : Host.Outcome State Fault Refusal :=
  runIssue i 0x49 (fun i d st act => d.lockAttempt i st act 0 (fun _ => 1)) s

/-- LCK.REL (02 R93): the word becomes 0 with release ordering. -/
def execLckRel (i : Issue) (s : State) : Host.Outcome State Fault Refusal :=
  s.on (fun d0 => d0.issue i (isOpc 0x4A) (fun d st act =>
    let ops := laneOps act (fun e => d.lockAddr i.core i.word e) (fun _ => .store 0)
    if d.mustWait i.core true ops then d0 else
    d.access i st 4 (ordOf i.word % 4) true .write ops (fun d _ _ => d.posted i)))

/-- LCK_RETRY (02 R94, R95): the back-off ends and the lanes that do not hold their lock try again. -/
def execLckRetry (core strand : Nat) (s : State) : Host.Outcome State Fault Refusal :=
  s.on (fun d =>
    match d.strand? core strand with
    | none => d
    | some st =>
      match st.wait with
      | .backoff w won =>
        if !d.running || (d.core core).stopped then d else
        let act := (d.active core st w).filter (fun e => !won.getLsbD e.1)
        d.lockAttempt { core := core, strand := strand, word := w } st act won (fun e => d.readW core e.2 e.1 (dstOf w))
      | _ => d)

end Sys2Proof.Machine
end

