-- ==== Sys2Proof/Machine/Reset.lean ====
section
/-! DEFINITION. Full resets, reset release and power (15 R496, R498; 17 R540, R556, R557; 18 R560-R562). -/

namespace Sys2Proof.Machine

/-- The device after a full reset: everything is lost but the fuses. What stands outside it stays: host memory, the levels driven
onto the pins, the TAP's instruction and what has been sent. `held`: PERST_N stays asserted. -/
def Dev.fullReset (d : Dev) (held : Bool) : Dev :=
  { Dev.blank with
    fuses := d.fuses
    mem := { MemSys.blank with host := d.mem.host }
    mgmt := { Mgmt.blank with
      bring := { Mgmt.blank.bring with held := held }
      gpio := { Mgmt.blank.gpio with pins := d.mgmt.gpio.pins }
      tap := d.mgmt.tap
      tapReset := d.mgmt.tapReset }
    sent := d.sent
    free := d.free }

/-- Reset is released (17 R540, R556; 15 R508, R510): the straps are sampled from GPIO0 to GPIO4, HEARTBEAT is driven low and
FAULT_N asserted, ROM_START begins, and a TAP instruction other than IDCODE acts as BYPASS (R555). -/
def Dev.release (d : Dev) : Dev :=
  let g := d.mgmt.gpio.pins.toNat
  { d with outerOff := bitOf g 3, memSel := fld g 2 0 }.modMgmt (fun m => { m with
    bring := { m.bring with held := false }
    smbAddr := bitOf g 4
    faultN := true
    hb := { m.hb with driven := true }
    tap := if m.tap = TapInsn.idcode then .idcode else .bypass })

/-- FULL_RESET (R496). A hot reset and a link-down event need a part out of reset, and release it at once. -/
def execFullReset (cause : ResetCause) (s : State) : Host.Outcome State Fault Refusal :=
  s.onTime (fun d =>
    let b := d.mgmt.bring
    match cause with
    | .powerUp =>
      if b.powered then d else
      (d.fullReset true).modMgmt (fun m => { m with tap := .idcode, tapReset := true })
    | .perst => if b.powered then d.fullReset true else d
    | .hotReset => if d.clocked then (d.fullReset false).release else d
    | .linkDown => if d.clocked then (d.fullReset false).release else d)

/-- The pins with the straps' levels on GPIO0 to GPIO4. -/
def strapPins (p : BitVec 16) (s : Straps) : BitVec 16 :=
  BitVec.ofNat 16 (p.toNat / 32 * 32 + at_ 4 (b2n s.smbAddr) + at_ 3 (b2n s.outerOff) + s.memSel.toNat)

/-- RESET_RELEASE (R498): PERST_N is deasserted. -/
def execResetRelease (straps : Straps) (s : State) : Host.Outcome State Fault Refusal :=
  s.on (fun d =>
    if !(d.mgmt.bring.powered && d.mgmt.bring.held) then d else
    (d.modMgmt (fun m => { m with gpio := { m.gpio with pins := strapPins m.gpio.pins straps } })).release)

/-- POWER_DOWN (18 R561): the rails fall with PERST_N asserted. -/
def execPowerDown (s : State) : Host.Outcome State Fault Refusal :=
  s.on (fun d =>
    if !(d.mgmt.bring.powered && d.mgmt.bring.held) then d else
    d.modMgmt (fun m => { m with bring := { m.bring with powered := false }, tap := .idcode, tapReset := true }))

/-- RAIL_OUT_OF_RANGE (18 R562). -/
def execRailOutOfRange (s : State) : Host.Outcome State Fault Refusal :=
  s.on (fun d =>
    if !d.clocked then d else
    ({ d with mem := { d.mem with dramLost := true } }).modMgmt (fun m => { m with bring := { m.bring with wild := true } }))

end Sys2Proof.Machine
end

