-- ==== Sys2Proof/Machine/Dispatch.lean ====
section
/-! DEFINITION. The one dispatch from a command to its meaning. -/

namespace Sys2Proof.Machine

def exec (i : Instr) (s : State) : Host.Outcome State Fault Refusal :=
  match i with
  | .fullReset cause => Sys2Proof.Machine.execFullReset cause s
  | .timestampWrap => Sys2Proof.Machine.execTimestampWrap s
  | .epochBoundary powerMw => Sys2Proof.Machine.execEpochBoundary powerMw s
  | .dividerSwitchDone => Sys2Proof.Machine.execDividerSwitchDone s
  | .pllLossOfLock pll => Sys2Proof.Machine.execPllLossOfLock pll s
  | .pllRelock pll => Sys2Proof.Machine.execPllRelock pll s
  | .pllFail pll => Sys2Proof.Machine.execPllFail pll s
  | .jobFault k => Sys2Proof.Machine.execJobFault k s
  | .dataPlaneReset => Sys2Proof.Machine.execDataPlaneReset s
  | .dpQuiesce => Sys2Proof.Machine.execDpQuiesce s
  | .dpClear => Sys2Proof.Machine.execDpClear s
  | .dpCheck coresOk clusterOk => Sys2Proof.Machine.execDpCheck coresOk clusterOk s
  | .dpRelease => Sys2Proof.Machine.execDpRelease s
  | .nop j => Sys2Proof.Machine.execNop j s
  | .movi j => Sys2Proof.Machine.execMovi j s
  | .mov j => Sys2Proof.Machine.execMov j s
  | .iadd j => Sys2Proof.Machine.execIadd j s
  | .isub j => Sys2Proof.Machine.execIsub j s
  | .imul j => Sys2Proof.Machine.execImul j s
  | .imulh j => Sys2Proof.Machine.execImulh j s
  | .imad j => Sys2Proof.Machine.execImad j s
  | .imin j => Sys2Proof.Machine.execImin j s
  | .imax j => Sys2Proof.Machine.execImax j s
  | .andOp j => Sys2Proof.Machine.execAndOp j s
  | .orOp j => Sys2Proof.Machine.execOrOp j s
  | .xorOp j => Sys2Proof.Machine.execXorOp j s
  | .shl j => Sys2Proof.Machine.execShl j s
  | .shr j => Sys2Proof.Machine.execShr j s
  | .rot j => Sys2Proof.Machine.execRot j s
  | .popc j => Sys2Proof.Machine.execPopc j s
  | .clz j => Sys2Proof.Machine.execClz j s
  | .brev j => Sys2Proof.Machine.execBrev j s
  | .bfx j => Sys2Proof.Machine.execBfx j s
  | .bfi j => Sys2Proof.Machine.execBfi j s
  | .fadd j => Sys2Proof.Machine.execFadd j s
  | .fsub j => Sys2Proof.Machine.execFsub j s
  | .fmul j => Sys2Proof.Machine.execFmul j s
  | .ffma j => Sys2Proof.Machine.execFfma j s
  | .fmin j => Sys2Proof.Machine.execFmin j s
  | .fmax j => Sys2Proof.Machine.execFmax j s
  | .frcp j => Sys2Proof.Machine.execFrcp j s
  | .frsq j => Sys2Proof.Machine.execFrsq j s
  | .fsqrt j => Sys2Proof.Machine.execFsqrt j s
  | .fexp2 j => Sys2Proof.Machine.execFexp2 j s
  | .flog2 j => Sys2Proof.Machine.execFlog2 j s
  | .fsin j => Sys2Proof.Machine.execFsin j s
  | .fcos j => Sys2Proof.Machine.execFcos j s
  | .cmp j => Sys2Proof.Machine.execCmp j s
  | .sel j => Sys2Proof.Machine.execSel j s
  | .cvt j => Sys2Proof.Machine.execCvt j s
  | .plop j => Sys2Proof.Machine.execPlop j s
  | .shfl j => Sys2Proof.Machine.execShfl j s
  | .vote j => Sys2Proof.Machine.execVote j s
  | .movs j => Sys2Proof.Machine.execMovs j s
  | .bra j => Sys2Proof.Machine.execBra j s
  | .brx j => Sys2Proof.Machine.execBrx j s
  | .call j => Sys2Proof.Machine.execCall j s
  | .ret j => Sys2Proof.Machine.execRet j s
  | .join j => Sys2Proof.Machine.execJoin j s
  | .joinWindowExpiry core strand => Sys2Proof.Machine.execJoinWindowExpiry core strand s
  | .exit j => Sys2Proof.Machine.execExit j s
  | .gsync j => Sys2Proof.Machine.execGsync j s
  | .mxbegin j => Sys2Proof.Machine.execMxbegin j s
  | .mxSlotBind core => Sys2Proof.Machine.execMxSlotBind core s
  | .mxend j => Sys2Proof.Machine.execMxend j s
  | .lckAcq j => Sys2Proof.Machine.execLckAcq j s
  | .lckRetry core strand => Sys2Proof.Machine.execLckRetry core strand s
  | .lckTry j => Sys2Proof.Machine.execLckTry j s
  | .lckRel j => Sys2Proof.Machine.execLckRel j s
  | .coreWatchdog core group => Sys2Proof.Machine.execCoreWatchdog core group s
  | .ld j => Sys2Proof.Machine.execLd j s
  | .st j => Sys2Proof.Machine.execSt j s
  | .atom j => Sys2Proof.Machine.execAtom j s
  | .fence j => Sys2Proof.Machine.execFence j s
  | .cflush j => Sys2Proof.Machine.execCflush j s
  | .cinv j => Sys2Proof.Machine.execCinv j s
  | .memoryResponse core line ecc => Sys2Proof.Machine.execMemoryResponse core line ecc s
  | .dirReadMiss core line => Sys2Proof.Machine.execDirReadMiss core line s
  | .dirWriteMiss core line => Sys2Proof.Machine.execDirWriteMiss core line s
  | .dirWtStore core k => Sys2Proof.Machine.execDirWtStore core k s
  | .purseEvict core line => Sys2Proof.Machine.execPurseEvict core line s
  | .nonCoreRead req line => Sys2Proof.Machine.execNonCoreRead req line s
  | .nonCoreWrite req line mask data => Sys2Proof.Machine.execNonCoreWrite req line mask data s
  | .dirAck line => Sys2Proof.Machine.execDirAck line s
  | .vaultFill line ecc => Sys2Proof.Machine.execVaultFill line ecc s
  | .nextLinePrefetch k => Sys2Proof.Machine.execNextLinePrefetch k s
  | .sliceScrub slice ecc => Sys2Proof.Machine.execSliceScrub slice ecc s
  | .mld j => Sys2Proof.Machine.execMld j s
  | .mst j => Sys2Proof.Machine.execMst j s
  | .mma j => Sys2Proof.Machine.execMma j s
  | .mzero j => Sys2Proof.Machine.execMzero j s
  | .mxPipeStart core k => Sys2Proof.Machine.execMxPipeStart core k s
  | .send j => Sys2Proof.Machine.execSend j s
  | .creditRequest k => Sys2Proof.Machine.execCreditRequest k s
  | .creditGrant k => Sys2Proof.Machine.execCreditGrant k s
  | .messageArrival k => Sys2Proof.Machine.execMessageArrival k s
  | .recv j => Sys2Proof.Machine.execRecv j s
  | .tsig j => Sys2Proof.Machine.execTsig j s
  | .twait j => Sys2Proof.Machine.execTwait j s
  | .twaitTimeout core strand group => Sys2Proof.Machine.execTwaitTimeout core strand group s
  | .tread j => Sys2Proof.Machine.execTread j s
  | .tallyOperation k => Sys2Proof.Machine.execTallyOperation k s
  | .tallyWake k => Sys2Proof.Machine.execTallyWake k s
  | .tlySet f n v => Sys2Proof.Machine.execTlySet f n v s
  | .tlyAdd f n v => Sys2Proof.Machine.execTlyAdd f n v s
  | .tlyRearm f n v => Sys2Proof.Machine.execTlyRearm f n v s
  | .malloc j => Sys2Proof.Machine.execMalloc j s
  | .mfree j => Sys2Proof.Machine.execMfree j s
  | .mintCall k => Sys2Proof.Machine.execMintCall k s
  | .hostReadError a => Sys2Proof.Machine.execHostReadError a s
  | .faultRecordClear f n v => Sys2Proof.Machine.execFaultRecordClear f n v s
  | .mmuInvRange f v => Sys2Proof.Machine.execMmuInvRange f v s
  | .mmuInvContext f v => Sys2Proof.Machine.execMmuInvContext f v s
  | .mmuInvAll f v => Sys2Proof.Machine.execMmuInvAll f v s
  | .invalidationComplete k => Sys2Proof.Machine.execInvalidationComplete k s
  | .maintFlush f v => Sys2Proof.Machine.execMaintFlush f v s
  | .maintInvalidate f v => Sys2Proof.Machine.execMaintInvalidate f v s
  | .maintFlushInv f v => Sys2Proof.Machine.execMaintFlushInv f v s
  | .maintFill f v => Sys2Proof.Machine.execMaintFill f v s
  | .maintLine k => Sys2Proof.Machine.execMaintLine k s
  | .registerWrite w => Sys2Proof.Machine.execRegisterWrite w s
  | .hifWinWrite f v => Sys2Proof.Machine.execHifWinWrite f v s
  | .tagWrite f j v => Sys2Proof.Machine.execTagWrite f j v s
  | .bar2Read f off n => Sys2Proof.Machine.execBar2Read f off n s
  | .bar2Write f off data poisoned => Sys2Proof.Machine.execBar2Write f off data poisoned s
  | .ringEnable f r v => Sys2Proof.Machine.execRingEnable f r v s
  | .ringIdle f r => Sys2Proof.Machine.execRingIdle f r s
  | .ringDisable f r v => Sys2Proof.Machine.execRingDisable f r v s
  | .ringDrained f r => Sys2Proof.Machine.execRingDrained f r s
  | .doorbell f r v => Sys2Proof.Machine.execDoorbell f r v s
  | .commandFetch f r => Sys2Proof.Machine.execCommandFetch f r s
  | .slotRead f r => Sys2Proof.Machine.execSlotRead f r s
  | .commandStart f r => Sys2Proof.Machine.execCommandStart f r s
  | .commandComplete x => Sys2Proof.Machine.execCommandComplete x s
  | .wait x => Sys2Proof.Machine.execWait x s
  | .waitTimeout x => Sys2Proof.Machine.execWaitTimeout x s
  | .rearm x => Sys2Proof.Machine.execRearm x s
  | .batch x => Sys2Proof.Machine.execBatch x s
  | .enq x => Sys2Proof.Machine.execEnq x s
  | .copy x => Sys2Proof.Machine.execCopy x s
  | .fill x => Sys2Proof.Machine.execFill x s
  | .maint x => Sys2Proof.Machine.execMaint x s
  | .tlbInv x => Sys2Proof.Machine.execTlbInv x s
  | .mintLoad x => Sys2Proof.Machine.execMintLoad x s
  | .soInstall x => Sys2Proof.Machine.execSoInstall x s
  | .soRemove x => Sys2Proof.Machine.execSoRemove x s
  | .soPatch x => Sys2Proof.Machine.execSoPatch x s
  | .soSeal x => Sys2Proof.Machine.execSoSeal x s
  | .soRun x => Sys2Proof.Machine.execSoRun x s
  | .soArm x => Sys2Proof.Machine.execSoArm x s
  | .soDisarm x => Sys2Proof.Machine.execSoDisarm x s
  | .soCancel x => Sys2Proof.Machine.execSoCancel x s
  | .trigger o => Sys2Proof.Machine.execTrigger o s
  | .activationStart o => Sys2Proof.Machine.execActivationStart o s
  | .nodeStart o seq n => Sys2Proof.Machine.execNodeStart o seq n s
  | .groupDispatch l core => Sys2Proof.Machine.execGroupDispatch l core s
  | .launchComplete l => Sys2Proof.Machine.execLaunchComplete l s
  | .signalComplete o seq n => Sys2Proof.Machine.execSignalComplete o seq n s
  | .waitNodeTimeout o seq => Sys2Proof.Machine.execWaitNodeTimeout o seq s
  | .activationEnd o seq => Sys2Proof.Machine.execActivationEnd o seq s
  | .launchOverrun l => Sys2Proof.Machine.execLaunchOverrun l s
  | .ldgStream x => Sys2Proof.Machine.execLdgStream x s
  | .ldgEvict x => Sys2Proof.Machine.execLdgEvict x s
  | .ldgMigrate x => Sys2Proof.Machine.execLdgMigrate x s
  | .migrationCopyComplete k => Sys2Proof.Machine.execMigrationCopyComplete k s
  | .ldgTransfer x => Sys2Proof.Machine.execLdgTransfer x s
  | .ldgRelease x => Sys2Proof.Machine.execLdgRelease x s
  | .ldgReconcile x => Sys2Proof.Machine.execLdgReconcile x s
  | .linsReserve j => Sys2Proof.Machine.execLinsReserve j s
  | .linsCommit j => Sys2Proof.Machine.execLinsCommit j s
  | .linsAbandon j => Sys2Proof.Machine.execLinsAbandon j s
  | .levc j => Sys2Proof.Machine.execLevc j s
  | .lqryQuery j => Sys2Proof.Machine.execLqryQuery j s
  | .lqryRelease j => Sys2Proof.Machine.execLqryRelease j s
  | .lqryPrune j => Sys2Proof.Machine.execLqryPrune j s
  | .queryJoin q => Sys2Proof.Machine.execQueryJoin q s
  | .sweepEnd q => Sys2Proof.Machine.execSweepEnd q s
  | .queryComplete q => Sys2Proof.Machine.execQueryComplete q s
  | .rndPass x => Sys2Proof.Machine.execRndPass x s
  | .incrementalFlush p => Sys2Proof.Machine.execIncrementalFlush p s
  | .tileHandout p => Sys2Proof.Machine.execTileHandout p s
  | .tileStored p core => Sys2Proof.Machine.execTileStored p core s
  | .roundEnd p => Sys2Proof.Machine.execRoundEnd p s
  | .groupCloseTimeout core => Sys2Proof.Machine.execGroupCloseTimeout core s
  | .ilkb j => Sys2Proof.Machine.execIlkb j s
  | .ilkGrant core strand => Sys2Proof.Machine.execIlkGrant core strand s
  | .ilke j => Sys2Proof.Machine.execIlke j s
  | .rayq j => Sys2Proof.Machine.execRayq j s
  | .rayAccept core strand => Sys2Proof.Machine.execRayAccept core strand s
  | .rayLineArrival k => Sys2Proof.Machine.execRayLineArrival k s
  | .hitRecordWrite k => Sys2Proof.Machine.execHitRecordWrite k s
  | .rayw j => Sys2Proof.Machine.execRayw j s
  | .ingConfig x => Sys2Proof.Machine.execIngConfig x s
  | .frameStart port vc frameNum => Sys2Proof.Machine.execFrameStart port vc frameNum s
  | .linePacket port vc dt data crcErr hdrErr => Sys2Proof.Machine.execLinePacket port vc dt data crcErr hdrErr s
  | .frameEnd port vc => Sys2Proof.Machine.execFrameEnd port vc s
  | .frameTimeout port stream => Sys2Proof.Machine.execFrameTimeout port stream s
  | .cmpCommit x => Sys2Proof.Machine.execCmpCommit x s
  | .cmpCoef x => Sys2Proof.Machine.execCmpCoef x s
  | .cmpStrong x => Sys2Proof.Machine.execCmpStrong x s
  | .latch e => Sys2Proof.Machine.execLatch e s
  | .refreshStart e => Sys2Proof.Machine.execRefreshStart e s
  | .strongroomCheck e contentErr outputErr => Sys2Proof.Machine.execStrongroomCheck e contentErr outputErr s
  | .tearingEffect gpio => Sys2Proof.Machine.execTearingEffect gpio s
  | .getVersion f => Sys2Proof.Machine.execGetVersion f s
  | .getState f => Sys2Proof.Machine.execGetState f s
  | .getFloorplan f => Sys2Proof.Machine.execGetFloorplan f s
  | .fwLoad f => Sys2Proof.Machine.execFwLoad f s
  | .imageVerify => Sys2Proof.Machine.execImageVerify s
  | .svnCommit f stuck => Sys2Proof.Machine.execSvnCommit f stuck s
  | .keyRevoke f ok => Sys2Proof.Machine.execKeyRevoke f ok s
  | .partSet f => Sys2Proof.Machine.execPartSet f s
  | .partWindow f => Sys2Proof.Machine.execPartWindow f s
  | .clusterMove f => Sys2Proof.Machine.execClusterMove f s
  | .clusterDrained c => Sys2Proof.Machine.execClusterDrained c s
  | .clusterMoveTimeout c => Sys2Proof.Machine.execClusterMoveTimeout c s
  | .vaultAlloc f => Sys2Proof.Machine.execVaultAlloc f s
  | .vaultPin f => Sys2Proof.Machine.execVaultPin f s
  | .tallyOwn f => Sys2Proof.Machine.execTallyOwn f s
  | .partRelease f => Sys2Proof.Machine.execPartRelease f s
  | .reserveSet f => Sys2Proof.Machine.execReserveSet f s
  | .reserveLend f => Sys2Proof.Machine.execReserveLend f s
  | .hotsetLoad f => Sys2Proof.Machine.execHotsetLoad f s
  | .hotsetReady r => Sys2Proof.Machine.execHotsetReady r s
  | .ctxSet f => Sys2Proof.Machine.execCtxSet f s
  | .tagRange f => Sys2Proof.Machine.execTagRange f s
  | .powerPoint f => Sys2Proof.Machine.execPowerPoint f s
  | .powerLimit f => Sys2Proof.Machine.execPowerLimit f s
  | .telemetry f => Sys2Proof.Machine.execTelemetry f s
  | .ingestPort f => Sys2Proof.Machine.execIngestPort f s
  | .displayMode f => Sys2Proof.Machine.execDisplayMode f s
  | .displayLayer f => Sys2Proof.Machine.execDisplayLayer f s
  | .displayDcs f => Sys2Proof.Machine.execDisplayDcs f s
  | .panelReply e r => Sys2Proof.Machine.execPanelReply e r s
  | .panelTimeout e => Sys2Proof.Machine.execPanelTimeout e s
  | .dpReset f => Sys2Proof.Machine.execDpReset f s
  | .noticeTailWrite f v => Sys2Proof.Machine.execNoticeTailWrite f v s
  | .doeDiscovery index => Sys2Proof.Machine.execDoeDiscovery index s
  | .getCert kind => Sys2Proof.Machine.execGetCert kind s
  | .getEvidence nonce => Sys2Proof.Machine.execGetEvidence nonce s
  | .doeAbort => Sys2Proof.Machine.execDoeAbort s
  | .controlFatal detail => Sys2Proof.Machine.execControlFatal detail s
  | .controlWatchdog => Sys2Proof.Machine.execControlWatchdog s
  | .flr f => Sys2Proof.Machine.execFlr f s
  | .flrDrained f => Sys2Proof.Machine.execFlrDrained f s
  | .flrEscalation f => Sys2Proof.Machine.execFlrEscalation f s
  | .romStartEnd ok => Sys2Proof.Machine.execRomStartEnd ok s
  | .memTrainEnd trained => Sys2Proof.Machine.execMemTrainEnd trained s
  | .memInitEnd => Sys2Proof.Machine.execMemInitEnd s
  | .selfTestEnd r => Sys2Proof.Machine.execSelfTestEnd r s
  | .topologyCheck => Sys2Proof.Machine.execTopologyCheck s
  | .heartbeatWrite v => Sys2Proof.Machine.execHeartbeatWrite v s
  | .violationCounterRead f off => Sys2Proof.Machine.execViolationCounterRead f off s
  | .pcsCtrlWrite f v => Sys2Proof.Machine.execPcsCtrlWrite f v s
  | .pcSample f core => Sys2Proof.Machine.execPcSample f core s
  | .pcsTailWrite f v => Sys2Proof.Machine.execPcsTailWrite f v s
  | .dramRead line ecc => Sys2Proof.Machine.execDramRead line ecc s
  | .dramWrite line data poison => Sys2Proof.Machine.execDramWrite line data poison s
  | .dramPartialWrite line mask data ecc => Sys2Proof.Machine.execDramPartialWrite line mask data ecc s
  | .dramRefresh ch => Sys2Proof.Machine.execDramRefresh ch s
  | .dramScrub ch errs => Sys2Proof.Machine.execDramScrub ch errs s
  | .gpioEdge n level => Sys2Proof.Machine.execGpioEdge n level s
  | .smbDeviceId => Sys2Proof.Machine.execSmbDeviceId s
  | .smbSerial => Sys2Proof.Machine.execSmbSerial s
  | .smbTemperature => Sys2Proof.Machine.execSmbTemperature s
  | .smbPower => Sys2Proof.Machine.execSmbPower s
  | .smbChipFault => Sys2Proof.Machine.execSmbChipFault s
  | .smbPinStatus => Sys2Proof.Machine.execSmbPinStatus s
  | .smbWrite => Sys2Proof.Machine.execSmbWrite s
  | .bypass => Sys2Proof.Machine.execBypass s
  | .idcode => Sys2Proof.Machine.execIdcode s
  | .samplePreload => Sys2Proof.Machine.execSamplePreload s
  | .extest => Sys2Proof.Machine.execExtest s
  | .extestPulse => Sys2Proof.Machine.execExtestPulse s
  | .extestTrain => Sys2Proof.Machine.execExtestTrain s
  | .highz => Sys2Proof.Machine.execHighz s
  | .clamp => Sys2Proof.Machine.execClamp s
  | .tapReset => Sys2Proof.Machine.execTapReset s
  | .sensorSample t => Sys2Proof.Machine.execSensorSample t s
  | .resetRelease straps => Sys2Proof.Machine.execResetRelease straps s
  | .powerDown => Sys2Proof.Machine.execPowerDown s
  | .railOutOfRange => Sys2Proof.Machine.execRailOutOfRange s
  | .csi2LinkUp n => Sys2Proof.Machine.execCsi2LinkUp n s
  | .csi2LinkDown n => Sys2Proof.Machine.execCsi2LinkDown n s
  | .vfEnableClear => Sys2Proof.Machine.execVfEnableClear s
  | .msixUnmask f v => Sys2Proof.Machine.execMsixUnmask f v s
  | .invalidationAtCore core line => Sys2Proof.Machine.execInvalidationAtCore core line s
  | .forwardAtCore core line => Sys2Proof.Machine.execForwardAtCore core line s
  | .creditReturn k => Sys2Proof.Machine.execCreditReturn k s
  | .ledgerScrub bank errs => Sys2Proof.Machine.execLedgerScrub bank errs s
  | .ctxSetTimeout f => Sys2Proof.Machine.execCtxSetTimeout f s
  | .partReleaseTimeout f => Sys2Proof.Machine.execPartReleaseTimeout f s
  | .zeroingComplete c => Sys2Proof.Machine.execZeroingComplete c s
  | .outputLineStart e late => Sys2Proof.Machine.execOutputLineStart e late s
  | .mxInstructionComplete core mul chunkOrder => Sys2Proof.Machine.execMxInstructionComplete core mul chunkOrder s
  | .avsbusTransaction readMv => Sys2Proof.Machine.execAvsbusTransaction readMv s
  | .displayPllLock e => Sys2Proof.Machine.execDisplayPllLock e s
  | .unknownMessage f => Sys2Proof.Machine.execUnknownMessage f s

end Sys2Proof.Machine
end

