-- ==== Sys2Proof/Machine/Step.lean ====
section
/-! DEFINITION. One step of the block: the command at the front of the queue, or a k-cycle without a command. -/

namespace Sys2Proof.Machine

/-- The command at the front of the queue is carried out on the rest; on an empty queue one k-cycle passes
(notes/assumptions/3.md). -/
def step (s : State) : Host.Outcome State Fault Refusal :=
  match s.pending with
  | [] => s.onTime Dev.tick
  | c :: r => exec c { s with pending := r }

/-- `s` with the command that a word spells put at the front of its queue; no row of the table gives bits, so that no word spells
one (notes/assumptions/4.md). -/
def State.withFetchWord (s : State) (nbits w : Nat) : State :=
  match decodeTableWord nbits w with
  | some c => { s with pending := c :: s.pending }
  | none => s

end Sys2Proof.Machine
end

