-- ==== Sys2Proof/Safety.lean ====
section
/-! DEFINITION. What a safe run is, and the words the statements use. -/

namespace Sys2Proof.Safety
open Sys2Proof.Machine

/-! ### The device as a whole -/

/-- The time base is consistent (01 R50-R52): a 64-bit timestamp, a 47-bit epoch index, the phase within the epoch, and an
operating point of Table 1-4. -/
def TimeOk (t : Time) : Prop :=
  t.ts < 2 ^ 64 ∧ t.epoch < 2 ^ 47 ∧ t.phase < 125000 ∧ t.phase = t.ts % 125000 ∧ t.aPoint ≤ 2

/-- The block with another device. -/
def withDev (s : State) (d : Dev) : State := { s with dev := d }

/-! ### Frames: what of the device two states have in common -/

/-- Nothing but the cores and the counters of chapter 16 differs. -/
def CoreSide (d e : Dev) : Prop := e = { d with cores := e.cores, aud := e.aud }

/-- Nothing but core `ci` differs among the cores. -/
def OneCore (ci : Nat) (d e : Dev) : Prop := ∀ j, j ≠ ci → e.core j = d.core j

/-- Nothing of core `ci` but its groups, its strands and the note of its last instruction differs. -/
def IssueSide (ci : Nat) (d e : Dev) : Prop :=
  e.core ci = { d.core ci with groups := (e.core ci).groups, strands := (e.core ci).strands, lastIssue := (e.core ci).lastIssue }

/-- A group differs in its registers, predicates, uniform registers and watchdog at most. -/
def GroupSide (g h : Group) : Prop := h = { g with regs := h.regs, preds := h.preds, uni := h.uni, watch := h.watch }

/-! ### A core instruction at issue (02 R62, R74, R82) -/

/-- Every thread of a core's strands belongs to a resident group. -/
def Resident (d : Dev) (ci : Nat) : Prop :=
  ∀ x ∈ (d.core ci).strands, ∀ e ∈ x.2.lanes, Tab.has (d.core ci).groups e.2 = true

/-- The strand can issue the word: it is ready on a core that runs, no matrix instruction stands in the way, the fetch
succeeds and the word and its operands are legal; the word's opcode is `o`. -/
def Issues (d : Dev) (i : Issue) (o : Nat) : Prop :=
  ∃ st, d.strand? i.core i.strand = some st ∧ d.canIssue i.core st = true ∧ opcOf i.word = o ∧
    d.mxHazard i.core st i.word = false ∧ d.fetchFail i.core st = none ∧ illegal (d.strandRegs i.core st) i.word = none

/-- The strand that the instruction acts on: the issuing strand with those that merge with it at a repack point. -/
def Arrives (d : Dev) (i : Issue) (st : Strand) : Prop := (d.arrive i.core i.strand i.word).strand? i.core i.strand = some st

/-- The active lanes, each with its group slot. -/
def actives (d : Dev) (i : Issue) (st : Strand) : List (Nat × Nat) := d.active i.core st i.word

/-- The strand has retired its instruction and goes on at `pc` with the lanes it had; every other strand is as it was when
the instruction arrived. -/
def WentOn (d t : Dev) (i : Issue) (st : Strand) (pc : Nat) : Prop :=
  t.strand? i.core i.strand = some { st with pc := pc % 2 ^ 48, wait := .ready, backoff := 0 } ∧
  ∀ k, k ≠ i.strand → t.strand? i.core k = (d.arrive i.core i.strand i.word).strand? i.core k

/-- Code `code` of a lane is one of the `n` words from DST that some lane of `ws` writes; a uniform register is its
group's, whichever lane names it. -/
def Hit (ws : List (Nat × Nat)) (dst n slot lane code : Nat) : Prop :=
  dst ≤ code ∧ code < dst + n ∧ ∃ e ∈ ws, e.2 = slot ∧ (e.1 = lane ∨ 0x80 ≤ code ∧ code < 0xC0)

/-- The values `v` of the lanes that write are in DST, `n` words wide (a predicate takes bit 0, code 0xFF nothing), and
every other register, uniform register and predicate of the core reads as before. -/
def Wrote (d t : Dev) (i : Issue) (act : List (Nat × Nat)) (dst n : Nat) (v : Nat → Nat → Nat) : Prop :=
  (∀ e ∈ writers act dst, dst ≠ 0xFF →
    t.rdVal i.core e.2 e.1 dst n = if dst < 0xC0 then v e.1 e.2 % 2 ^ (32 * n) else v e.1 e.2 % 2) ∧
  (∀ slot lane code, code < 0xC7 → ¬ Hit (writers act dst) dst n slot lane code →
    t.readW i.core slot lane code = d.readW i.core slot lane code)

/-- What a register instruction leaves alone: everything but its core's registers, strands, watchdogs and counters. -/
def RegisterFrame (d t : Dev) (ci : Nat) : Prop :=
  CoreSide d t ∧ OneCore ci d t ∧ IssueSide ci d t ∧ ∀ slot, GroupSide (d.group ci slot) (t.group ci slot)

/-- A register instruction's whole effect: `v` in DST, the next word next, nothing else. -/
def RegisterEffect (d t : Dev) (i : Issue) (st : Strand) (n : Nat) (v : Nat → Nat → Nat) : Prop :=
  Wrote d t i (actives d i st) (dstOf i.word) n v ∧ WentOn d t i st (st.pc + 8) ∧ RegisterFrame d t i.core

/-! ### The integer instructions (02 Table 2-8, R85, R583) -/

/-- The two's-complement value of the low `w` bits of `x`. -/
def signed (w x : Nat) : Int := if 2 ^ (w - 1) ≤ x % 2 ^ w then (x % 2 ^ w : Nat) - (2 ^ w : Nat) else (x % 2 ^ w : Nat)

/-- The number an operand stands for under a TYPE: s32 and s64 are signed. -/
def number (t x : Nat) : Int := if t = 1 ∨ t = 6 then signed (tyWidth t) x else (x % 2 ^ tyWidth t : Nat)

/-- Bit `k` of a number cut to `w` bits. -/
def bitBelow (w x k : Nat) : Bool := decide (k < w) && x.testBit k

/-- `r` is the value of the integer instruction with opcode `o` for operands `a`, `b`, `c` of TYPE `t`. -/
def IntRule (o t mod a b c r : Nat) : Prop :=
  let w := tyWidth t
  match o with
  | 0x04 => r = (a + b) % 2 ^ w
  | 0x05 => r = (a % 2 ^ w + 2 ^ w - b % 2 ^ w) % 2 ^ w
  | 0x06 => r = a * b % 2 ^ w
  | 0x07 => r < 2 ^ w ∧ (r : Int) = (number t a * number t b / (2 ^ w : Nat)) % (2 ^ w : Nat)
  | 0x08 => r = (a * b + c) % 2 ^ w
  | 0x09 => r = (if number t a ≤ number t b then a else b) % 2 ^ w
  | 0x0A => r = (if number t a ≤ number t b then b else a) % 2 ^ w
  | 0x0C => ∀ k, r.testBit k = (a.testBit k && b.testBit k)
  | 0x0D => ∀ k, r.testBit k = (a.testBit k || b.testBit k)
  | 0x0E => ∀ k, r.testBit k = (a.testBit k ^^ b.testBit k)
  | 0x10 => ∀ k, r.testBit k = (decide (k < w) && decide (b % w ≤ k) && a.testBit (k - b % w))
  | 0x11 => ∀ k, r.testBit k = (decide (k < w) &&
      (if k + b % w < w then a.testBit (k + b % w) else decide (mod % 2 = 1) && a.testBit (w - 1)))
  | 0x12 => ∀ k, r.testBit k = (decide (k < w) && a.testBit ((k + w - b % w) % w))
  | 0x13 => r = ((List.range w).filter (fun k => a.testBit k)).length
  | 0x14 => r ≤ w ∧ a % 2 ^ w < 2 ^ (w - r) ∧ (r < w → 2 ^ (w - 1 - r) ≤ a % 2 ^ w)
  | 0x15 => ∀ k, r.testBit k = (decide (k < w) && a.testBit (w - 1 - k))
  | 0x16 =>
    let pos := b % 256
    let len := c % 256
    ∀ k, r.testBit k = (decide (k < w) && decide (0 < len) &&
      (if k < len then bitBelow w a (pos + k) else decide (t = 1 ∨ t = 6) && bitBelow w a (pos + (len - 1))))
  | 0x17 =>
    let pos := b % 256
    let len := b / 256 % 256
    ∀ k, r.testBit k = (decide (k < w) &&
      (if pos ≤ k ∧ k < pos + len then bitBelow w a (k - pos) else c.testBit k))
  | _ => False

/-- The integer instructions, by opcode. -/
def integerRows : List (Nat × (Issue → Instr)) :=
  [(0x04, .iadd), (0x05, .isub), (0x06, .imul), (0x07, .imulh), (0x08, .imad), (0x09, .imin), (0x0A, .imax),
   (0x0C, .andOp), (0x0D, .orOp), (0x0E, .xorOp), (0x10, .shl), (0x11, .shr), (0x12, .rot), (0x13, .popc), (0x14, .clz),
   (0x15, .brev), (0x16, .bfx), (0x17, .bfi)]

/-- Words of an integer instruction's B: a shift count, a position and a length are one word whatever the TYPE. -/
def wordsB (o t : Nat) : Nat := if 0x10 ≤ o then 1 else tyWords t
/-- Words of an integer instruction's C: BFX's length is one word. -/
def wordsC (o t : Nat) : Nat := if o = 0x16 then 1 else tyWords t
/-- Words of an integer instruction's DST: a count of bits is one word. -/
def wordsD (o t : Nat) : Nat := if o = 0x13 ∨ o = 0x14 then 1 else tyWords t

/-! ### The other instructions on registers -/

/-- The floating-point instructions, by opcode. -/
def floatRows : List (Nat × (Issue → Instr)) :=
  [(0x20, .fadd), (0x21, .fsub), (0x22, .fmul), (0x23, .ffma), (0x24, .fmin), (0x25, .fmax)]

/-- The transcendental instructions, by opcode. -/
def transRows : List (Nat × (Issue → Instr)) :=
  [(0x28, .frcp), (0x29, .frsq), (0x2A, .fsqrt), (0x2B, .fexp2), (0x2C, .flog2), (0x2D, .fsin), (0x2E, .fcos)]

/-- The instructions that move, select, convert, shuffle and vote, by opcode. -/
def moveRows : List (Nat × (Issue → Instr)) :=
  [(0x01, .movi), (0x02, .mov), (0x31, .sel), (0x32, .cvt), (0x33, .plop), (0x38, .shfl), (0x39, .vote), (0x3A, .movs)]

/-- Words of such an instruction's DST. -/
def wordsMoved (o t : Nat) : Nat := if o = 0x02 ∨ o = 0x31 ∨ o = 0x32 ∨ o = 0x38 then tyWords t else 1

/-- `r` is the value for `lane` of the group in `slot`, among the active lanes `act` (02 Tables 2-7, 2-8, R65, R66). -/
def MoveRule (o : Nat) (d : Dev) (ci : Nat) (act : List (Nat × Nat)) (w : BitVec 64) (lane slot r : Nat) : Prop :=
  let n := tyWords (typeOf w)
  let bitAt := fun (l c : Nat) => d.readW ci slot l c % 2
  match o with
  | 0x01 => r = wf w 31 0
  | 0x02 => r = d.rdVal ci slot lane (srcaOf w) n
  | 0x31 => r = if bitAt lane (srccOf w) = 1 then d.rdVal ci slot lane (srcaOf w) n else d.rdVal ci slot lane (srcbOf w) n
  | 0x32 => r = cvtOp (typeOf w) (modOf w) (d.rdVal ci slot lane (srcaOf w) (tyWords (fld (modOf w) 7 4)))
  | 0x33 => r = if (modOf w).testBit (4 * bitAt lane (srcaOf w) + 2 * bitAt lane (srcbOf w) + bitAt lane (srccOf w)) then 1 else 0
  | 0x38 =>
    let b := d.readW ci slot lane (srcbOf w)
    ∃ src, (modOf w % 4 = 0 → src = b) ∧ (modOf w % 4 = 1 → b ≤ lane → src + b = lane) ∧ (modOf w % 4 = 1 → lane < b → src = 32) ∧
      (modOf w % 4 = 2 → src = lane + b) ∧ (modOf w % 4 = 3 → src = lane ^^^ b) ∧
      ((src, slot) ∈ act → r = d.rdVal ci slot src (srcaOf w) n) ∧ ((src, slot) ∉ act → r = d.rdVal ci slot lane (srcaOf w) n)
  | 0x39 =>
    (modOf w % 4 = 0 → r = if ∃ e ∈ act, e.2 = slot ∧ bitAt e.1 (srcaOf w) = 1 then 1 else 0) ∧
    (modOf w % 4 = 1 → r = if ∀ e ∈ act, e.2 = slot → bitAt e.1 (srcaOf w) = 1 then 1 else 0) ∧
    (2 ≤ modOf w % 4 → ∀ k, r.testBit k = (decide (k < 32) && decide ((k, slot) ∈ act) && bitAt k (srcaOf w) == 1))
  | 0x3A => r = d.readW ci slot lane (srcaOf w)
  | _ => False

/-- Every strand of a core has a number below the next new one. -/
def Numbered (d : Dev) (ci : Nat) : Prop := ∀ x ∈ (d.core ci).strands, x.1 < (d.core ci).nextStrand

/-- The branches, by opcode. -/
def branchRows : List (Nat × (Issue → Instr)) := [(0x40, .bra), (0x41, .brx), (0x42, .call), (0x43, .ret)]

/-- Where a branch takes an active lane: BRA and CALL go IMM32 words from the next instruction, BRX and RET to bits [47:3] of
the pair that SRCA names. -/
def target (d : Dev) (i : Issue) (st : Strand) (e : Nat × Nat) : Nat :=
  if opcOf i.word = 0x40 ∨ opcOf i.word = 0x42 then (((st.pc : Int) + 8 + 8 * signed 32 (wf i.word 31 0)) % (2 ^ 48 : Nat)).toNat
  else d.readP i.core e.2 e.1 (srcaOf i.word) % 2 ^ 48 / 8 * 8

/-- A lane's next address: the target where the guard holds for it, else the next word. -/
def nextOf (d : Dev) (i : Issue) (st : Strand) (e : Nat × Nat) : Nat :=
  if e ∈ actives d i st then target d i st e else (st.pc + 8) % 2 ^ 48

/-- Every operand of core `ci` reads as before. -/
def SameRegisters (d t : Dev) (ci : Nat) : Prop := ∀ slot lane code, t.readW ci slot lane code = d.readW ci slot lane code

/-! ### Matrix regions: the procedure of 02 R70 on a divergence stack, a program counter and an active mask -/

/-- JOIN with tag `tag` at `j`, inside a matrix region: the running entries of its tag rejoin. -/
def rejoin (tag : Nat) : List DivEntry → Mask → List DivEntry × Mask
  | [], active => ([], active)
  | top :: r, active =>
    if top.tag = tag ∧ top.running = true then rejoin tag r (active ||| top.parked) else (top :: r, active)

/-- on join with tag `tag` at address `j` (02 R70). -/
def regionJoin (tag j : Nat) (stack : List DivEntry) (active : Mask) : List DivEntry × Nat × Mask :=
  match stack with
  | [] => ([], j + 8, active)
  | top :: r =>
    if top.tag ≠ tag then (stack, j + 8, active)
    else if top.running = false then
      ({ top with parked := active, joinPc := some j, running := true } :: r, top.resumePc, top.resumeMask)
    else ((rejoin tag stack active).1, j + 8, (rejoin tag stack active).2)

/-- on exit of every active lane, with an entry on the stack (02 R70). -/
def regionExit (top : DivEntry) : Option Nat × Mask :=
  if top.running = true then (top.joinPc, top.parked) else (some top.resumePc, top.resumeMask)

/-- Lane `k` is one of the lanes of `l`. -/
def holdsLane (l : Tab Nat) (k : Nat) : Prop := ∃ e ∈ l, e.1 = k

/-- `m` is the mask of the lanes of `l`. -/
def MaskOf (m : Mask) (l : Tab Nat) : Prop := ∀ k, k < 32 → (m.getLsbD k = true ↔ holdsLane l k)

/-- The group of a strand in a matrix region. -/
def regionGroup (d : Dev) (ci : Nat) (st : Strand) : Group := d.group ci (st.slots.headD 0)

/-- A job fault with code `code` sets out for the strand's group at its program counter, its core stops, and nothing else of the
device differs but its counters and the core's strands (02 R98). -/
def Faulted (d t : Dev) (i : Issue) (st : Strand) (code : Nat) : Prop :=
  (∃ j, t.faults = d.faults ++ [j] ∧ j.code = code ∧ j.unit = 0 ∧ j.index = i.core ∧ j.pc = st.pc ∧
    j.group = (regionGroup d i.core st).index) ∧
  (t.core i.core).stopped = true ∧ t = { d with cores := t.cores, aud := t.aud, faults := t.faults } ∧
  OneCore i.core d t ∧ SameRegisters d t i.core

/-! ### Memory accesses of a core's lanes (02 R88, R93; 04 R171, R587) -/

/-- The instructions whose lanes access memory, by opcode. -/
def memoryRows : List (Nat × (Issue → Instr)) :=
  [(0x50, .ld), (0x51, .st), (0x52, .atom), (0x48, .lckAcq), (0x49, .lckTry), (0x4A, .lckRel)]

/-- What a lane's access does, its size in bytes and its address. A lock attempt compares the word with 0 and, where equal, writes
the value; a release writes 0. -/
def accessOf (d : Dev) (i : Issue) (e : Nat × Nat) : MemKind × Nat × Nat :=
  let w := i.word
  let at_ := d.laneAddr i.core e.2 e.1 w
  let n := if (subOf w).testBit 11 then 2 else 1
  if opcOf w = 0x50 then (.load, 2 ^ Machine.sizeOf w, at_ (offsetOf w))
  else if opcOf w = 0x51 then (.store (d.storeWords i.core w e), 2 ^ Machine.sizeOf w, at_ (offsetOf w))
  else if opcOf w = 0x52 then
    (.rmw (fld (subOf w) 15 12) ((subOf w).testBit 10) (d.rdVal i.core e.2 e.1 (srcbOf w) n) (d.rdVal i.core e.2 e.1 (srccOf w) n),
      4 * n, at_ 0)
  else if opcOf w = 0x48 then (.rmw 1 false (d.readW i.core e.2 e.1 (dstOf w)) 0, 4, at_ (offsetOf w))
  else if opcOf w = 0x49 then (.rmw 1 false 1 0, 4, at_ (offsetOf w))
  else (.store 0, 4, at_ (offsetOf w))

/-- Byte `k` of an on-chip place of launch `l`. -/
def placeByte (d : Dev) (ci l : Nat) (p : Place) (k : Nat) : Byte :=
  match p with
  | .ls off => (d.core ci).lsByte ci l (off + k)
  | .tile c off => Mem.read (Tab.get d.mem.tile c []) (off + k)
  | .mem _ _ => 0

/-- Two places are in different memories or at different offsets. -/
def apart (p q : Place) (size : Nat) : Prop :=
  match p, q with
  | .ls a, .ls b => b < a ∨ a + size ≤ b
  | .tile c a, .tile e b => c ≠ e ∨ b < a ∨ a + size ≤ b
  | _, _ => True

/-- Every cluster's tile memory is in its canonical form. -/
def TilesOk (d : Dev) : Prop := ∀ c, Mem.wf (Tab.get d.mem.tile c []) = true

/-- Nothing but the cores, the counters and tile memory differs. -/
def OnchipSide (d t : Dev) : Prop :=
  t = { d with cores := t.cores, aud := t.aud, mem := { d.mem with tile := t.mem.tile } }

/-- One lane's access to an on-chip place: the place holds what the access leaves there and every other byte of on-chip memory is as
before. -/
def Accessed (d t : Dev) (i : Issue) (e : Nat × Nat) (p : Place) : Prop :=
  let a := accessOf d i e
  let l := (d.group i.core e.2).launch
  let old := leNat (d.onchipRead i.core l a.2.1 p)
  (∀ k, k < a.2.1 → placeByte t i.core l p k =
    match a.1.after a.2.1 old with
    | none => placeByte d i.core l p k
    | some v => BitVec.ofNat 8 (v / 2 ^ (8 * k))) ∧
  (∀ l' q, (l' ≠ l ∧ (∀ c o, q ≠ .tile c o)) ∨ apart p q a.2.1 → placeByte t i.core l' q 0 = placeByte d i.core l' q 0)

/-! ### The vault, the directory and DRAM (04; 17) -/

/-- The directory can take the line's state without evicting another entry: the line has one, or its set has a free way. -/
def DirRoom (d : Dev) (line : Nat) : Prop :=
  (d.dirOf line).isSome = true ∨ ∃ w, w < 12 ∧ ∀ e ∈ d.mem.dir, d.dirSet e.1 = d.dirSet line → e.2.way ≠ w

/-- Nothing of the line is in progress: no transaction, no miss register, no response on its way, no directory entry. -/
def Quiet (d : Dev) (line : Nat) : Prop :=
  Tab.get? d.mem.txns line = none ∧ Tab.get? d.mem.missRegs line = none ∧ (∀ r ∈ d.mem.resps, r.line ≠ line) ∧ d.dirOf line = none

/-- A core's miss of a line that its directory has not seen yet. -/
def NewMiss (d : Dev) (core line : Nat) (m : Miss) (write : Bool) : Prop :=
  Tab.get? (d.core core).misses line = some m ∧ m.write = write ∧ m.granted = false ∧ Tab.get? d.mem.txns line = none ∧
  Tab.has (d.core core).leaving line = false ∧ d.missRoom line = true

/-- The device with a transaction begun for a line. -/
def withTxn (d : Dev) (line : Nat) (t : Txn) : Dev := { d with mem := { d.mem with txns := Tab.put d.mem.txns line t } }

/-- A request that has just opened a transaction: it waits for the cores of `inv` and the owner `fwd`. -/
def opened (req : DirReq) (inv : List Nat) (fwd : Option Nat) : Txn :=
  { req := req, inv := inv, fwd := fwd, wb := none, data := none, queue := [] }

/-! ### The matrix engine (03) -/

/-- The matrix instructions, by opcode. -/
def matrixRows : List (Nat × (Issue → Instr)) := [(0x70, .mld), (0x71, .mst), (0x72, .mma), (0x73, .mzero)]

/-- The instruction takes no row from memory and its operands fit: MMA and MZERO, MLD from registers, MST of an accumulator to
registers below REGS. -/
def RegisterForm (d : Dev) (i : Issue) (st : Strand) : Prop :=
  let sub := subOf i.word
  opcOf i.word = 0x72 ∨ opcOf i.word = 0x73 ∨ (opcOf i.word = 0x70 ∧ sub.testBit 3 = true) ∨
  (opcOf i.word = 0x71 ∧ sub.testBit 6 = true ∧ sub.testBit 11 = false ∧
    dstOf i.word + mstBytes sub none / 4 + ceilDiv (mstScaleBytes sub none) 4 ≤ d.strandRegs i.core st)

/-! ### Tallies (06 R222) -/

/-- What a SET, ADD, REARM or READ makes of a tally; `gen` is the count of data-plane resets. -/
def TallyRule (act : TallyAct) (gen : Nat) (x y : Tally) : Prop :=
  match act with
  | .set v =>
    let ahead := (v - x.value).toNat
    (x.lost = true ∨ v = x.value → y = x) ∧
    (x.lost = false → 1 ≤ ahead → ahead ≤ 2 ^ 63 - 1 →
      y.value = v ∧ y.lost = false ∧ y.stale = x.stale ∧ y.owner = x.owner ∧ y.resetGen = x.resetGen) ∧
    (x.lost = false → 2 ^ 63 ≤ ahead → y = { x with stale := true })
  | .add v =>
    (x.lost = true ∨ v = 0 → y = x) ∧
    (x.lost = false → v ≠ 0 → v.toNat < 2 ^ 63 →
      y.value = x.value + v ∧ y.lost = false ∧ y.stale = x.stale ∧ y.owner = x.owner ∧ y.resetGen = x.resetGen) ∧
    (x.lost = false → 2 ^ 63 ≤ v.toNat → y = { x with stale := true })
  | .rearm v => y.value = v ∧ y.lost = false ∧ y.stale = false ∧ y.resetGen = gen % 256 ∧ y.owner = x.owner
  | .wait _ => y = x
  | .read _ => y = x

/-- Nothing but tallies, counters, the rings' watches of a doorbell slot and the free values' counter differs. -/
def TallySide (d t : Dev) : Prop := t = { d with tly := t.tly, aud := t.aud, funcs := t.funcs, free := t.free }

/-! ### Commands of rings (07 R252, R266) -/

/-- The command has started on a running data plane, and its opcode is `o`. -/
def Started (d : Dev) (x : CmdId) (o : Nat) (c : Cmd) : Prop :=
  d.running = true ∧ d.cmd? x = some c ∧ c.phase = .started ∧ c.op = o

/-- The command's effects have been performed with this status and DETAIL; its completion actions are to come. -/
def Performed (t : Dev) (x : CmdId) (c : Cmd) (status detail : Nat) : Prop :=
  t.cmd? x = some { c with phase := .performed, status := status, detail := detail }

/-- Nothing but the rings of the functions differs. -/
def FuncSide (d t : Dev) : Prop := t = { d with funcs := t.funcs }

/-- An answered lane: the strand has its whole result, `v` in DST of `lane`, and goes on. -/
def LaneAnswered (t : Dev) (core sid : Nat) (st : Strand) (w : BitVec 64) (lane slot v : Nat) : Prop :=
  t.strand? core sid = some { st with pc := (st.pc + 8) % 2 ^ 48, wait := .ready, backoff := 0 } ∧
  (dstOf w + resultWords w ≤ 0x80 → t.rdVal core slot lane (dstOf w) (resultWords w) = v % 2 ^ (32 * resultWords w))

/-! ### Accesses of units that are no cores (04 Table 4-9; 05 R192) -/

/-- Nothing differs but what an access to memory can touch: the vault, its directory, DRAM and host memory, cached translations and
fault records, the cores' copies and the operations that wait for them, budgets, counters, job faults, interrupts; of a function
nothing but its vectors, of a partition nothing but the budgets used. -/
def MemorySide (d t : Dev) : Prop :=
  t = { d with
    cores := t.cores, aud := t.aud, parts := t.parts, funcs := t.funcs, faults := t.faults, sent := t.sent, free := t.free
    dramc := t.dramc
    mmu := { d.mmu with tlb := t.mmu.tlb, recs := t.mmu.recs }
    mem := { d.mem with
      vault := t.mem.vault, vrr := t.mem.vrr, missRegs := t.mem.missRegs, prefetches := t.mem.prefetches, dir := t.mem.dir
      dirRR := t.mem.dirRR, txns := t.mem.txns, resps := t.mem.resps, dram := t.mem.dram, dpoison := t.mem.dpoison
      host := t.mem.host, errLog := t.mem.errLog } } ∧
  (∀ f, t.func f = { d.func f with vecs := (t.func f).vecs }) ∧
  ∀ p, t.part p = { d.part p with dramUsed := (t.part p).dramUsed, hostUsed := (t.part p).hostUsed }

/-- Nothing is on its way in the memory system: no transaction, no miss register, no response. -/
def Still (d : Dev) : Prop := d.mem.txns = [] ∧ d.mem.missRegs = [] ∧ d.mem.resps = []

/-- The address translates, and nothing differs after it but counters and cached translations. -/
def Maps (d : Dev) (c dva : Nat) (k : Acc) (pa attr : Nat) : Prop :=
  ∃ e, d.translate c dva k = (.ok (pa, attr), e) ∧ e = { d with aud := e.aud, mmu := { d.mmu with tlb := e.mmu.tlb } }

/-- Function `f`'s window reaches the address: its context is the function's own and the address is inside (07 R242). -/
def WindowReaches (d : Dev) (f off : Nat) : Prop :=
  d.ownsCtx f (d.func f).winCtx = true ∧ (d.func f).winBase * 2 ^ 30 + off < 2 ^ 48 ∧ off < (if f = 0 then 2 ^ 36 else 2 ^ 34)

/-- The device after a saturating violation counter has counted one. -/
def counted (d : Dev) (off : Nat) : Dev :=
  { d with aud := { d.aud with viol := Tab.put d.aud.viol off (min (Tab.get d.aud.viol off 0 + 1) (2 ^ 32 - 1)) } }

/-- The device with another ring. -/
def withRing (d : Dev) (f r : Nat) (x : Ring) : Dev :=
  { d with funcs := Tab.put d.funcs f { d.func f with rings := Tab.put (d.func f).rings r x } }

/-- A ring's configuration as a write of FE_RING_CFG gives it; EN stands apart (07 R250). -/
def configured (x : Ring) (v : Nat) : Ring :=
  { x with kind := v.testBit 30, dbTally := v / 2 ^ 14 % 2 ^ 14, weight := v / 2 ^ 8 % 16,
           log2n := if 6 ≤ v % 32 ∧ v % 32 ≤ 16 then v % 32 else x.log2n }

/-- The rings of every function but ring `r` of function `f` are as before, and of that function nothing but rings and vectors
differs. -/
def OtherRings (d t : Dev) (f r : Nat) : Prop :=
  (∀ g q, g ≠ f ∨ q ≠ r → t.ring g q = d.ring g q) ∧
  ∀ g, t.func g = { d.func g with rings := (t.func g).rings, vecs := (t.func g).vecs }

/-- Nothing but the command's own ring differs, and the parts of the device named beside it. -/
def RingOnly (d t : Dev) (x : CmdId) : Prop := t = withRing d x.fn x.ring (t.ring x.fn x.ring)

/-! ### Standing orders (08) -/

/-- A command on an installed order of its own partition that stays, with no earlier one of its ring on that order to come. -/
def Ordered (d : Dev) (x : CmdId) (op : Nat) (c : Cmd) (r : Order) : Prop :=
  Started d x op c ∧ d.orderBehind x c = false ∧ Tab.get? d.orders c.order = some r ∧ r.part = c.part ∧ r.leaving = false

/-- Order `o` is now `r`, and every other order is as before. -/
def OrderIs (d t : Dev) (o : Nat) (r : Order) : Prop :=
  Tab.get? t.orders o = some r ∧ ∀ j, j ≠ o → Tab.get? t.orders j = Tab.get? d.orders j

/-- Nothing differs but orders and rings. -/
def OrderSide (d t : Dev) : Prop := t = { d with orders := t.orders, funcs := t.funcs }

/-- A seal of an order takes slot `k`: the first free one of its four, else the current one while nothing is bound to it. -/
def sealedIn (r : Order) (k : Nat) (block : BitVec 512) : Order :=
  { r with
    draft := block, cur := k
    slots := Tab.put (if r.curSlot.refs = 0 then Tab.del r.slots r.cur else r.slots) k
      { gen := (r.curSlot.gen + 1) % 2 ^ 16, refs := 0, block := block } }

/-- An activation of an order, by its sequence number, is now `a`; every other one is as before. -/
def ActIs (d t : Dev) (o seq : Nat) (a : Activation) : Prop :=
  ∃ r r', Tab.get? d.orders o = some r ∧ OrderIs d t o r' ∧ r'.act? seq = some a ∧ (∀ q, q ≠ seq → r'.act? q = r.act? q) ∧
    r' = { r with acts := r'.acts }

/-! ### The context ledger (09) -/

/-- Nothing differs but the ledger and the command's own ring. -/
def LedgerSide (d t : Dev) (x : CmdId) : Prop := RingOnly { d with ledger := t.ledger } t x

/-- Ledger entry `i` of a table is `e`, or FREE; every other entry is as before. -/
def EntryIs (d t : Dev) (i : Nat) (e : Option LEntry) : Prop :=
  Tab.get? t.ledger.entries i = e ∧ ∀ j, j ≠ i → Tab.get? t.ledger.entries j = Tab.get? d.ledger.entries j

/-- A core's request to the ledger by one lane: its pair of SRCA names stream `n` and block `b`, and no release waits. -/
def LedgerLane (d : Dev) (i : Issue) (st : Strand) (e : Nat × Nat) (n b : Nat) : Prop :=
  actives d i st = [e] ∧ d.readP i.core e.2 e.1 (srcaOf i.word) = n + 2 ^ 32 * b ∧ n < 1024 ∧ fld (subOf i.word) 11 10 ≠ 2

/-- The issuing strand goes on with `v` in the `n` words of the lane's DST. -/
def GivesLane (t : Dev) (i : Issue) (st : Strand) (e : Nat × Nat) (n v : Nat) : Prop :=
  t.strand? i.core i.strand = some { st with pc := (st.pc + 8) % 2 ^ 48, wait := .ready, backoff := 0 } ∧
  (dstOf i.word + n ≤ 0x80 → t.rdVal i.core e.2 e.1 (dstOf i.word) n = v % 2 ^ (32 * n))

/-- An entry comes before another in a selection: by score, then the later block, then the lower stream (09 R329). -/
def Before (a b : LItem) : Prop :=
  b.score < a.score ∨ a.score = b.score ∧ (b.block < a.block ∨ a.block = b.block ∧ a.stream ≤ b.stream)

/-! ### Render passes (11) -/

/-- A render pass before its first round: the descriptor's header and targets, and the clusters that its partition holds. -/
def newPass (x : CmdId) (part ctx : Nat) (hdr : BitVec 512) (targets : List (BitVec 256)) (set : BitVec 64) : Pass :=
  { cmd := x, part := part, ctx := ctx, hdr := hdr, targets := targets, set := set, round := 0, flushes := 0, renders := 0
    final := false, draw := 0, prim := 0, binned := 0, pool := none, chunks := [], segs := 0, lists := [], phase := .rendering
    nextTile := 0, maxChunks := 0 }

/-- The descriptor is well formed and names a cluster of the partition (11 R409, R383). -/
def passOk (h : Nat) (targets : List (BitVec 256)) (set : BitVec 64) : Prop :=
  headerOk h = true ∧ (∀ t ∈ targets, targetOk (fld h 239 226) t = true) ∧ planeBytes targets ≤ 24576 ∧ set ≠ 0

/-- The strand goes on behind its instruction. -/
def GoesOn (t : Dev) (core sid : Nat) (st : Strand) : Prop :=
  t.strand? core sid = some { st with pc := (st.pc + 8) % 2 ^ 48, wait := .ready, backoff := 0 }

/-! ### Sensor ingest (13) -/

/-- Stream `k` of port `n` is now `x`, and every other stream and every port's own settings are as before. -/
def StreamIs (d t : Dev) (n k : Nat) (x : IngStream) : Prop :=
  t.stream n k = x ∧ (∀ m j, m ≠ n ∨ j ≠ k → t.stream m j = d.stream m j) ∧
  ∀ m, t.port m = { d.port m with streams := (t.port m).streams }

/-- Of the four streams of a port only stream `k` is enabled, by `c`, and none has a configuration that waits. -/
def OnlyStream (d : Dev) (n k : Nat) (c : IngCfg) : Prop :=
  k < 4 ∧ (d.port n).up = true ∧ (d.stream n k).cfg = some c ∧ (d.stream n k).pend = [] ∧
  ∀ j, j ≠ k → (d.stream n j).cfg = none ∧ (d.stream n j).pend = [] ∧ (d.stream n j).frame = none

/-! ### Composition (13) -/

/-- The device with another composition engine. -/
def withEngine (d : Dev) (e : Nat) (g : Engine) : Dev := { d with engines := Tab.put d.engines e g }

/-- Nothing differs but the engines, rings, and what accesses to memory can touch. -/
def EngineSide (d t : Dev) : Prop := MemorySide { d with engines := t.engines, funcs := t.funcs } t

/-- The strongroom layer's check fails: its content does not match, or, shown opaque, the output does not, or shows FAIL (13 R453). -/
def CheckFails (g : Engine) (b : BitVec 512) (contentErr outputErr : Bool) : Prop :=
  contentErr = true ∨ b.toNat.testBit 464 = true ∧ (outputErr = true ∨ g.failShown = true)

/-- The background as an output pixel of an engine: 8-bit channels, or 10-bit ones that repeat the upper bits (13 Table 13-13). -/
def background (g : Engine) : Nat :=
  let v := fun (k : Nat) => fld g.mode.toNat (195 + 8 * k) (188 + 8 * k)
  if g.mode.toNat.testBit 251 then (v 0 * 4 + v 0 / 64) + (v 1 * 4 + v 1 / 64) * 2 ^ 10 + (v 2 * 4 + v 2 / 64) * 2 ^ 20
  else v 0 + v 1 * 2 ^ 8 + v 2 * 2 ^ 16

/-! ### Mailbox messages (14) -/

/-- Nothing differs but the requests that wait, function `f`'s mailbox and vectors, and what is sent. -/
def MailSide (d t : Dev) (f : Nat) : Prop :=
  t = { d with mgmt := { d.mgmt with reqs := t.mgmt.reqs }, funcs := t.funcs, sent := t.sent, free := t.free } ∧
  (∀ g, g ≠ f → t.func g = d.func g) ∧ t.func f = { d.func f with mbx := (t.func f).mbx, vecs := (t.func f).vecs }

/-- The 256 bytes of a response (14 Table 14-3): the request's MSG, SEQ and user word, LEN, STATUS, DETAIL and the payload. -/
def responseTo (r : MbxReq) (status detail : Nat) (payload : List Byte) : List Byte :=
  r.bytes.take 2 ++ toLe 2 payload.length ++ (r.bytes.drop 4).take 2 ++ toLe 1 status ++ toLe 1 detail ++
  (r.bytes.drop 8).take 8 ++ (payload ++ List.replicate 240 0).take 240

/-- Request `r`, number `k` of those that wait, is answered: it waits no more, and unless its function was reset meanwhile the mailbox
holds the response, with LAST_SEQ its SEQ, DONE set and BUSY clear (14 R462, R467). -/
def Answered (d t : Dev) (k : Nat) (r : MbxReq) (status detail : Nat) (payload : List Byte) : Prop :=
  t.mgmt.reqs = d.mgmt.reqs.eraseIdx k ∧
  (r.live = true →
    let m := (t.func r.fn).mbx
    m.busy = false ∧ m.done = true ∧ m.lastSeq = leNat ((r.bytes.drop 4).take 2) ∧
    ∀ i, i < 32 → Tab.get m.rsp i 0 = leNat (((responseTo r status detail payload).drop (8 * i)).take 8))

/-- The whole effect of a message that only changes `d` to `e` and is answered. -/
def AnswersWith (e t : Dev) (k : Nat) (r : MbxReq) (status detail : Nat) (payload : List Byte) : Prop :=
  Answered e t k r status detail payload ∧ MailSide e t r.fn

/-- Function `f`'s next request of message `msg` is `r`, number `k` of those that wait; it is served, and no earlier one holds its
resources (14 R464). -/
def Asked (d : Dev) (f msg k : Nat) (r : MbxReq) : Prop :=
  d.findReq f msg false = some (k, r) ∧ d.findReq f msg true = none ∧ d.mailServed = true ∧ d.mbxBlocked k r = false

/-- The device with request `k` accepted: its checks have passed and it waits. -/
def accepting (d : Dev) (k phase : Nat) : Dev :=
  { d with mgmt := { d.mgmt with reqs := d.mgmt.reqs.modify k (fun r => { r with accepted := true, phase := phase }) } }

/-- `r` is asked in a state that serves every message, with the length and the zero bytes of its form (14 R466). -/
def Formed (d : Dev) (f msg k len : Nat) (named : List (Nat × Nat)) (r : MbxReq) : Prop :=
  Asked d f msg k r ∧ d.isReady = true ∧ r.len = len ∧ r.reservedOk named = true

/-- The messages of firmware that are served when READY, each with its number, its meaning, and whether only the physical function may
send it (14 Tables 14-6 to 14-8). -/
def readyRows : List (Nat × (Nat → Instr) × Bool) :=
  [(0x0100, .partSet, true), (0x0101, .partWindow, true), (0x0102, .clusterMove, true), (0x0103, .vaultAlloc, true),
   (0x0104, .vaultPin, true), (0x0105, .tallyOwn, true), (0x0106, .partRelease, true), (0x0107, .reserveSet, true),
   (0x0108, .reserveLend, true), (0x0109, .hotsetLoad, true), (0x0200, .ctxSet, true), (0x0201, .tagRange, true),
   (0x0300, .powerPoint, true), (0x0301, .powerLimit, true), (0x0302, .telemetry, true), (0x0400, .ingestPort, true),
   (0x0401, .displayMode, true), (0x0402, .displayLayer, true), (0x0403, .displayDcs, true), (0x0500, .dpReset, true),
   (0x0601, (fun f => .svnCommit f 0), true), (0x0602, (fun f => .keyRevoke f true), true)]

/-- LEN of a message without variable length (14 Tables 14-6 to 14-8). -/
def lenOf (msg : Nat) : Option Nat :=
  match msg with
  | 0x0100 => some 20
  | 0x0101 => some 16
  | 0x0102 => some 3
  | 0x0103 => some 5
  | 0x0104 => some 2
  | 0x0105 => some 5
  | 0x0106 => some 1
  | 0x0107 => some 4
  | 0x0108 => some 2
  | 0x0109 => some 16
  | 0x0200 => some 16
  | 0x0201 => some 6
  | 0x0300 => some 1
  | 0x0301 => some 4
  | 0x0302 => some 0
  | 0x0400 => some 6
  | 0x0401 => some 40
  | 0x0402 => some 3
  | 0x0500 => some 0
  | 0x0601 => some 0
  | 0x0602 => some 1
  | _ => none

/-- A byte of a request's payload. -/
def payloadByte (r : MbxReq) (i : Nat) : Nat := leNat ((r.bytes.drop (16 + i)).take 1)

/-- The device with a response for DOE. -/
def doeAnswers (d : Dev) (bs : List Byte) : Dev := { d with mgmt := { d.mgmt with fw := { d.mgmt.fw with doe := some bs } } }

/-! ### Chip-wide faults and bring-up (15) -/

/-- The part is powered and out of reset, in bring-up state `st`. -/
def BringsUp (d : Dev) (st : Bring) : Prop :=
  d.mgmt.bring.st = st ∧ d.mgmt.bring.powered = true ∧ d.mgmt.bring.held = false

/-- MGT_CHIP_FAULT and its time after a fault (15 Table 15-6). -/
def chipRecord (d : Dev) (cause detail : Nat) (fatal : Bool) : ChipFault :=
  { valid := true, fatal := fatal, count := min (d.mgmt.chip.count + 1) (2 ^ 16 - 1), detail := detail, cause := cause
    time := d.time.ts }

/-- A fault marked FATAL: it is recorded, the data plane stops until a full reset, the part is NOT_READY with FAULT_N asserted, and AER
reports it (15 R504; 17 R538). -/
def Stopped (d t : Dev) (cause detail : Nat) : Prop :=
  t.mgmt.chip = chipRecord d cause detail true ∧ t.dp = { d.dp with step := 7, pending := none } ∧ t.mgmt.faultN = true ∧
  t.mgmt.bring = { d.mgmt.bring with st := .notReady } ∧ t.mgmt.pciFatal = d.mgmt.pciFatal + 1 ∧
  (d.mgmt.bring.wild = false → (.aer true) ∈ t.sent) ∧
  (t.mgmt.fw.dead = false → ∀ r ∈ t.mgmt.reqs, r.accepted = false) ∧
  t = { d with dp := t.dp, mgmt := t.mgmt, sent := t.sent, free := t.free, funcs := t.funcs }

/-- The place of a PLL among the lock bits (01 Table 1-10). -/
def pllBit (p : Pll) : Nat :=
  match p with
  | .array => 0
  | .sys => 1
  | .mem => 2
  | .pcie => 3
  | .disp0 => 4
  | .disp1 => 5

/-- The clock status with a PLL's lock and loss bits written. -/
def pllSet (c : Clocks) (p : Pll) (lock lost : Bool) (c' : Clocks) : Prop :=
  c' = { c with locks := c'.locks, lost := c'.lost } ∧
  ∀ j, j < 6 → c'.locks.getLsbD j = (if j = pllBit p then lock else c.locks.getLsbD j) ∧
    c'.lost.getLsbD j = (if j = pllBit p then lost else c.lost.getLsbD j)

/-! ### Board (17) -/

/-- The TAP's instructions but IDCODE, by command (17 R555). -/
def tapRows : List (Instr × TapInsn) :=
  [(.bypass, .bypass), (.samplePreload, .samplePreload), (.extest, .extest), (.extestPulse, .extestPulse),
   (.extestTrain, .extestTrain), (.highz, .highz), (.clamp, .clamp)]

/-- A read command of the SMBus target and its data (17 Table 17-11). -/
def smbRows (d : Dev) : List (Instr × List Byte) :=
  [(.smbDeviceId, toLe 2 0x8160 ++ toLe 1 0x21 ++ toLe 1 d.stateCode), (.smbSerial, toLe 16 Config.serial.toNat),
   (.smbTemperature, toLe 2 (d.mgmt.pow.lastTemp % (2 ^ 16 : Nat)).toNat), (.smbPower, toLe 2 d.mgmt.pow.lastMw),
   (.smbChipFault, toLe 1 d.mgmt.chip.cause ++ toLe 1 d.mgmt.chip.detail ++ toLe 2 d.mgmt.chip.count),
   (.smbPinStatus, toLe 1 ((if d.mgmt.hb.level then 1 else 0) + (if d.mgmt.hb.en then 2 else 0) + (if d.mgmt.faultN then 4 else 0) +
     (if d.mgmt.thermTrip then 8 else 0)))]

/-! ### Time -/

/-- The commands that change the timestamp. -/
def keepsTime (c : Instr) : Prop :=
  (∀ x, c ≠ .fullReset x) ∧ (∀ x, c ≠ .epochBoundary x) ∧ c ≠ .timestampWrap

/-- Every fuse that is set in one state is set in another. -/
def FusesGrow (a b : Fuses) : Prop :=
  (∀ i, a.svn.getLsbD i = true → b.svn.getLsbD i = true) ∧ ∀ i, a.revoked.getLsbD i = true → b.revoked.getLsbD i = true

end Sys2Proof.Safety
end

