-- ==== Sys2Proof/Certificates/Slice0/Obligations.lean ====
section
/-! DEFINITION. The statements for the provers. -/

open Sys2Proof Sys2Proof.Machine Sys2Proof.Safety

/-! ### The block as a whole -/

/-- A step on a queue that is not empty is the front command carried out on the rest; the model's own queue. -/
def Obligations.StepRunsTheFrontCommand : Prop :=
  ∀ (c : Instr) (r : List Instr) (s : State), s.pending = c :: r → step s = exec c { s with pending := r }

/-! ### The compute core (02) -/

/-- Every integer instruction that issues writes, for each lane, the value that Table 2-8 and R85 give it (BFX and BFI:
R583), from operands of its TYPE, and does nothing else (02 R65, R81, R83, R85, R583, R585). -/
def Obligations.IntegerInstructionsWriteTheirResult : Prop :=
  ∀ row ∈ integerRows, ∀ (i : Issue) (s : State), Issues s.dev i row.1 → Resident s.dev i.core →
    ∃ t st v, exec (row.2 i) s = .next t ∧ t.pending = s.pending ∧ Arrives s.dev i st ∧
      RegisterEffect s.dev t.dev i st (wordsD row.1 (typeOf i.word)) v ∧
      ∀ lane slot, IntRule row.1 (typeOf i.word) (modOf i.word)
        (s.dev.rdVal i.core slot lane (srcaOf i.word) (tyWords (typeOf i.word)))
        (s.dev.rdB i.core slot lane i.word (wordsB row.1 (typeOf i.word)))
        (s.dev.rdVal i.core slot lane (srccOf i.word) (wordsC row.1 (typeOf i.word))) (v lane slot)

/-- Every floating-point instruction that issues writes, for each lane, the IEEE result of its operands, modifiers and
rounding, and does nothing else; a NaN operand of FADD, FSUB, FMUL or FFMA gives the canonical quiet NaN (02 R84, R86).
Every transcendental instruction that issues writes, for each lane, a value that its operand and one free value of the
manual's error bound give (notes/assumptions/1.md), and does nothing else; a NaN gives the canonical quiet NaN. -/
def Obligations.FloatingPointInstructionsWriteTheirResult : Prop :=
  (∀ row ∈ floatRows, ∀ (i : Issue) (s : State), Issues s.dev i row.1 → Resident s.dev i.core →
     ∃ t st v, exec (row.2 i) s = .next t ∧ t.pending = s.pending ∧ Arrives s.dev i st ∧ RegisterEffect s.dev t.dev i st 1 v ∧
       ∀ lane slot,
         let a := s.dev.readW i.core slot lane (srcaOf i.word)
         let b := s.dev.readW i.core slot lane (srcbOf i.word)
         v lane slot = fpOp row.1 (typeOf i.word) (modOf i.word) a b (s.dev.readW i.core slot lane (srccOf i.word)) ∧
         (row.1 ≤ 0x23 → typeOf i.word = 2 → fmtF32.decode a = .nan ∨ fmtF32.decode b = .nan → v lane slot = 0x7FC00000)) ∧
  (∀ row ∈ transRows, ∀ (i : Issue) (s : State), Issues s.dev i row.1 → Resident s.dev i.core →
     ∃ t st v, exec (row.2 i) s = .next t ∧ t.pending = s.pending ∧ Arrives s.dev i st ∧
       RegisterEffect { s.dev with free := s.dev.free + 32 } t.dev i st 1 v ∧
       ∀ lane slot,
         let a := s.dev.readW i.core slot lane (srcaOf i.word)
         (∃ x, v lane slot = transOp row.1 x a) ∧ (fmtF32.decode a = .nan → v lane slot = 0x7FC00000))

/-- MOVI, MOV, SEL, CVT, PLOP, SHFL, VOTE and MOVS write, for each lane, the value that Tables 2-7 and 2-8 give them, among
the active lanes of the lane's own group where it is a shuffle or a vote, and do nothing else (02 R65, R66).
CVT between integers wraps, or clamps with SAT = 1; a NaN gives 0 as an integer and the canonical NaN as a float; a packed
source gives its low element (02 R584). -/
def Obligations.MovesAndConversionsWriteTheirResult : Prop :=
  (∀ row ∈ moveRows, ∀ (i : Issue) (s : State), Issues s.dev i row.1 → Resident s.dev i.core →
     ∃ t st v, exec (row.2 i) s = .next t ∧ t.pending = s.pending ∧ Arrives s.dev i st ∧
       RegisterEffect s.dev t.dev i st (wordsMoved row.1 (typeOf i.word)) v ∧
       ∀ lane slot, MoveRule row.1 s.dev i.core (actives s.dev i st) i.word lane slot (v lane slot)) ∧
  (∀ dst mod a : Nat,
     let src := fld mod 7 4
     let x := if tyPacked src then a % 2 ^ 16 else a
     (tyFloat src = false → tyFloat dst = false → bitOf mod 2 = false →
       ((cvtOp dst mod a : Nat) : Int) = number src a % (2 ^ tyWidth dst : Nat)) ∧
     (tyFloat src = false → tyFloat dst = false → bitOf mod 2 = true → ∀ lo hi : Int,
       lo = (if tySigned dst then -(2 ^ (tyWidth dst - 1) : Int) else 0) →
       hi = lo + (2 ^ tyWidth dst : Nat) - 1 →
       ((cvtOp dst mod a : Nat) : Int) =
         (if number src a < lo then lo else if hi < number src a then hi else number src a) % (2 ^ tyWidth dst : Nat)) ∧
     (tyFloat src = true → tyFloat dst = false → (tyFmt src).decode x = .nan → cvtOp dst mod a = 0) ∧
     (tyFloat src = true → tyFloat dst = true → (tyFmt src).decode x = .nan → cvtOp dst mod a % 2 ^ 32 % (2 * (tyFmt dst).signBit) = (tyFmt dst).qnan))

/-- CMP writes its condition to DST and the inverse to the second predicate, and does nothing else (02 Table 2-7, R86).
NOP issues and has no effect but that the strand goes on (02 R86). -/
def Obligations.CompareAndNopHaveOnlyTheirEffect : Prop :=
  (∀ (i : Issue) (s : State), Issues s.dev i 0x30 → Resident s.dev i.core →
     let w := i.word
     let n := tyWords (typeOf w)
     let second := fld (modOf w) 6 4
     let holds := fun (lane slot : Nat) => condHolds (modOf w % 16) (orderOf (typeOf w)
       (s.dev.rdVal i.core slot lane (srcaOf w) n) (s.dev.rdB i.core slot lane w n))
     ∃ t st, exec (.cmp i) s = .next t ∧ t.pending = s.pending ∧ Arrives s.dev i st ∧
       (∀ e ∈ writers (actives s.dev i st) (dstOf w), dstOf w ≠ 0xFF → (second = 7 ∨ dstOf w ≠ 0xC0 + second) →
         t.dev.readW i.core e.2 e.1 (dstOf w) = if holds e.1 e.2 then 1 else 0) ∧
       (second ≠ 7 → ∀ e ∈ actives s.dev i st, t.dev.readW i.core e.2 e.1 (0xC0 + second) = if holds e.1 e.2 then 0 else 1) ∧
       (∀ slot lane code, code < 0xC7 → ¬ Hit (writers (actives s.dev i st) (dstOf w)) (dstOf w) 1 slot lane code →
         (second = 7 ∨ ¬ Hit (actives s.dev i st) (0xC0 + second) 1 slot lane code) →
         t.dev.readW i.core slot lane code = s.dev.readW i.core slot lane code) ∧
       WentOn s.dev t.dev i st (st.pc + 8) ∧ RegisterFrame s.dev t.dev i.core) ∧
  (∀ (i : Issue) (s : State), Issues s.dev i 0 → Resident s.dev i.core →
     ∃ t st, exec (.nop i) s = .next t ∧ t.pending = s.pending ∧ Arrives s.dev i st ∧ WentOn s.dev t.dev i st (st.pc + 8) ∧
       RegisterFrame s.dev t.dev i.core ∧
       ∀ slot lane code, t.dev.readW i.core slot lane code = s.dev.readW i.core slot lane code)

/-- A word that is not legal, or has an operand that is not allowed, raises its job fault at issue: the fault sets out, the core
stops issuing, and nothing else changes. A reserved opcode is ILLEGAL_INSTRUCTION (02 R82, R87, R98).
LD, ST, ATOM and the lock instructions with an address that is not a multiple of their size in some active lane raise
MISALIGNED_ACCESS for the whole instruction, and no lane's access takes effect (02 R88). -/
def Obligations.IllegalAndMisalignedInstructionsFault : Prop :=
  ((∀ row ∈ integerRows ++ floatRows ++ transRows ++ moveRows ++ branchRows, ∀ (i : Issue) (s : State) (st : Strand) (code : Nat),
     s.dev.strand? i.core i.strand = some st → s.dev.canIssue i.core st = true → s.dev.mxHazard i.core st i.word = false →
     s.dev.fetchFail i.core st = none → opcOf i.word = row.1 → illegal (s.dev.strandRegs i.core st) i.word = some code →
       ∃ j, j.code = code ∧ j.index = i.core ∧ j.pc = st.pc ∧ j.group = (s.dev.group i.core (st.slots.headD 0)).index ∧
         exec (row.2 i) s = .next { s with dev :=
           { s.dev with
             faults := s.dev.faults ++ [j]
             cores := Tab.put s.dev.cores i.core { s.dev.core i.core with stopped := true } } }) ∧
   (∀ (i : Issue) (s : State) (st : Strand),
     s.dev.strand? i.core i.strand = some st → s.dev.canIssue i.core st = true → s.dev.mxHazard i.core st i.word = false →
     s.dev.fetchFail i.core st = none → opcodeDefined (opcOf i.word) = false →
       ∃ j, j.code = 2 ∧ j.index = i.core ∧ j.pc = st.pc ∧
         exec (.nop i) s = .next { s with dev :=
           { s.dev with
             faults := s.dev.faults ++ [j]
             cores := Tab.put s.dev.cores i.core { s.dev.core i.core with stopped := true } } })) ∧
  (∀ row ∈ memoryRows, ∀ (i : Issue) (s : State), Issues s.dev i row.1 → Resident s.dev i.core → (s.dev.core i.core).ops = [] →
     ∃ t st, exec (row.2 i) s = .next t ∧ t.pending = s.pending ∧ Arrives s.dev i st ∧
       ((∃ e ∈ actives s.dev i st, (accessOf s.dev i e).2.2 % (accessOf s.dev i e).2.1 ≠ 0) →
         Faulted s.dev t.dev i st 4 ∧ t.dev.mem = s.dev.mem ∧ (t.dev.core i.core).ls = (s.dev.core i.core).ls ∧
         (t.dev.core i.core).ops = []))

/-- Outside a matrix region a branch leaves every lane of the strand in one ready strand at the lane's next address, with
exactly those lanes that go there; CALL gives the lanes that branch the address of the next word; no other register changes
(02 R60).
Inside a matrix region a branch never splits the strand: the lanes that go where the lowest goes stay active, and those that do
not are deferred in one new entry of the divergence stack (02 R69, R70). -/
def Obligations.BranchesSplitTheStrandOrDeferLanes : Prop :=
  (∀ row ∈ branchRows, ∀ (i : Issue) (s : State), Issues s.dev i row.1 → Resident s.dev i.core → Numbered s.dev i.core →
     ∃ t st, exec (row.2 i) s = .next t ∧ t.pending = s.pending ∧ Arrives s.dev i st ∧
       (s.dev.inRegion i.core st = false →
         (∀ e ∈ st.lanes, ∃ k s', t.dev.strand? i.core k = some s' ∧ s'.pc = nextOf s.dev i st e % 2 ^ 48 ∧ s'.wait = .ready ∧
           ∀ f, f ∈ s'.lanes ↔ f ∈ st.lanes ∧ nextOf s.dev i st f = nextOf s.dev i st e) ∧
         (∀ k s', (s.dev.arrive i.core i.strand i.word).strand? i.core k = some s' → k ≠ i.strand →
           t.dev.strand? i.core k = some s')) ∧
       (row.1 = 0x42 → ∀ e ∈ actives s.dev i st, dstOf i.word < 0x80 →
         t.dev.rdVal i.core e.2 e.1 (dstOf i.word) 2 = (st.pc + 8) % 2 ^ 48) ∧
       (∀ slot lane code, code < 0xC7 →
         (row.1 = 0x42 → ¬ Hit (writers (actives s.dev i st) (dstOf i.word)) (dstOf i.word) 2 slot lane code) →
         t.dev.readW i.core slot lane code = s.dev.readW i.core slot lane code) ∧
       CoreSide s.dev t.dev ∧ OneCore i.core s.dev t.dev) ∧
  (∀ row ∈ branchRows, ∀ (i : Issue) (s : State), Issues s.dev i row.1 → Resident s.dev i.core →
     ∃ t st, exec (row.2 i) s = .next t ∧ t.pending = s.pending ∧ Arrives s.dev i st ∧
       (s.dev.inRegion i.core st = true → ∀ low ∈ st.lanes.head?,
         let stays := fun (e : Nat × Nat) => nextOf s.dev i st e = nextOf s.dev i st low
         ∃ s', t.dev.strand? i.core i.strand = some s' ∧ s'.pc = nextOf s.dev i st low % 2 ^ 48 ∧ s'.wait = .ready ∧
           (∀ e, e ∈ s'.lanes ↔ e ∈ st.lanes ∧ stays e) ∧
           ((∀ e ∈ st.lanes, stays e) → (regionGroup t.dev i.core st).stack = (regionGroup s.dev i.core st).stack) ∧
           ((∃ e ∈ st.lanes, ¬ stays e) → ∃ top, (regionGroup t.dev i.core st).stack = top :: (regionGroup s.dev i.core st).stack ∧
             top.tag = (if row.1 = 0x40 ∨ row.1 = 0x42 then srcaOf i.word else srccOf i.word) ∧
             (row.1 = 0x41 ∨ row.1 = 0x43 → top.resumePc = st.pc) ∧
             (row.1 = 0x40 ∨ row.1 = 0x42 → ∀ e ∈ st.lanes, ¬ stays e → top.resumePc = nextOf s.dev i st e) ∧
             (∀ k, k < 32 → (top.resumeMask.getLsbD k = true ↔ holdsLane st.lanes k ∧ ¬ holdsLane s'.lanes k)) ∧
             top.parked = 0 ∧ top.joinPc = none ∧ top.running = false)))

/-- JOIN in a matrix region follows the procedure of R70.
JOIN outside a matrix region merges the arriving strand with those that wait there; it goes on with 32 lanes and waits with
fewer. A strand whose window expires goes on alone (02 R63). -/
def Obligations.JoinMergesLanes : Prop :=
  (∀ (i : Issue) (s : State), Issues s.dev i 0x44 → Resident s.dev i.core →
     ∃ t st, exec (.join i) s = .next t ∧ t.pending = s.pending ∧ Arrives s.dev i st ∧
       (s.dev.inRegion i.core st = true → st.lanes ≠ [] → (∀ e ∈ st.lanes, e.1 < 32) → ∀ m, MaskOf m st.lanes →
         let r := regionJoin (srcaOf i.word) st.pc (regionGroup s.dev i.core st).stack m
         ∃ s', t.dev.strand? i.core i.strand = some s' ∧ s'.pc = r.2.1 % 2 ^ 48 ∧ s'.wait = .ready ∧ MaskOf r.2.2 s'.lanes ∧
           (regionGroup t.dev i.core st).stack = r.1) ∧
       SameRegisters s.dev t.dev i.core ∧ CoreSide s.dev t.dev ∧ OneCore i.core s.dev t.dev) ∧
  ((∀ (i : Issue) (s : State), Issues s.dev i 0x44 → Resident s.dev i.core →
     ∃ t st, exec (.join i) s = .next t ∧ t.pending = s.pending ∧ Arrives s.dev i st ∧
       (s.dev.inRegion i.core st = false → ∃ s', t.dev.strand? i.core i.strand = some s' ∧
         (s'.lanes.length = 32 ∧ s'.wait = .ready ∧ s'.pc = (st.pc + 8) % 2 ^ 48 ∨
          s'.lanes.length ≠ 32 ∧ s'.wait = .join ∧ s'.pc = st.pc) ∧
         (∀ e ∈ s'.lanes, e ∈ st.lanes ∨ ∃ k o, (s.dev.arrive i.core i.strand i.word).strand? i.core k = some o ∧
           o.wait = .join ∧ o.pc = st.pc ∧ e ∈ o.lanes ∧ t.dev.strand? i.core k = none) ∧
         (∀ e ∈ st.lanes, e ∈ s'.lanes) ∧ RegisterFrame s.dev t.dev i.core ∧ SameRegisters s.dev t.dev i.core)) ∧
   (∀ (core strand : Nat) (s : State) (st : Strand), s.dev.strand? core strand = some st → st.wait = .join →
     s.dev.running = true → (s.dev.core core).stopped = false →
     ∃ t, exec (.joinWindowExpiry core strand) s = .next t ∧ t.pending = s.pending ∧
       t.dev.strand? core strand = some { st with pc := (st.pc + 8) % 2 ^ 48, wait := .ready, backoff := 0 } ∧
       (∀ k, k ≠ strand → t.dev.strand? core k = s.dev.strand? core k) ∧
       RegisterFrame s.dev t.dev core ∧ SameRegisters s.dev t.dev core))

/-- GSYNC and MXBEGIN raise REGION_VIOLATION inside a matrix region. Outside, a strand with a group some other thread of which has
not reached a GSYNC waits; a strand that holds every thread of its one group goes on, by MXBEGIN when it has a matrix slot. The
guard has no effect (02 R67, R69, R73, R586; 03 R100).
A freed matrix slot goes to the group that has waited longest, which is then in its region (03 R100). MXEND outside a region,
or with a divergence stack that is not empty, raises REGION_VIOLATION; else, with no matrix instruction of the group left, it frees
the slot and ends the region (02 R73, 03 R101). -/
def Obligations.GroupsSynchroniseAndHoldMatrixSlots : Prop :=
  (∀ row ∈ [(0x4B, Instr.gsync, false), (0x46, Instr.mxbegin, true)], ∀ (i : Issue) (s : State),
     Issues s.dev i row.1 → Resident s.dev i.core → Numbered s.dev i.core →
     ∃ t st, exec (row.2.1 i) s = .next t ∧ t.pending = s.pending ∧ Arrives s.dev i st ∧
       (s.dev.inRegion i.core st = true → Faulted s.dev t.dev i st 5) ∧
       (s.dev.inRegion i.core st = false →
         ((∀ g ∈ st.slots, ∃ x ∈ (s.dev.arrive i.core i.strand i.word).strandsOf i.core g,
             x.1 ≠ i.strand ∧ isGsync x.2.wait = false) →
           t.dev.strand? i.core i.strand = some { st with wait := .gsync row.2.2 } ∧ SameRegisters s.dev t.dev i.core) ∧
         (∀ g, (s.dev.arrive i.core i.strand i.word).strandsOf i.core g = [(i.strand, st)] → Tab.wf st.lanes = true →
           (∀ e ∈ st.lanes, e.2 = g) → Tab.wf (s.dev.core i.core).strands = true →
           SameRegisters s.dev t.dev i.core ∧ ∃ s', t.dev.strand? i.core i.strand = some s' ∧ s'.lanes = st.lanes ∧
             (row.2.2 = false → s'.pc = (st.pc + 8) % 2 ^ 48 ∧ s'.wait = .ready) ∧
             (row.2.2 = true → (s.dev.core i.core).slotWait = [] →
               (∀ k, (s.dev.core i.core).freeSlot = some k →
                 s'.pc = (st.pc + 8) % 2 ^ 48 ∧ s'.wait = .ready ∧ (t.dev.group i.core g).inRegion = true ∧
                 (t.dev.group i.core g).slot = some k ∧ (t.dev.group i.core g).stack = [] ∧
                 ∃ m, Tab.get? (t.dev.core i.core).slots k = some m ∧ m.group = some g) ∧
               ((s.dev.core i.core).freeSlot = none →
                 s'.pc = st.pc ∧ s'.wait = .slot ∧ (t.dev.core i.core).slotWait = [g]))))) ∧
  ((∀ (core g k : Nat) (rest : List Nat) (s : State), s.dev.running = true → (s.dev.core core).stopped = false →
     (s.dev.core core).slotWait = g :: rest → (s.dev.core core).freeSlot = some k → Tab.has (s.dev.core core).groups g = true →
     ∃ t, exec (.mxSlotBind core) s = .next t ∧ t.pending = s.pending ∧ (t.dev.core core).slotWait = rest ∧
       (∃ m, Tab.get? (t.dev.core core).slots k = some m ∧ m.group = some g ∧ m.frags = [] ∧ m.acc = [] ∧ m.accInt = []) ∧
       (t.dev.group core g).inRegion = true ∧ (t.dev.group core g).slot = some k ∧ (t.dev.group core g).stack = [] ∧
       SameRegisters s.dev t.dev core ∧ CoreSide s.dev t.dev ∧ OneCore core s.dev t.dev) ∧
   (∀ (i : Issue) (s : State), Issues s.dev i 0x47 → Resident s.dev i.core →
     ∃ t st, exec (.mxend i) s = .next t ∧ t.pending = s.pending ∧ Arrives s.dev i st ∧
       (s.dev.inRegion i.core st = false ∨ (regionGroup s.dev i.core st).stack ≠ [] → Faulted s.dev t.dev i st 5) ∧
       (s.dev.inRegion i.core st = true → (regionGroup s.dev i.core st).stack = [] →
         (s.dev.core i.core).mxAll.any (fun m => m.group == st.slots.headD 0) = false →
         (∀ x ∈ (s.dev.core i.core).strands, x.2.wait ≠ .mxEnd) →
         t.dev.strand? i.core i.strand = some { st with pc := (st.pc + 8) % 2 ^ 48, wait := .ready, backoff := 0 } ∧
         (regionGroup t.dev i.core st).inRegion = false ∧ (regionGroup t.dev i.core st).slot = none ∧
         (∀ k, (regionGroup s.dev i.core st).slot = some k → Tab.get? (t.dev.core i.core).slots k = none) ∧
         SameRegisters s.dev t.dev i.core ∧ CoreSide s.dev t.dev)))

/-- EXIT takes the active lanes out: a strand with lanes left goes on without them; outside a matrix region a group whose last
threads exit ends, and its launch has one group fewer; inside, when every lane exits, the top of the divergence stack says who runs
next (02 R70, Table 2-8).
ILKB of a lane that belongs to no pixel, or holds its interlock, and ILKE of one that does not hold it, raise RENDER_STATE. A lane takes
its interlock once every earlier fragment of its pixel has released, and waits before; ILKE releases after the lane's own accesses (11 R399,
R400). -/
def Obligations.ThreadsExitAndInterlock : Prop :=
  (∀ (i : Issue) (s : State), Issues s.dev i 0x45 → Resident s.dev i.core → Numbered s.dev i.core →
     Tab.wf (s.dev.core i.core).strands = true →
     ∃ t st, exec (.exit i) s = .next t ∧ t.pending = s.pending ∧ Arrives s.dev i st ∧
       let act := actives s.dev i st
       ((∃ e ∈ st.lanes, e ∉ act) → (∀ e ∈ st.lanes, e.2 ∉ (s.dev.core i.core).slotWait) → ∃ s', t.dev.strand? i.core i.strand = some s' ∧ s'.pc = (st.pc + 8) % 2 ^ 48 ∧ s'.wait = .ready ∧
         (∀ e, e ∈ s'.lanes ↔ e ∈ st.lanes ∧ e ∉ act) ∧
         ∀ e ∈ act, e.1 < 32 → (∃ f ∈ s'.lanes, f.2 = e.2) → (t.dev.group i.core e.2).exited.getLsbD e.1 = true) ∧
       (∀ g, s.dev.inRegion i.core st = false → st.lanes = act →
         (s.dev.arrive i.core i.strand i.word).strandsOf i.core g = [(i.strand, st)] → (∀ e ∈ st.lanes, e.2 = g) →
         (s.dev.group i.core g).stack = [] →
         t.dev.strand? i.core i.strand = none ∧ Tab.get? (t.dev.core i.core).groups g = none ∧
         (t.dev.launch (s.dev.group i.core g).launch).live = (s.dev.launch (s.dev.group i.core g).launch).live - 1) ∧
       (∀ top rest pc, s.dev.inRegion i.core st = true → st.lanes = act →
         (s.dev.core i.core).mxAll.any (fun m => m.group == st.slots.headD 0) = false → (∀ e ∈ st.lanes, e.2 = st.slots.headD 0) →
         (regionGroup s.dev i.core st).stack = top :: rest → (regionExit top).1 = some pc → (regionExit top).2 ≠ 0 →
         ∃ s', t.dev.strand? i.core i.strand = some s' ∧ s'.pc = pc % 2 ^ 48 ∧ s'.wait = .ready ∧
           MaskOf (regionExit top).2 s'.lanes ∧ (regionGroup t.dev i.core st).stack = rest)) ∧
  ((∀ (i : Issue) (s : State), Issues s.dev i 0x6E → Resident s.dev i.core →
     ∃ t st, exec (.ilkb i) s = .next t ∧ t.pending = s.pending ∧ Arrives s.dev i st ∧
       (let act := actives s.dev i st
        let held := fun (d : Dev) (e : Nat × Nat) => (d.group i.core e.2).held.getLsbD e.1
        ((∃ e ∈ act, s.dev.isPixel i.core e.2 = false ∨ held s.dev e = true) → Faulted s.dev t.dev i st 0x0E) ∧
        (Tab.wf st.lanes = true → (∀ e ∈ act, s.dev.isPixel i.core e.2 = true ∧ held s.dev e = false ∧ s.dev.ilkBlocked i.core e = false) →
          WentOn s.dev t.dev i st (st.pc + 8) ∧ SameRegisters s.dev t.dev i.core ∧ CoreSide s.dev t.dev ∧ OneCore i.core s.dev t.dev ∧
          (∀ e ∈ act, e.1 < 32 → held t.dev e = true) ∧ (∀ e, e ∉ act → e.1 < 32 → held t.dev e = held s.dev e)) ∧
        (∀ e, st.lanes = [e] → act = [e] → s.dev.isPixel i.core e.2 = true → held s.dev e = false → s.dev.ilkBlocked i.core e = true →
          t.dev.strand? i.core i.strand = some { st with wait := .op i.word [e.1] [] } ∧ held t.dev e = false ∧
          SameRegisters s.dev t.dev i.core))) ∧
   (∀ (s : State) (core strand : Nat) (st : Strand) (w : BitVec 64) (e : Nat × Nat), s.dev.running = true →
     (s.dev.core core).stopped = false → s.dev.strand? core strand = some st → st.wait = .op w [e.1] [] → opcOf w = 0x6E →
     st.lanes = [e] → e.1 < 32 →
     (s.dev.ilkBlocked core e = true → exec (.ilkGrant core strand) s = .next s) ∧
     (s.dev.ilkBlocked core e = false → ∃ t, exec (.ilkGrant core strand) s = .next t ∧ t.pending = s.pending ∧
       GoesOn t.dev core strand st ∧ (t.dev.group core e.2).held.getLsbD e.1 = true ∧ SameRegisters s.dev t.dev core ∧
       CoreSide s.dev t.dev ∧ OneCore core s.dev t.dev)) ∧
   (∀ (i : Issue) (s : State), Issues s.dev i 0x6F → Resident s.dev i.core →
     ∃ t st, exec (.ilke i) s = .next t ∧ t.pending = s.pending ∧ Arrives s.dev i st ∧
       (let act := actives s.dev i st
        let held := fun (d : Dev) (e : Nat × Nat) => (d.group i.core e.2).held.getLsbD e.1
        ((∃ e ∈ act, s.dev.isPixel i.core e.2 = false ∨ held s.dev e = false) → Faulted s.dev t.dev i st 0x0E) ∧
        ((∀ e ∈ act, s.dev.isPixel i.core e.2 = true ∧ held s.dev e = true) →
          ((∃ o ∈ (s.dev.core i.core).ops, (o.2.lane, o.2.group) ∈ act) → t = s) ∧
          ((∀ o ∈ (s.dev.core i.core).ops, (o.2.lane, o.2.group) ∉ act) →
            WentOn s.dev t.dev i st (st.pc + 8) ∧ SameRegisters s.dev t.dev i.core ∧ CoreSide s.dev t.dev ∧ OneCore i.core s.dev t.dev ∧
            (∀ e ∈ act, held t.dev e = false ∧ (e.1 < 32 → (t.dev.group i.core e.2).released.getLsbD e.1 = true)) ∧
            (∀ e, e ∉ act → held t.dev e = held s.dev e))))))

/-! ### The matrix engine (03) -/

/-- A matrix instruction outside a matrix region raises REGION_VIOLATION; inside, one that takes its operands from registers and its
slot is accepted into the queue with its active mask, and its strand goes on (02 R73; 03 R128-R131, R138).
MX_PIPE_START takes a queued instruction to its free pipe, MMA to the multiply pipe and the others to the transfer pipe.
MX_INSTRUCTION_COMPLETE gives MZERO, MMA and a raw MLD from registers their effect on the slot's active rows and leaves every other
row of the tile alone (03 R128, R130, R131, R136, R138; 02 R72). -/
def Obligations.MatrixInstructionsAreQueuedAndRun : Prop :=
  (∀ row ∈ matrixRows, ∀ (i : Issue) (s : State), Issues s.dev i row.1 → Resident s.dev i.core →
     ∃ t st, exec (row.2 i) s = .next t ∧ t.pending = s.pending ∧ Arrives s.dev i st ∧
       (s.dev.inRegion i.core st = false → Faulted s.dev t.dev i st 5) ∧
       (s.dev.inRegion i.core st = true → (s.dev.core i.core).mxQueue.length < 8 → RegisterForm s.dev i st →
         WentOn s.dev t.dev i st (st.pc + 8) ∧ SameRegisters s.dev t.dev i.core ∧ CoreSide s.dev t.dev ∧
         ∃ m, (t.dev.core i.core).mxQueue = (s.dev.core i.core).mxQueue ++ [m] ∧ m.word = i.word ∧ m.pc = st.pc ∧
           m.group = st.slots.headD 0 ∧ some m.slot = (regionGroup s.dev i.core st).slot.or (some 0) ∧
           (∀ k, k < 32 → (m.mask.getLsbD k = true ↔ holdsLane (actives s.dev i st) k)) ∧
           (row.1 = 0x70 → ∀ e ∈ actives s.dev i st,
             (e.1, MxRow.value (s.dev.readN i.core e.2 e.1 (srcaOf i.word) (ceilDiv (mldBytes (subOf i.word)) 4) %
               2 ^ (8 * mldBytes (subOf i.word)))) ∈ m.rows)) ∧
       (s.dev.inRegion i.core st = true → 8 ≤ (s.dev.core i.core).mxQueue.length → RegisterForm s.dev i st → row.1 ≠ 0x71 → t = s)) ∧
  ((∀ (s : State) (core k : Nat) (m : MxInsn), (s.dev.core core).mxQueue[k]? = some m → s.dev.running = true →
     (s.dev.core core).stopped = false → (if onMul m.word then (s.dev.core core).mxMul else (s.dev.core core).mxXfer) = none →
     (∀ a ∈ (s.dev.core core).mxQueue.take k, onMul a.word ≠ onMul m.word) → (s.dev.core core).mxRaw m = false →
     s.dev.mxBad core m = false →
     ∃ t, exec (.mxPipeStart core k) s = .next t ∧ t.pending = s.pending ∧
       (t.dev.core core).mxQueue = (s.dev.core core).mxQueue.eraseIdx k ∧
       (t.dev.core core).mxMul = (if onMul m.word then some m else (s.dev.core core).mxMul) ∧
       (t.dev.core core).mxXfer = (if onMul m.word then (s.dev.core core).mxXfer else some m) ∧
       (t.dev.core core).slots = (s.dev.core core).slots ∧ CoreSide s.dev t.dev ∧ OneCore core s.dev t.dev) ∧
   (∀ (s : State) (core : Nat) (mul : Bool) (order : List Nat) (m : MxInsn) (x : MxSlot),
     (if mul then (s.dev.core core).mxMul else (s.dev.core core).mxXfer) = some m → s.dev.running = true →
     (s.dev.core core).stopped = false → (s.dev.core core).mxWar m = false → Tab.get? (s.dev.core core).slots m.slot = some x →
     (∀ e ∈ (s.dev.core core).strands, e.2.wait ≠ .mxEnd) →
     (opcOf m.word = 0x73 ∨ opcOf m.word = 0x72 → ∃ t x', exec (.mxInstructionComplete core mul order) s = .next t ∧
       t.pending = s.pending ∧ (if mul then (t.dev.core core).mxMul else (t.dev.core core).mxXfer) = none ∧
       Tab.get? (t.dev.core core).slots m.slot = some x' ∧ x'.frags = x.frags ∧
       (let a := if opcOf m.word = 0x73 then fld (subOf m.word) 15 15 else fld (subOf m.word) 11 11
        ∀ i j, i < 32 → j < 32 →
         x'.accAt a i j =
           if m.mask.getLsbD i = true then
             (if opcOf m.word = 0x73 then 0 else mmaElem x (subOf m.word) m.mask order i j % 2 ^ 32)
           else x.accAt a i j) ∧
       (opcOf m.word = 0x73 → Tab.get x'.accInt (fld (subOf m.word) 15 15) false = (subOf m.word).testBit 14) ∧
       (∀ n, n ≠ m.slot → Tab.get? (t.dev.core core).slots n = Tab.get? (s.dev.core core).slots n) ∧
       CoreSide s.dev t.dev ∧ OneCore core s.dev t.dev) ∧
     (opcOf m.word = 0x70 → fld (subOf m.word) 11 8 = fld (subOf m.word) 15 12 → (subOf m.word).testBit 3 = true → m.scales = [] →
       ∀ lane v, m.rows = [(lane, .value v)] →
       ∃ t x', exec (.mxInstructionComplete core mul order) s = .next t ∧ t.pending = s.pending ∧
         Tab.get? (t.dev.core core).slots m.slot = some x' ∧ x'.row (fld (subOf m.word) 7 6) lane = v % 2 ^ 512 ∧
         (x'.frag (fld (subOf m.word) 7 6)).tag =
           some (fld (subOf m.word) 15 12, (subOf m.word).testBit 4, (subOf m.word).testBit 5) ∧
         x'.acc = x.acc ∧ (∀ k l, k ≠ fld (subOf m.word) 7 6 ∨ l ≠ lane → x'.row k l = x.row k l) ∧
         CoreSide s.dev t.dev ∧ OneCore core s.dev t.dev)))

/-! ### Memory instructions (02 R88, R93-R97; 04) -/

/-- One lane's LD, ST, ATOM, LCK.ACQ, LCK.TRY or LCK.REL of local store or tile memory, with no earlier operation of the core
outstanding: the old value is answered, the new one stored, and no other byte changes. LCK.ACQ goes on where the word was 0, and
else backs off 16 a-cycles, doubling to at most 64 (02 R93-R95; 04 R171, R587). -/
def Obligations.OnchipAccessesTakeEffect : Prop :=
  ∀ row ∈ memoryRows, ∀ (i : Issue) (s : State), Issues s.dev i row.1 → Resident s.dev i.core → (s.dev.core i.core).ops = [] →
    TilesOk s.dev →
    ∃ t st, exec (row.2 i) s = .next t ∧ t.pending = s.pending ∧ Arrives s.dev i st ∧
      (∀ e, actives s.dev i st = [e] → Tab.wf st.lanes = true →
        let a := accessOf s.dev i e
        a.2.2 % a.2.1 = 0 → isOnchip a.2.2 = true →
        ∀ p, s.dev.onchipPlace i.core e.2 a.2.2 a.2.1 a.1.acc.needsW = some p →
          let old := leNat (s.dev.onchipRead i.core (s.dev.group i.core e.2).launch a.2.1 p)
          Accessed s.dev t.dev i e p ∧ OnchipSide s.dev t.dev ∧ OneCore i.core s.dev t.dev ∧
          (row.1 = 0x50 → dstOf i.word < 0x80 →
            t.dev.readN i.core e.2 e.1 (dstOf i.word) (resultWords i.word) = old) ∧
          (row.1 = 0x52 → (subOf i.word).testBit 9 = true → dstOf i.word < 0x80 →
            t.dev.rdVal i.core e.2 e.1 (dstOf i.word) (resultWords i.word) = old) ∧
          (row.1 = 0x49 → dstOf i.word < 0xC7 → t.dev.readW i.core e.2 e.1 (dstOf i.word) = if old = 0 then 1 else 0) ∧
          (∀ slot lane code, code < 0xC7 →
            (row.1 = 0x49 → ¬ Hit [e] (dstOf i.word) 1 slot lane code) →
            (row.1 = 0x50 ∨ row.1 = 0x52 → ¬ Hit [e] (dstOf i.word) (resultWords i.word) slot lane code) →
            t.dev.readW i.core slot lane code = s.dev.readW i.core slot lane code) ∧
          (row.1 ≠ 0x48 ∨ old = 0 → WentOn s.dev t.dev i st (st.pc + 8)) ∧
          (row.1 = 0x48 → old ≠ 0 → ∃ s', t.dev.strand? i.core i.strand = some s' ∧ s'.wait = .backoff i.word 0 ∧
            s'.pc % 2 ^ 48 = st.pc % 2 ^ 48 ∧ e ∈ s'.lanes ∧
            s'.backoff = min 64 (if st.backoff = 0 then 16 else 2 * st.backoff)))

/-- LCK_RETRY: a strand of one lane that backed off tries again; where its word is 0 it takes the lock and goes on, else the
back-off doubles to at most 64 a-cycles (02 R94). CORE_WATCHDOG: a group that has retired nothing for 2,000,000 a-cycles faults with
its index and the program counter of the strand that holds its lowest lane (02 R97). -/
def Obligations.RetriesAndWatchdogs : Prop :=
  (∀ (s : State) (core strand : Nat) (st : Strand) (w : BitVec 64) (e : Nat × Nat) (p : Place),
    let i : Issue := { core := core, strand := strand, word := w }
    let a := accessOf s.dev i e
    s.dev.running = true → (s.dev.core core).stopped = false → (s.dev.core core).ops = [] → TilesOk s.dev →
    s.dev.strand? core strand = some st → st.wait = .backoff w 0 → opcOf w = 0x48 → st.lanes = [e] →
    s.dev.active core st w = [e] → Tab.has (s.dev.core core).groups e.2 = true → a.2.2 % 4 = 0 → isOnchip a.2.2 = true →
    s.dev.onchipPlace core e.2 a.2.2 4 true = some p →
      let old := leNat (s.dev.onchipRead core (s.dev.group core e.2).launch 4 p)
      ∃ t, exec (.lckRetry core strand) s = .next t ∧ t.pending = s.pending ∧ Accessed s.dev t.dev i e p ∧
        OnchipSide s.dev t.dev ∧ OneCore core s.dev t.dev ∧ SameRegisters s.dev t.dev core ∧
        (old = 0 → t.dev.strand? core strand = some { st with pc := (st.pc + 8) % 2 ^ 48, wait := .ready, backoff := 0 }) ∧
        (old ≠ 0 → t.dev.strand? core strand =
          some { st with wait := .backoff w 0, backoff := min 64 (if st.backoff = 0 then 16 else 2 * st.backoff) })) ∧
  (∀ (s : State) (core group : Nat) (g : Group) (k : Nat) (st : Strand) (low : Nat × Nat),
    s.dev.running = true → (s.dev.core core).stopped = false → Tab.get? (s.dev.core core).groups group = some g →
    2000000 ≤ g.watch → Tab.wf (s.dev.core core).strands = true → (k, st) ∈ (s.dev.core core).strands → low ∈ st.lanes →
    low.2 = group → (∀ x ∈ (s.dev.core core).strands, ∀ e ∈ x.2.lanes, e.2 = group → low.1 < e.1 ∨ x.1 = k ∧ low.1 ≤ e.1) →
    ∃ t j, exec (.coreWatchdog core group) s = .next t ∧ t = { s with dev :=
        { s.dev with
          faults := s.dev.faults ++ [j]
          cores := Tab.put s.dev.cores core { s.dev.core core with stopped := true } } } ∧
      j.code = 6 ∧ j.index = core ∧ j.pc = st.pc ∧ j.group = g.index)

/-- FENCE of core scope, an acquire, or one whose groups have no access outstanding, goes on at once; a release of a wider scope
waits for exactly those accesses (04 R170). CFLUSH and CINV by one lane of an on-chip address only go on; of a line of device
memory to which the core has no access outstanding, at core scope, CFLUSH leaves the line clean in the purse and CINV leaves the purse without it (04 R172). -/
def Obligations.FencesAndCacheOperations : Prop :=
  (∀ (i : Issue) (s : State), Issues s.dev i 0x53 → Resident s.dev i.core →
    ∃ t st, exec (.fence i) s = .next t ∧ t.pending = s.pending ∧ Arrives s.dev i st ∧
      RegisterFrame s.dev t.dev i.core ∧ SameRegisters s.dev t.dev i.core ∧
      let waits := fun (id : Nat) => ∃ o, (id, o) ∈ (s.dev.core i.core).ops ∧ ∃ e ∈ actives s.dev i st, e.2 = o.group
      ((fld (subOf i.word) 7 6 = 1 ∨ fld (subOf i.word) 5 4 = 0 ∨ ∀ id, ¬ waits id) → WentOn s.dev t.dev i st (st.pc + 8)) ∧
      (fld (subOf i.word) 7 6 ≠ 1 → fld (subOf i.word) 5 4 ≠ 0 → (∃ id, waits id) → ∃ left,
        t.dev.strand? i.core i.strand = some { st with wait := .fence left (fld (subOf i.word) 5 4 == 3) } ∧
        ∀ id, id ∈ left ↔ waits id)) ∧
  (∀ row ∈ [(0x54, Instr.cflush), (0x55, Instr.cinv)], ∀ (i : Issue) (s : State), Issues s.dev i row.1 → Resident s.dev i.core →
    ∃ t st, exec (row.2 i) s = .next t ∧ t.pending = s.pending ∧ Arrives s.dev i st ∧
      (∀ e, actives s.dev i st = [e] →
        let dva := s.dev.laneAddr i.core e.2 e.1 i.word (offsetOf i.word)
        (isOnchip dva = true → (s.dev.onchipPlace i.core e.2 dva 1 true).isSome = true →
          WentOn s.dev t.dev i st (st.pc + 8) ∧ RegisterFrame s.dev t.dev i.core ∧ SameRegisters s.dev t.dev i.core) ∧
        (∀ pa attr d', isOnchip dva = false → ordOf i.word % 4 = 0 →
          (∀ o ∈ (s.dev.core i.core).ops, o.2.line ≠ pa / 128) →
          (s.dev.arrive i.core i.strand i.word).translate (s.dev.strandCtx i.core st) dva .maint = (.ok (pa, attr), d') →
          d'.core i.core = (s.dev.arrive i.core i.strand i.word).core i.core →
          WentOn s.dev t.dev i st (st.pc + 8) ∧
          (row.1 = 0x55 → Tab.get? (t.dev.core i.core).l1 (pa / 128) = none) ∧
          (row.1 = 0x54 → ∀ l, Tab.get? (s.dev.core i.core).l1 (pa / 128) = some l →
            Tab.get? (t.dev.core i.core).l1 (pa / 128) = some { l with st := if l.st = .m then .e else l.st }))))

/-! ### The vault, the directory and DRAM (04, 17) -/

/-- DIR_READ_MISS and DIR_WRITE_MISS of a line that the vault holds: with no copy elsewhere the core is granted E (S for a
write-through page), or M, with the vault's data on its way; another owner is sent a forward, and other sharers invalidations, and
nothing else changes until they answer (04 R163, Table 4-9).
DIR_WT_STORE: a store performed at its home slice waits until every purse copy is invalidated; with none it is written there
and answered. NON_CORE_READ and NON_CORE_WRITE of a line with nothing in progress read and write the vault's line (04 R163). -/
def Obligations.HomeSlicesServeCoresAndUnits : Prop :=
  (∀ (s : State) (core line : Nat) (m : Miss),
     (NewMiss s.dev core line m false →
       (s.dev.dirOf line = none → DirRoom s.dev line → Tab.has (s.dev.core core).l1 line = false →
         ∀ v, Tab.get? s.dev.mem.vault line = some v →
         ∃ t, exec (.dirReadMiss core line) s = .next t ∧ t.pending = s.pending ∧
           t.dev.dirOf line = some (if m.attr = 1 then .sp [core] else .x core) ∧
           (∃ r ∈ t.dev.mem.resps, r.core = core ∧ r.line = line ∧ r.grant = some (if m.attr = 1 then .s else .e) ∧
             r.data = v.data ∧ r.poison = v.poison ∧ r.op = none) ∧
           Tab.get? (t.dev.core core).misses line = some { m with granted := true } ∧ t.dev.mem.vault = s.dev.mem.vault ∧
           t.dev.mem.dram = s.dev.mem.dram) ∧
       (∀ o, s.dev.dirOf line = some (.x o) → o ≠ core →
         exec (.dirReadMiss core line) s =
           .next (withDev s (withTxn s.dev line (opened (.read core) [] (some o)))))) ∧
     (NewMiss s.dev core line m true →
       ((s.dev.sharersOf line).filter (fun c => c != core) = [] → DirRoom s.dev line →
         ∀ v, Tab.get? s.dev.mem.vault line = some v →
         ∃ t, exec (.dirWriteMiss core line) s = .next t ∧ t.pending = s.pending ∧ t.dev.dirOf line = some (.x core) ∧
           (∃ r ∈ t.dev.mem.resps, r.core = core ∧ r.line = line ∧ r.grant = some .m ∧ r.op = none ∧
             (Tab.has (s.dev.core core).l1 line = false → r.data = v.data ∧ r.poison = v.poison)) ∧
           Tab.get? (t.dev.core core).misses line = some { m with granted := true } ∧ t.dev.mem.vault = s.dev.mem.vault) ∧
       ((s.dev.sharersOf line).filter (fun c => c != core) ≠ [] →
         exec (.dirWriteMiss core line) s = .next (withDev s
           (withTxn s.dev line (opened (.write core) ((s.dev.sharersOf line).filter (fun c => c != core)) none)))))) ∧
  ((∀ (s : State) (core k : Nat) (o : MemOp) (x : Nat), Tab.get? (s.dev.core core).ops k = some o → o.atHome = true →
     o.kind = .store x → (s.dev.core core).opClear k o = true → Tab.get? s.dev.mem.txns o.line = none →
     (∀ r ∈ s.dev.mem.resps, ¬ (r.core = core ∧ r.op = some k)) →
     (s.dev.sharersOf o.line ≠ [] → exec (.dirWtStore core k) s = .next (withDev s
       (withTxn s.dev o.line (opened (.op core k) (s.dev.sharersOf o.line) none)))) ∧
     (s.dev.sharersOf o.line = [] → ∀ v, Tab.get? s.dev.mem.vault o.line = some v →
       ∃ t, exec (.dirWtStore core k) s = .next t ∧ t.pending = s.pending ∧ t.dev.dirOf o.line = none ∧
         (∃ v', Tab.get? t.dev.mem.vault o.line = some v' ∧
           v'.data = mergeLine o.mask v.data (lineSet 0 o.off (toLe o.size x)) ∧ v'.way = v.way) ∧
         (∃ r ∈ t.dev.mem.resps, r.core = core ∧ r.line = o.line ∧ r.op = some k ∧ r.grant = none) ∧
         t.dev.cores = s.dev.cores)) ∧
   (∀ (s : State) (req line : Nat) (v : VLine), req ≤ 36 → line < 2 ^ 41 → s.dev.running = true → Quiet s.dev line →
     Tab.get? s.dev.mem.vault line = some v →
     (∃ t, exec (.nonCoreRead req line) s = .next t ∧ t = { s with dev := { s.dev with aud := t.dev.aud } } ∧
       Tab.get t.dev.aud.count (0x68000 + 64 * s.dev.sliceOf line) 0 =
         (Tab.get s.dev.aud.count (0x68000 + 64 * s.dev.sliceOf line) 0 + 1) % 2 ^ 48) ∧
     (∀ mask data, ∃ t, exec (.nonCoreWrite req line mask data) s = .next t ∧ t.pending = s.pending ∧
       Tab.get? t.dev.mem.vault line = some { v with data := mergeLine mask v.data data, poison := mergePoison mask v.poison 0,
                                                     dirty := true } ∧
       (∀ l, l ≠ line → Tab.get? t.dev.mem.vault l = Tab.get? s.dev.mem.vault l) ∧ t.dev.mem.dram = s.dev.mem.dram ∧
       t.dev.mem.host = s.dev.mem.host ∧ t.dev.cores = s.dev.cores)))

/-- A purse takes an invalidation by dropping its copy, a write's former owner giving its data; it takes a forward by keeping S; a
line on its way out reaches its slice. DIR_ACK ends a transaction when nothing is awaited, granting its request, and else does
nothing (04 R163, R164).
MEMORY_RESPONSE: a granted line arrives in the purse with its data and its miss ends; the answer of the one operation outstanding ends it, and the
load that waited for it writes its lane's register (04 R163, R177, R587). -/
def Obligations.PursesAnswerAndAreAnswered : Prop :=
  ((∀ (s : State) (core line : Nat) (x : Txn) (l : L1Line), s.dev.grantInFlight core line = false →
     Tab.get? s.dev.mem.txns line = some x → Tab.get? (s.dev.core core).l1 line = some l →
     (x.inv.contains core = true → ∃ t x', exec (.invalidationAtCore core line) s = .next t ∧ t.pending = s.pending ∧
       Tab.get? (t.dev.core core).l1 line = none ∧ Tab.get? t.dev.mem.txns line = some x' ∧ x'.inv = x.inv.erase core ∧
       (∀ w, x.req = .write w → x'.data = if l.st = .s then x.data else some (l.data, l.poison)) ∧
       (∀ j, j ≠ line → Tab.get? (t.dev.core core).l1 j = Tab.get? (s.dev.core core).l1 j)) ∧
     (x.fwd = some core → (s.dev.dirOf line).isSome = true → ∃ t, exec (.forwardAtCore core line) s = .next t ∧
       t.pending = s.pending ∧ Tab.get? (t.dev.core core).l1 line = some { l with st := .s } ∧
       Tab.get? t.dev.mem.txns line = some { x with fwd := none } ∧ t.dev.dirOf line = some (.sp [core]))) ∧
   (∀ (s : State) (core line : Nat) (l : L1Line) (v : VLine), Tab.get? (s.dev.core core).leaving line = some l →
     Tab.get? s.dev.mem.vault line = some v → ∃ t, exec (.purseEvict core line) s = .next t ∧ t.pending = s.pending ∧
       Tab.get? (t.dev.core core).leaving line = none ∧
       (s.dev.dirOf line = some (.x core) → t.dev.dirOf line = none) ∧
       (∃ v', Tab.get? t.dev.mem.vault line = some v' ∧
         v'.data = if l.st = .m then mergeLine fullMask v.data l.data else v.data)) ∧
   (∀ (s : State) (line : Nat) (x : Txn), Tab.get? s.dev.mem.txns line = some x →
     (¬ (x.inv = [] ∧ x.fwd = none ∧ x.wb = none) → exec (.dirAck line) s = .next s) ∧
     (x.inv = [] → x.fwd = none → x.wb = none → x.queue = [] → ∀ core m, x.req = .write core →
       Tab.get? (s.dev.core core).misses line = some m → DirRoom s.dev line →
       ∃ t, exec (.dirAck line) s = .next t ∧ t.pending = s.pending ∧ t.dev.dirOf line = some (.x core) ∧
         Tab.get? t.dev.mem.txns line = none ∧ Tab.get? (t.dev.core core).misses line = some { m with granted := true }))) ∧
  (∀ (s : State) (core line : Nat) (r : Resp) (rest : List Resp), takeResp core line s.dev.mem.resps = some (r, rest) →
     r.core = core → r.line = line →
     (∀ g, r.op = none → r.grant = some g → (s.dev.core core).ops = [] → Tab.get? (s.dev.core core).l1 line = none →
       ∃ t l, exec (.memoryResponse core line .clean) s = .next t ∧ t.pending = s.pending ∧ t.dev.mem.resps = rest ∧
         Tab.get? (t.dev.core core).l1 line = some l ∧ l.st = g ∧ l.data = r.data ∧ l.poison = r.poison ∧
         Tab.get? (t.dev.core core).misses line = none ∧ SameRegisters s.dev t.dev core) ∧
     (∀ id o k st w, r.op = some id → (s.dev.core core).ops = [(id, o)] → o.consumes r.poison = none →
       (s.dev.core core).strands = [(k, st)] → st.wait = .op w [id] [] → opcOf w = 0x50 → st.lanes = [(o.lane, o.group)] →
       Tab.has (s.dev.core core).groups o.group = true → dstOf w < 0x80 → Machine.sizeOf w ≤ 2 →
       ∃ t, exec (.memoryResponse core line .clean) s = .next t ∧ t.pending = s.pending ∧ t.dev.mem.resps = rest ∧
         Tab.get? (t.dev.core core).ops id = none ∧ t.dev.readW core o.group o.lane (dstOf w) = r.value % 2 ^ 32 ∧
         t.dev.strand? core k = some { st with pc := (st.pc + 8) % 2 ^ 48, wait := .ready, backoff := 0 } ∧
         CoreSide { s.dev with mem := { s.dev.mem with resps := rest } } t.dev ∧ OneCore core s.dev t.dev))

/-- VAULT_FILL of a DRAM line ends its miss register and answers the purse that waited; a next-line prefetch whose line is present is
dropped and counted, and else fills; a scrub of the vault moves on and discards a clean line it finds uncorrectable (04 R152, R154,
R181).
DRAM_READ only counts; DRAM_WRITE and DRAM_PARTIAL_WRITE leave the bytes that the mask names and keep every other byte of DRAM;
DRAM_REFRESH takes the channel's next bank; DRAM_SCRUB without errors moves to the channel's next block and, after its last, ends a
sweep (17 R541, R545, R546, R550). -/
def Obligations.VaultAndMemoryControllersMoveLines : Prop :=
  ((∀ (s : State) (line core : Nat) (m : MissReg) (g : L1State), Tab.get? s.dev.mem.missRegs line = some m →
     m.waiters = [.grant core g] → line < 2 ^ 40 → Tab.get? s.dev.mem.vault line = none → s.dev.heldBudget (s.dev.rqOf m.req).part false = false →
     ∃ t r, exec (.vaultFill line .clean) s = .next t ∧ t.pending = s.pending ∧ Tab.get? t.dev.mem.missRegs line = none ∧
       t.dev.mem.resps = s.dev.mem.resps ++ [r] ∧ r.core = core ∧ r.line = line ∧ r.grant = some g ∧
       r.data = s.dev.dramLine line ∧ r.op = none ∧ t.dev.cores = s.dev.cores) ∧
   (∀ (s : State) (k : Nat) (p : Prefetch), s.dev.mem.prefetches[k]? = some p → p.line < 2 ^ 40 →
     ∃ t, exec (.nextLinePrefetch k) s = .next t ∧ t.pending = s.pending ∧
       t.dev.mem.prefetches = s.dev.mem.prefetches.eraseIdx k ∧ t.dev.cores = s.dev.cores ∧
       (Tab.has s.dev.mem.vault p.line = true → t.dev.mem.vault = s.dev.mem.vault ∧ t.dev.mem.dram = s.dev.mem.dram) ∧
       (s.dev.mem.vault = [] → s.dev.mem.missRegs = [] → s.dev.allocMask p.req ≠ 0 →
         ∃ v, Tab.get? t.dev.mem.vault p.line = some v ∧ v.data = s.dev.dramLine p.line ∧ v.dirty = false)) ∧
   (∀ (s : State) (slice : Nat), slice < 64 → s.dev.plan.slices.getLsbD slice = true →
     let n := Tab.get s.dev.mem.scrub slice 0
     exec (.sliceScrub slice .clean) s = .next { s with dev := { s.dev with mem :=
       { s.dev.mem with scrub := Tab.put s.dev.mem.scrub slice ((n + 1) % 32768) } } } ∧
     ∀ e, (s.dev.setLines slice (n / 16)).find? (fun e => e.2.way == n % 16) = some e → ∀ v, Tab.get? s.dev.mem.vault e.1 = some v →
       ∃ t, exec (.sliceScrub slice .uncorrectable) s = .next t ∧ t.pending = s.pending ∧
         Tab.get t.dev.mem.scrub slice 0 = (n + 1) % 32768 ∧
         (v.dirty = false → Tab.get? t.dev.mem.vault e.1 = none) ∧
         (v.dirty = true → Tab.get? t.dev.mem.vault e.1 = some { v with poison := allPoison }))) ∧
  ((∀ (s : State) (line : Nat), s.dev.dramLineOk line = true →
     (∃ t, exec (.dramRead line .clean) s = .next t ∧ t = { s with dev := { s.dev with aud := t.dev.aud } } ∧
       Tab.get t.dev.aud.count 0x6A040 0 = (Tab.get s.dev.aud.count 0x6A040 0 + 1) % 2 ^ 48) ∧
     (∀ data poison, s.dev.outerOff = false → Mem.wf s.dev.mem.dram = true →
       ∃ t, exec (.dramWrite line data poison) s = .next t ∧ t.pending = s.pending ∧
         (∀ k, k < 128 → Mem.read t.dev.mem.dram (128 * line + k) = lineByte data k) ∧
         (∀ a, a < 128 * line ∨ 128 * line + 128 ≤ a → Mem.read t.dev.mem.dram a = Mem.read s.dev.mem.dram a) ∧
         Tab.get t.dev.mem.dpoison line 0 = poison ∧ Mem.wf t.dev.mem.dram = true ∧ t.dev.cores = s.dev.cores) ∧
     (∀ mask data, s.dev.outerOff = false → s.dev.mem.dramLost = false → Mem.wf s.dev.mem.dram = true →
       ∃ t, exec (.dramPartialWrite line mask data .clean) s = .next t ∧ t.pending = s.pending ∧
         (∀ k, k < 128 → Mem.read t.dev.mem.dram (128 * line + k) =
           if mask.getLsbD k then lineByte data k else Mem.read s.dev.mem.dram (128 * line + k)) ∧
         (∀ a, a < 128 * line ∨ 128 * line + 128 ≤ a → Mem.read t.dev.mem.dram a = Mem.read s.dev.mem.dram a) ∧
         Mem.wf t.dev.mem.dram = true ∧ t.dev.cores = s.dev.cores)) ∧
   (∀ (s : State) (ch : Nat), ch < 16 →
     (∃ t, exec (.dramRefresh ch) s = .next t ∧
       t = { s with dev := { s.dev with dramc := { s.dev.dramc with refBank := t.dev.dramc.refBank } } } ∧
       Tab.get t.dev.dramc.refBank ch 0 = (Tab.get s.dev.dramc.refBank ch 0 + 1) % 16) ∧
     (s.dev.outerOff = false → s.dev.mem.dramLost = false → 0 < s.dev.channelBlocks →
       ∃ t, exec (.dramScrub ch []) s = .next t ∧ t = { s with dev := { s.dev with aud := t.dev.aud, dramc := t.dev.dramc } } ∧
         Tab.get t.dev.dramc.scrubBlk ch 0 = (Tab.get s.dev.dramc.scrubBlk ch 0 + 1) % s.dev.channelBlocks ∧
         Tab.get t.dev.dramc.scrubbed ch 0 = Tab.get s.dev.dramc.scrubbed ch 0 + 1 ∧
         Tab.get t.dev.dramc.sweeps ch 0 = Tab.get s.dev.dramc.sweeps ch 0 +
           (if (Tab.get s.dev.dramc.scrubBlk ch 0 + 1) % s.dev.channelBlocks = 0 then 1 else 0))))

/-! ### Messages and tallies (06) -/

/-- SEND by one lane to a core its partition may not name faults; with a credit it sends its payload and uses the credit; without an
entry for the channel it asks for credits and waits (06 R212-R214). RECV by one lane takes the oldest message, or, trying, tells with
a predicate that there is none (06 R218).
Credits and messages on the grid: a request is granted up to 8 of the free credits, or noted; a grant reaches the sender's
entry, or goes back where it has been replaced; the oldest message of its sender and channel is enqueued and uses up its credit;
returned credits are free again (06 R214-R217). -/
def Obligations.MessagesAreSentAndDelivered : Prop :=
  ((∀ (i : Issue) (s : State), Issues s.dev i 0x60 → Resident s.dev i.core →
     ∃ t st, exec (.send i) s = .next t ∧ t.pending = s.pending ∧ Arrives s.dev i st ∧ SameRegisters s.dev t.dev i.core ∧
       (∀ e, actives s.dev i st = [e] →
         let dest := s.dev.readW i.core e.2 e.1 (srcaOf i.word)
         let ch := fld (subOf i.word) 15 13
         let v := s.dev.rdVal i.core e.2 e.1 (srcbOf i.word) (if (subOf i.word).testBit 12 then 2 else 1)
         let ok := s.dev.msgTargetOk (s.dev.strandPart i.core st) dest
         (ok = false → Faulted s.dev t.dev i st 0x0B) ∧
         (ok = true → ∀ c, (s.dev.core i.core).credit? dest ch = some c → 1 ≤ c.credits → dest < 1024 →
           t.dev.grid = s.dev.grid ++ [.message i.core dest ch (BitVec.ofNat 64 v)] ∧
           (∃ c', (t.dev.core i.core).credit? dest ch = some c' ∧ c'.credits = c.credits - 1) ∧
           WentOn s.dev t.dev i st (st.pc + 8)) ∧
         (ok = true → (s.dev.core i.core).credit? dest ch = none → (s.dev.core i.core).credits.length < 32 → dest < 1024 →
           t.dev.grid = s.dev.grid ++ [.request i.core dest ch] ∧
           ∃ s', t.dev.strand? i.core i.strand = some s' ∧ s'.pc = st.pc ∧ ∃ todo, s'.wait = .op i.word [e.1] todo))) ∧
   (∀ (i : Issue) (s : State), Issues s.dev i 0x61 → Resident s.dev i.core →
     let ch := fld (subOf i.word) 15 13
     ∃ t st, exec (.recv i) s = .next t ∧ t.pending = s.pending ∧ Arrives s.dev i st ∧
       (∀ e m q, actives s.dev i st = [e] → Tab.wf st.lanes = true → (s.dev.chan i.core ch).queue = m :: q →
         (s.dev.chan i.core ch).recv = [] → (s.dev.chan i.core ch).pending = [] → (subOf i.word).testBit 11 = false →
         (t.dev.chan i.core ch).queue = q ∧ WentOn s.dev t.dev i st (st.pc + 8) ∧
         (dstOf i.word < 0x80 → (subOf i.word).testBit 7 = false →
           t.dev.rdVal i.core e.2 e.1 (dstOf i.word) (resultWords i.word) =
             m.payload.toNat % 2 ^ (32 * resultWords i.word))) ∧
       (∀ e, actives s.dev i st = [e] → (s.dev.chan i.core ch).queue = [] → (subOf i.word).testBit 11 = true →
         WentOn s.dev t.dev i st (st.pc + 8) ∧
         (fld (subOf i.word) 10 8 ≠ 7 → t.dev.readW i.core e.2 e.1 (0xC0 + fld (subOf i.word) 10 8) = 0)) ∧
       (∀ e, actives s.dev i st = [e] → (s.dev.chan i.core ch).queue = [] → (s.dev.chan i.core ch).recv = [] →
         (subOf i.word).testBit 11 = false →
         t.dev.strand? i.core i.strand = some { st with wait := .op i.word [e.1] [] } ∧
         (t.dev.chan i.core ch).recv = [i.strand]))) ∧
  (∀ (s : State) (k src dest ch : Nat),
     (s.dev.grid[k]? = some (.request src dest ch) →
       let c := s.dev.chan dest ch
       (1 ≤ c.u → c.pending = [] → ∃ t, exec (.creditRequest k) s = .next t ∧ t.pending = s.pending ∧
         t.dev.grid = s.dev.grid.eraseIdx k ++ [.grant src dest ch (min 8 c.u)] ∧
         Tab.get (t.dev.chan dest ch).granted src 0 = Tab.get c.granted src 0 + min 8 c.u ∧
         (t.dev.chan dest ch).queue = c.queue ∧ t.dev = { s.dev with grid := t.dev.grid, cores := t.dev.cores }) ∧
       (c.u = 0 → ∃ t, exec (.creditRequest k) s = .next t ∧ t.pending = s.pending ∧ t.dev.grid = s.dev.grid.eraseIdx k ∧
         src ∈ (t.dev.chan dest ch).pending ∧ (t.dev.chan dest ch).granted = c.granted)) ∧
     (∀ n, s.dev.grid[k]? = some (.grant src dest ch n) →
       (∀ e, (s.dev.core src).credit? dest ch = some e → (∀ x ∈ (s.dev.core src).strands, x.2.wait = .ready) →
         ∃ t e', exec (.creditGrant k) s = .next t ∧ t.pending = s.pending ∧ t.dev.grid = s.dev.grid.eraseIdx k ∧
           (t.dev.core src).credit? dest ch = some e' ∧ e'.credits = e.credits + n ∧ e'.requested = false) ∧
       ((s.dev.core src).credit? dest ch = none → exec (.creditGrant k) s = .next (withDev s
         { s.dev with grid := s.dev.grid.eraseIdx k ++ [.giveBack src dest ch n] }))) ∧
     (∀ v, s.dev.grid[k]? = some (.message src dest ch v) → (∀ w, .message src dest ch w ∉ s.dev.grid.take k) →
       (s.dev.chan dest ch).recv = [] →
       ∃ t, exec (.messageArrival k) s = .next t ∧ t.pending = s.pending ∧ t.dev.grid = s.dev.grid.eraseIdx k ∧
         (t.dev.chan dest ch).queue = (s.dev.chan dest ch).queue ++ [{ payload := v, src := src }] ∧
         Tab.get (t.dev.chan dest ch).granted src 0 = Tab.get (s.dev.chan dest ch).granted src 0 - 1 ∧
         t.dev = { s.dev with grid := t.dev.grid, cores := t.dev.cores }) ∧
     (∀ n, s.dev.grid[k]? = some (.giveBack src dest ch n) → (s.dev.chan dest ch).pending = [] →
       ∃ t, exec (.creditReturn k) s = .next t ∧ t.pending = s.pending ∧ t.dev.grid = s.dev.grid.eraseIdx k ∧
         Tab.get (t.dev.chan dest ch).granted src 0 = Tab.get (s.dev.chan dest ch).granted src 0 - n ∧
         (t.dev.chan dest ch).queue = (s.dev.chan dest ch).queue))

/-- A host's TLY_SET, TLY_ADD and TLY_REARM of a tally that its function owns follow R222, wake every waiter whose target the new
value meets, and leave every other tally alone; of any other tally they are denied and counted (06 R222, R224, R237).
TSIG, TWAIT and TREAD by one lane of a tally that its partition does not own fault; else one operation sets out for the tally
block and the strand blocks on its answer (06 R230-R233). -/
def Obligations.TallyOperationsSetOut : Prop :=
  (∀ (s : State) (f n v : Nat),
     let ops : List (Instr × TallyAct) :=
       [(.tlySet f n v, .set (BitVec.ofNat 64 v)), (.tlyAdd f n v, .add (BitVec.ofNat 64 v)), (.tlyRearm f n v, .rearm (BitVec.ofNat 64 v))]
     (∀ p, (s.dev.tally n).owner = some p → n < 16384 → s.dev.bound f p = true → ∀ o ∈ ops,
       ∃ t, exec o.1 s = .next t ∧ t.pending = s.pending ∧ TallyRule o.2 s.dev.dp.count (s.dev.tally n) (t.dev.tally n) ∧
         (∀ m, m ≠ n → t.dev.tally m = s.dev.tally m) ∧ TallySide s.dev t.dev ∧
         ((t.dev.tally n).value ≠ (s.dev.tally n).value → ∀ w ∈ s.dev.tly.waiters, w.tally = n →
           tallyMet (t.dev.tally n).value w.target = true → w ∉ t.dev.tly.waiters ∧ ⟨w.who, true⟩ ∈ t.dev.tly.wakes)) ∧
     ((∀ p, (s.dev.tally n).owner = some p → s.dev.bound f p = false) → f < 16 → ∀ o ∈ ops,
       ∃ t, exec o.1 s = .next t ∧ t = { s with dev := { s.dev with aud := { s.dev.aud with viol := t.dev.aud.viol } } } ∧
         Tab.get t.dev.aud.viol (0x70000 + 32 * f) 0 = min (Tab.get s.dev.aud.viol (0x70000 + 32 * f) 0 + 1) (2 ^ 32 - 1))) ∧
  (∀ row ∈ [(0x62, Instr.tsig), (0x63, Instr.twait), (0x64, Instr.tread)], ∀ (i : Issue) (s : State),
     Issues s.dev i row.1 → Resident s.dev i.core →
     ∃ t st, exec (row.2 i) s = .next t ∧ t.pending = s.pending ∧ Arrives s.dev i st ∧ SameRegisters s.dev t.dev i.core ∧
       (∀ e, actives s.dev i st = [e] →
         let n := s.dev.readW i.core e.2 e.1 (srcaOf i.word)
         let v := BitVec.ofNat 64 (s.dev.readP i.core e.2 e.1 (srcbOf i.word))
         let key := if row.1 = 0x64 then e.1 else e.2
         (s.dev.tallyOwned (s.dev.strandPart i.core st) n = false → Faulted s.dev t.dev i st 0x0C) ∧
         (s.dev.tallyOwned (s.dev.strandPart i.core st) n = true →
           t.dev.strand? i.core i.strand = some { st with wait := .op i.word [key] [] } ∧
           ∃ o, t.dev.tly = { s.dev.tly with ops := s.dev.tly.ops ++ [o] } ∧ o.tally = n ∧ o.src = .core i.core ∧
             o.part = s.dev.strandPart i.core st ∧ o.answer = .strand i.core i.strand key ∧
             (row.1 = 0x62 → o.act = if (subOf i.word).testBit 15 then .add v else .set v) ∧
             (row.1 = 0x63 → o.act = .wait v) ∧ (row.1 = 0x64 → o.act = .read ((subOf i.word).testBit 15)))))

/-- The tally block performs an operation when no earlier one of its source on its tally is waiting and its release is covered: it
follows R222, a met WAIT wakes its strand and another is registered, and a strand's only answer lets it go on. A wake gives a TWAIT
the result 1, its timeout the result 0 (06 R222-R226, R231, R235). -/
def Obligations.TallyBlockPerformsAndAnswers : Prop :=
  (∀ (s : State) (k core sid key : Nat) (o : TallyOp) (st : Strand) (w : BitVec 64), s.dev.tly.ops[k]? = some o →
    (∀ x ∈ s.dev.tly.ops.take k, ¬ (x.src = o.src ∧ x.tally = o.tally)) → s.dev.released o = true →
    s.dev.tallyOwned o.part o.tally = true → o.answer = .strand core sid key → s.dev.strand? core sid = some st →
    st.wait = .op w [key] [] →
    ∃ t, exec (.tallyOperation k) s = .next t ∧ t.pending = s.pending ∧ t.dev.tly.ops = s.dev.tly.ops.eraseIdx k ∧
      TallyRule o.act s.dev.dp.count (s.dev.tally o.tally) (t.dev.tally o.tally) ∧
      (∀ m, m ≠ o.tally → t.dev.tally m = s.dev.tally m) ∧
      (∀ target, o.act = .wait target →
        t.dev.strand? core sid = some st ∧
        (tallyMet (s.dev.tally o.tally).value target = true → (s.dev.tally o.tally).lost = false →
          ⟨.core core sid key, true⟩ ∈ t.dev.tly.wakes) ∧
        ((s.dev.tally o.tally).lost = true → ⟨.core core sid key, false⟩ ∈ t.dev.tly.wakes) ∧
        (tallyMet (s.dev.tally o.tally).value target = false → (s.dev.tally o.tally).lost = false →
          ⟨.core core sid key, o.tally, target⟩ ∈ t.dev.tly.waiters)) ∧
      ((∀ target, o.act ≠ .wait target) → opcOf w = 0x62 →
        t.dev.strand? core sid = some { st with pc := (st.pc + 8) % 2 ^ 48, wait := .ready, backoff := 0 }) ∧
      (∀ lane slot, o.act = .read false → opcOf w = 0x64 → (subOf w).testBit 15 = false → key = lane → st.lanes = [(lane, slot)] →
        Tab.has (s.dev.core core).groups slot = true → dstOf w < 0x7F →
        t.dev.rdVal core slot lane (dstOf w) 2 = (s.dev.tally o.tally).value.toNat)) ∧
  (∀ (s : State) (core sid slot lane : Nat) (st : Strand) (w : BitVec 64), s.dev.strand? core sid = some st →
    st.wait = .op w [slot] [] → opcOf w = 0x63 → st.lanes = [(lane, slot)] → s.dev.active core st w = [(lane, slot)] →
    Tab.has (s.dev.core core).groups slot = true → dstOf w < 0xC7 →
    (∀ k, s.dev.tly.wakes[k]? = some ⟨.core core sid slot, true⟩ →
      ∃ t, exec (.tallyWake k) s = .next t ∧ t.pending = s.pending ∧ t.dev.tly.wakes = s.dev.tly.wakes.eraseIdx k ∧
        t.dev.readW core slot lane (dstOf w) = 1 ∧
        t.dev.strand? core sid = some { st with pc := (st.pc + 8) % 2 ^ 48, wait := .ready, backoff := 0 } ∧
        t.dev.tly.tallies = s.dev.tly.tallies) ∧
    (fld (subOf w) 15 12 ≠ 0 →
      ∃ t, exec (.twaitTimeout core sid slot) s = .next t ∧ t.pending = s.pending ∧
        t.dev.readW core slot lane (dstOf w) = 0 ∧
        (∀ x ∈ t.dev.tly.waiters, x.who ≠ .core core sid slot) ∧ t.dev.tly.tallies = s.dev.tly.tallies ∧
        t.dev.strand? core sid = some { st with pc := (st.pc + 8) % 2 ^ 48, wait := .ready, backoff := 0 }))

/-! ### The mint, translation and maintenance (04, 05) -/

/-- MALLOC queues one call of its active lanes at the mint and its strand blocks; MFREE queues one call for each lane, after the
accesses its release covers, and its strand goes on (05 R204, R205).
MINT_CALL serves a call when no earlier one of its pool waits and its release is covered. A MALLOC of a pool its partition may
use takes the object at CURSOR, when that is free, or receives 0 from an empty pool, which is then EXHAUSTED; an MFREE returns an
allocated object, and a misaligned or outlying address only counts (05 R202, R206, R207). -/
def Obligations.MintCallsAreQueuedAndServed : Prop :=
  ((∀ (i : Issue) (s : State), Issues s.dev i 0x66 → Resident s.dev i.core →
     ∃ t st, exec (.malloc i) s = .next t ∧ t.pending = s.pending ∧ Arrives s.dev i st ∧ SameRegisters s.dev t.dev i.core ∧
       OneCore i.core s.dev t.dev ∧ t.dev = { s.dev with cores := t.dev.cores, aud := t.dev.aud, mint := t.dev.mint } ∧
       (actives s.dev i st = [] → t.dev.mint = s.dev.mint ∧ WentOn s.dev t.dev i st (st.pc + 8)) ∧
       (actives s.dev i st ≠ [] →
         t.dev.strand? i.core i.strand = some { st with wait := .op i.word ((actives s.dev i st).map (·.1)) [] } ∧
         t.dev.mint = { s.dev.mint with calls := s.dev.mint.calls ++
           [{ part := s.dev.strandPart i.core st, pool := fld (subOf i.word) 15 13, core := i.core, strand := i.strand,
              lanes := (actives s.dev i st).map (·.1), free := none, after := [] }] })) ∧
   (∀ (i : Issue) (s : State), Issues s.dev i 0x67 → Resident s.dev i.core →
     ∃ t st calls, exec (.mfree i) s = .next t ∧ t.pending = s.pending ∧ Arrives s.dev i st ∧ SameRegisters s.dev t.dev i.core ∧
       OneCore i.core s.dev t.dev ∧ WentOn s.dev t.dev i st (st.pc + 8) ∧
       t.dev = { s.dev with cores := t.dev.cores, aud := t.dev.aud, mint := { s.dev.mint with calls := s.dev.mint.calls ++ calls } } ∧
       calls.map (fun q => (q.part, q.pool, q.core, q.strand, q.lanes, q.free)) = (actives s.dev i st).map (fun e =>
         (s.dev.strandPart i.core st, fld (subOf i.word) 15 13, i.core, i.strand, [], some (s.dev.laneAddr i.core e.2 e.1 i.word 0))) ∧
       ∀ q ∈ calls, ∀ id ∈ q.after, Tab.has (s.dev.core i.core).ops id = true)) ∧
  (∀ (s : State) (k : Nat) (q : MintReq), s.dev.mint.calls[k]? = some q → s.dev.running = true →
     (∀ x ∈ s.dev.mint.calls.take k, ¬ (x.part = q.part ∧ x.pool = q.pool)) →
     (∀ id ∈ q.after, Tab.has (s.dev.core q.core).ops id = false) →
     let x := s.dev.pool q.part q.pool
     let usable := x.valid = true ∧ x.users.testBit 0 = true
     let d0 := ({ s.dev with mint := { s.dev.mint with calls := s.dev.mint.calls.eraseIdx k } }).countGlobal 3 1
     ∃ t, exec (.mintCall k) s = .next t ∧ t.pending = s.pending ∧ t.dev.mint.calls = s.dev.mint.calls.eraseIdx k ∧
       (∀ m, m ≠ 8 * q.part + q.pool → Tab.get? t.dev.mint.pools m = Tab.get? s.dev.mint.pools m) ∧
       MemorySide { s.dev with mint := t.dev.mint, tly := t.dev.tly } t.dev ∧
       (∀ a, q.free = some a → usable →
         (a < x.base ∨ (a - x.base) % 2 ^ x.sizeLog2 ≠ 0 ∨ x.count ≤ (a - x.base) / 2 ^ x.sizeLog2 → q.part < 16 →
           t.dev = { d0 with aud := t.dev.aud } ∧ Tab.get t.dev.aud.viol (0x70200 + 64 * q.part + 16) 0 =
             min (Tab.get s.dev.aud.viol (0x70200 + 64 * q.part + 16) 0 + 1) (2 ^ 32 - 1)) ∧
         (∀ n, a = x.base + n * 2 ^ x.sizeLog2 → n < x.count → (d0.mapBit x n).1 = true →
           t.dev.pool q.part q.pool =
             { x with free := x.free + 1, below := x.below && decide (x.free + 1 < x.lowWater) })) ∧
       (∀ l slot st w, q.free = none → q.lanes = [l] → s.dev.strand? q.core q.strand = some st → st.wait = .op w [l] [] →
         opcOf w = 0x66 → st.lanes = [(l, slot)] → Tab.has (s.dev.core q.core).groups slot = true →
         (x.free = 0 ∨ ¬ usable → LaneAnswered t.dev q.core q.strand st w l slot 0 ∧
           t.dev.pool q.part q.pool = { x with exhausted := true }) ∧
         (0 < x.free → usable → x.cursor < x.count → (d0.mapBit x x.cursor).1 = false → Still s.dev →
           LaneAnswered t.dev q.core q.strand st w l slot (x.base + x.cursor * 2 ^ x.sizeLog2) ∧
           t.dev.pool q.part q.pool = { x with
             cursor := (x.cursor + 1) % x.count, free := x.free - 1, minFree := min x.minFree (x.free - 1)
             below := x.below || (x.lowWater != 0 && x.free == x.lowWater) })))

/-- Writes to MMU_INV_CTRL with GO begin a range, context or full invalidation and set BUSY, are denied and counted while BUSY is 1,
and a range of no pages is complete at once; an invalidation completes when no access through the entries is left, drops them and
clears BUSY (05 R194-R196). FAULT_RECORD_CLEAR clears VALID and MORE for the owner of the context (05 R198).
A host line is refused or accepted from then on. A refused read raises the job fault TRANSLATION with its record: of the front end, at
the address of the ring's next command, which stays in the ring; a failed fill, of the core whose operation waits for the line of a
miss register, which is freed. Memory and every other register keep their value (05 R192, R197; 17 R536). -/
def Obligations.InvalidationsFaultRecordsAndFailedReads : Prop :=
  ((∀ row ∈ [(Instr.mmuInvRange, 0), (Instr.mmuInvContext, 1), (Instr.mmuInvAll, 2)], ∀ (s : State) (v : Nat),
     v.testBit 31 = true → v / 2 ^ 24 % 4 = row.2 →
     let m := s.dev.mmu
     let n := v % 2 ^ 24
     let o : InvOp := { mode := row.2, ctx := m.invCtx, page := m.invPage, pages := n, regs := true, cmd := none }
     (m.invBusy = true → exec (row.1 0 v) s = .next (withDev s (s.dev.denied 0))) ∧
     (m.invBusy = false → ¬ (row.2 = 0 ∧ n = 0) → exec (row.1 0 v) s = .next (withDev s
       { s.dev with mmu := { m with invMode := row.2, invPages := n, invBusy := true, invs := m.invs ++ [o] } })) ∧
     (m.invBusy = false → row.2 = 0 → n = 0 → exec (row.1 0 v) s = .next (withDev s
       { s.dev with mmu := { m with invMode := row.2, invPages := n } }))) ∧
   (∀ (s : State) (k : Nat) (o : InvOp), s.dev.mmu.invs[k]? = some o → o.regs = true → o.cmd = none → s.dev.invWaits o = false →
     ∃ t, exec (.invalidationComplete k) s = .next t ∧
       t = { s with dev := { s.dev with mmu := { s.dev.mmu with tlb := t.dev.mmu.tlb, invs := s.dev.mmu.invs.eraseIdx k, invBusy := false } } } ∧
       (∀ e, e ∈ t.dev.mmu.tlb ↔ e ∈ s.dev.mmu.tlb ∧ ¬ (
         (o.mode = 0 → e.overlaps o.ctx o.page o.pages = true) ∧ (o.mode = 3 → (s.dev.ctx e.ctx).func = o.ctx) ∧
         (o.mode ≠ 0 → o.mode ≠ 2 → o.mode ≠ 3 → e.ctx = o.ctx)))) ∧
   (∀ (s : State) (f n v : Nat), n < 256 → v.testBit 63 = true →
     let r := Tab.get s.dev.mmu.recs n FaultRec.none
     (f = 0 ∨ s.dev.ownsCtx f n = true → exec (.faultRecordClear f n v) s = .next (withDev s
       { s.dev with mmu := { s.dev.mmu with recs := Tab.put s.dev.mmu.recs n { r with valid := false, more := false } } })) ∧
     (f ≠ 0 → s.dev.ownsCtx f n = false → exec (.faultRecordClear f n v) s = .next s))) ∧
  (∀ s : State, s.dev.running = true →
     (∀ line, let l := s.dev.mem.refused;
       exec (.hostReadError (.refuse line)) s = .next (withDev s { s.dev with mem := { s.dev.mem with
         refused := if line ∈ l then l else l ++ [line] } }) ∧
       exec (.hostReadError (.accept line)) s = .next (withDev s { s.dev with mem := { s.dev.mem with
         refused := l.filter (· != line) } })) ∧
     (∀ f r pa attr d1, s.dev.feOk f r = true → let x := s.dev.ring f r;
       let dva := (x.base * 4096 + 64 * (x.head % 2 ^ x.log2n)) % 2 ^ 48
       x.st = .active → x.kind = false → x.cmds = [] → x.head ≠ x.tail →
       s.dev.xlate (feAgent f x.ctx) dva .read = (.ok (pa, attr), d1) → d1.hostRefuses f (pa / 128) = true →
       ∃ t j, exec (.commandFetch f r) s = .next t ∧ t.pending = s.pending ∧ t.dev.faults = s.dev.faults ++ [j] ∧
         j.code = 9 ∧ j.unit = 2 ∧ j.ctx = x.ctx ∧ j.addr = dva ∧ t.dev.ring f r = x ∧ MemorySide s.dev t.dev ∧
         t.dev.cores = s.dev.cores ∧ t.dev.mem = d1.mem) ∧
     (∀ line m ci id o, Tab.get? s.dev.mem.missRegs line = some m → 2 ^ 40 ≤ line → m.waiters = [.op ci id] →
       Tab.get? (s.dev.core ci).ops id = some o →
       ∃ t j, exec (.hostReadError (.fill line)) s = .next t ∧ t.pending = s.pending ∧ t.dev.faults = s.dev.faults ++ [j] ∧
         j.code = 9 ∧ j.unit = 0 ∧ j.index = ci ∧ j.pc = o.pc ∧ j.addr = o.dva ∧ (t.dev.core ci).stopped = true ∧
         Tab.get? (t.dev.core ci).ops id = none ∧ MemorySide s.dev t.dev ∧ OneCore ci s.dev t.dev ∧
         t.dev.mem = { s.dev.mem with missRegs := Tab.del s.dev.mem.missRegs line }))

/-- A write to VLT_MAINT_CTRL with GO begins a maintenance operation over the range of the address and length registers, or is denied
while BUSY; a range of no lines is done at once. MAINT_LINE processes the next line: a flush leaves the line clean, an invalidation
leaves it uncached, a line that does not translate ends the operation with XLAT (04 R175, R176). -/
def Obligations.RangeMaintenance : Prop :=
  (∀ row ∈ [(Instr.maintFlush, 1), (Instr.maintInvalidate, 2), (Instr.maintFlushInv, 3), (Instr.maintFill, 4)],
    ∀ (s : State) (v : Nat), v.testBit 31 = true → v % 8 = row.2 → v / 256 % 64 ≤ 36 →
    let m := s.dev.mem
    let o : MaintOp := { who := .regs, op := row.2, ctx := m.maintAddr / 2 ^ 48 % 256, dva := m.maintAddr % 2 ^ 48 / 128 * 128,
                         left := m.maintLen, req := v / 256 % 64, done := 0, conflicts := 0 }
    (m.maintBusy = true → exec (row.1 0 v) s = .next (withDev s (s.dev.denied 0))) ∧
    (m.maintBusy = false → m.maintLen ≠ 0 → exec (row.1 0 v) s = .next (withDev s { s.dev with mem := { m with
      maintOp := row.2, maintReq := v / 256 % 64, maintBusy := true, maintXlat := false, maintAborted := false, maintDone := 0,
      maintConflicts := 0, maints := m.maints ++ [o] } })) ∧
    (m.maintBusy = false → m.maintLen = 0 → exec (row.1 0 v) s = .next (withDev s { s.dev with mem := { m with
      maintOp := row.2, maintReq := v / 256 % 64, maintXlat := false, maintAborted := false, maintDone := 0,
      maintConflicts := 0 } }))) ∧
  (∀ (s : State) (k : Nat) (m : MaintOp) (a : Agent), s.dev.mem.maints[k]? = some m → s.dev.running = true → 1 ≤ m.op → m.op < 4 →
    m.who = .regs → a = { rq := s.dev.maintRq m, unit := 9, index := 0, ctx := m.ctx } →
    ∃ t, exec (.maintLine k) s = .next t ∧ t.pending = s.pending ∧
      (∀ e, (s.dev.xlate a m.dva .maint).1 = .error e → MemorySide { s.dev with mem := { s.dev.mem with
        maints := s.dev.mem.maints.eraseIdx k, maintBusy := false, maintXlat := true, maintDone := m.done
        maintConflicts := m.conflicts } } t.dev) ∧
      (∀ pa attr, (s.dev.xlate a m.dva .maint).1 = .ok (pa, attr) →
        (m.left = 1 → MemorySide { s.dev with mem := { s.dev.mem with
          maints := s.dev.mem.maints.eraseIdx k, maintBusy := false, maintXlat := false, maintDone := m.done + 1
          maintConflicts := m.conflicts } } t.dev) ∧
        (2 ≤ m.left → MemorySide { s.dev with mem := { s.dev.mem with
          maints := s.dev.mem.maints.set k { m with dva := (m.dva + 128) % 2 ^ 48, left := m.left - 1, done := m.done + 1 }
          maintDone := m.done + 1, maintConflicts := m.conflicts } } t.dev) ∧
        (m.op = 1 → ∀ v, Tab.get? t.dev.mem.vault (pa / 128) = some v → v.dirty = false) ∧
        (m.op = 2 ∨ m.op = 3 → Tab.get? t.dev.mem.vault (pa / 128) = none)))

/-! ### Host windows and registers (00, 07) -/

/-- Accesses through BAR2, each within one line: while the window reaches the address a read returns the bytes of the line and a write
leaves them in it; else a read returns zeros, a write is dropped, and ACCESS_VIOLATION counts. A function in a reset or in D3hot, or one
that does not exist (a virtual function above NumVFs or without VF Enable), gets no completion but UR (07 R242, R244; 04 R174).
HIF_WIN takes a context that the function owns, a tag entry likewise; a write of another is discarded and counts. A write of BAR0 of
another width or alignment than its register's is discarded and counts, one to a reserved address does nothing; base registers of an
enabled ring, and NumVFs while VFs are enabled, keep their value (00 R15-R18; 07 R244, R246, R250; 17 R535). -/
def Obligations.HostAccessesOfWindowsAndRegisters : Prop :=
  (∀ (s : State) (f off n : Nat) (data : List Byte), f < 16 → 1 ≤ n → off % 128 + n ≤ 128 → data.length = n →
     s.dev.mgmt.bring.wild = false →
     let dva := (s.dev.func f).winBase * 2 ^ 30 + off
     (s.dev.hostOk f = false →
       exec (.bar2Read f off n) s = .next (withDev s { s.dev with sent := s.dev.sent ++ [.readUr f] }) ∧
       exec (.bar2Write f off data false) s = .next s) ∧
     (s.dev.hostOk f = true → ¬ WindowReaches s.dev f off →
       (∃ t, exec (.bar2Read f off n) s = .next t ∧
         t = { s with dev := { s.dev with aud := t.dev.aud, sent := s.dev.sent ++ [.readData f (List.replicate n 0) false] } } ∧
         t.dev.aud.viol = (counted s.dev (0x70000 + 32 * f)).aud.viol) ∧
       (∃ t, exec (.bar2Write f off data false) s = .next t ∧ t = { s with dev := { s.dev with aud := t.dev.aud } } ∧
         t.dev.aud.viol = (counted s.dev (0x70000 + 32 * f)).aud.viol)) ∧
     (s.dev.hostOk f = true → WindowReaches s.dev f off → ∀ pa attr v, pa < 2 ^ 47 → pa % 128 = off % 128 → Quiet s.dev (pa / 128) →
       Tab.get? s.dev.mem.vault (pa / 128) = some v →
       (Maps s.dev (s.dev.func f).winCtx dva .read pa attr → v.poison = 0 →
         ∃ t, exec (.bar2Read f off n) s = .next t ∧ t = { s with dev := { s.dev with
           aud := t.dev.aud, mmu := { s.dev.mmu with tlb := t.dev.mmu.tlb }
           sent := s.dev.sent ++ [.readData f ((List.range n).map (fun k => lineByte v.data (pa % 128 + k))) false] } }) ∧
       (Maps (s.dev.countGlobal 12 n) (s.dev.func f).winCtx dva .write pa attr → attr = 0 →
         ∃ t v', exec (.bar2Write f off data false) s = .next t ∧ t = { s with dev := { s.dev with
             aud := t.dev.aud, mmu := { s.dev.mmu with tlb := t.dev.mmu.tlb }
             mem := { s.dev.mem with vault := t.dev.mem.vault, dir := t.dev.mem.dir } } } ∧
           t.dev.mem.dir = Tab.del s.dev.mem.dir (pa / 128) ∧
           Tab.get? t.dev.mem.vault (pa / 128) = some v' ∧ v'.dirty = true ∧
           (∀ k, k < 128 → lineByte v'.data k =
             if pa % 128 ≤ k ∧ k < pa % 128 + n then data.getD (k - pa % 128) 0 else lineByte v.data k) ∧
           (∀ l, l ≠ pa / 128 → Tab.get? t.dev.mem.vault l = Tab.get? s.dev.mem.vault l)))) ∧
  (∀ (s : State) (f : Nat), f < 16 → s.dev.hostOk f = true →
     (∀ v, let c := v / 2 ^ 48 % 256;
       (s.dev.ownsCtx f c = true → exec (.hifWinWrite f v) s = .next (withDev s { s.dev with
         funcs := Tab.put s.dev.funcs f { s.dev.func f with winCtx := c, winBase := v / 2 ^ 30 % 2 ^ 18 } })) ∧
       (s.dev.ownsCtx f c = false → exec (.hifWinWrite f v) s = .next (withDev s (counted s.dev (0x70000 + 32 * f))))) ∧
     (∀ i v, let c := v / 2 ^ 48 % 256;
       (i < (s.dev.func f).tagCount → v.testBit 63 = true → s.dev.ownsCtx f c = true →
         exec (.tagWrite f i v) s = .next (withDev s { s.dev with
           tags := Tab.put s.dev.tags ((s.dev.func f).tagBase + i) (2 ^ 63 + c * 2 ^ 48) })) ∧
       (i < (s.dev.func f).tagCount → v.testBit 63 = true → s.dev.ownsCtx f c = false →
         exec (.tagWrite f i v) s = .next (withDev s (counted s.dev (0x70000 + 32 * f)))) ∧
       ((s.dev.func f).tagCount ≤ i → exec (.tagWrite f i v) s = .next s)) ∧
     (s.dev.clocked = true → s.dev.mgmt.bring.st ≠ .romStart →
       (∀ off width v, (off < 0x30000 ∨ 0x40000 ≤ off) →
         (s.dev.regAt f off = none → exec (.registerWrite ⟨f, .bar0 off width, v⟩) s = .next s) ∧
         (∀ r, s.dev.regAt f off = some r → ¬ (r.start = off ∧ r.width = width) →
           exec (.registerWrite ⟨f, .bar0 off width, v⟩) s = .next (withDev s (counted s.dev (0x70000 + 32 * f))))) ∧
       (∀ r v, r < 16 → (s.dev.ring f r).en = false →
         exec (.registerWrite ⟨f, .bar0 (0x4000 + 64 * r) 8, v⟩) s = .next (withDev s (withRing s.dev f r
           { s.dev.ring f r with ctx := v / 2 ^ 48 % 256, base := v / 2 ^ 12 % 2 ^ 36 }))) ∧
       (∀ r v, r < 16 → (s.dev.ring f r).en = true →
         exec (.registerWrite ⟨f, .bar0 (0x4000 + 64 * r) 8, v⟩) s =
           .next (withDev s (counted s.dev (0x70000 + 32 * f)))) ∧
       (∀ v, v ≤ 15 → f = 0 → s.dev.mgmt.vfEnable = false →
         exec (.registerWrite ⟨f, .config .numVfs, v⟩) s =
           .next (withDev s { s.dev with mgmt := { s.dev.mgmt with numVfs := v } })) ∧
       (∀ v, s.dev.mgmt.vfEnable = true → exec (.registerWrite ⟨f, .config .numVfs, v⟩) s = .next s)))

/-! ### Command rings (07) -/

/-- RING_ENABLE checks the configuration as EN rises: a good one clears the counters and starts the ring, after zeroing where it is
device-written, a bad one is ERROR; RING_DISABLE drops the commands that have not started; RING_IDLE ends the zeroing and RING_DRAINED
the draining. A write that changes an enabled ring's configuration is denied (07 R250, R251). -/
def Obligations.RingsAreEnabledAndDisabled : Prop :=
  ∀ (s : State) (f r v : Nat), f < 16 → r < 16 →
    let x := s.dev.ring f r
    let y := configured x v
    (v.testBit 31 = true → x.en = false → x.st ≠ .draining →
      (s.dev.ringConfigOk f y = true → exec (.ringEnable f r v) s = .next (withDev s (withRing s.dev f r
        { y with en := true, head := 0, tail := 0, done := 0, err := 0, cmds := [], slotIssued := false, slotEmpty := false,
                 st := if y.kind then .zeroing else .active }))) ∧
      (s.dev.ringConfigOk f y = false → exec (.ringEnable f r v) s = .next (withDev s (withRing s.dev f r
        { y with en := true, st := .error, err := 2 })))) ∧
    (v.testBit 31 = true → x.en = true → y ≠ x → exec (.ringEnable f r v) s = .next (withDev s (counted s.dev (0x70000 + 32 * f)))) ∧
    (v.testBit 31 = false → x.en = true → y = x →
      let kept := x.cmds.filter (fun c => c.phase != .fetched)
      exec (.ringDisable f r v) s = .next (withDev s (withRing s.dev f r { x with
        en := false, cmds := kept, st := if kept = [] ∧ x.st ≠ .active then .disabled else .draining }))) ∧
    (x.st = .zeroing → s.dev.running = true → ∀ d1,
      s.dev.agentWrite (feAgent f x.ctx) true (x.base * 4096) (List.replicate (64 + 8 * 2 ^ x.log2n) 0) = (.ok (), d1) →
      ∃ t, exec (.ringIdle f r) s = .next t ∧ t.pending = s.pending ∧ t.dev.ring f r = { x with st := .active } ∧
        MemorySide (withRing s.dev f r { x with st := .active }) t.dev ∧ t.dev.mem = d1.mem) ∧
    (x.st = .draining → x.cmds = [] →
      exec (.ringDrained f r) s = .next (withDev s (withRing s.dev f r { x with st := .disabled })))

/-- A doorbell of a running host-written ring moves TAIL ahead; one not ahead does nothing, one more than N ahead of HEAD is an ERROR of
the ring, and at another ring it counts (07 R254). COMMAND_FETCH copies published commands, resolving their tags; of a device-written
ring it issues the read of the slot, and SLOT_READ finds it empty or takes its command (07 R247, R255-R258, R588). -/
def Obligations.DoorbellsAndFetches : Prop :=
  ∀ (s : State) (f r : Nat), f < 16 → r < 16 →
    let x := s.dev.ring f r
    let behind := fun (a b : Nat) => (((a : Int) - b) % (2 ^ 32 : Nat)).toNat
    (∀ v, v < 2 ^ 32 →
      (x.st ≠ .active ∨ x.kind = true → exec (.doorbell f r v) s = .next (withDev s (counted s.dev (0x70000 + 32 * f)))) ∧
      (x.st = .active → x.kind = false →
        (¬ (1 ≤ behind v x.tail ∧ behind v x.tail ≤ 2 ^ 31 - 1) → exec (.doorbell f r v) s = .next s) ∧
        (1 ≤ behind v x.tail → behind v x.tail ≤ 2 ^ 31 - 1 → behind v x.head ≤ 2 ^ x.log2n →
          exec (.doorbell f r v) s = .next (withDev s (withRing s.dev f r { x with tail := v }))) ∧
        (1 ≤ behind v x.tail → behind v x.tail ≤ 2 ^ 31 - 1 → 2 ^ x.log2n < behind v x.head →
          exec (.doorbell f r v) s = .next (withDev s (withRing s.dev f r { x with st := .error, err := 1 }))))) ∧
    (s.dev.feOk f r = true → x.st = .active → (∀ c ∈ x.cmds, c.phase ≠ .fetched) →
      (x.kind = true → x.slotEmpty = false →
        exec (.commandFetch f r) s = .next (withDev s (withRing s.dev f r { x with slotIssued := true }))) ∧
      (x.kind = false → x.tail = (x.head + 1) % 2 ^ 32 → x.tail ≠ x.head → ∀ bs d1,
        s.dev.agentRead (feAgent f x.ctx) true (x.base * 4096 + 64 * (x.head % 2 ^ x.log2n)) 64 = (.ok bs, d1) →
        ∃ t, exec (.commandFetch f r) s = .next t ∧ t.pending = s.pending ∧
          MemorySide (withRing s.dev f r (t.dev.ring f r)) t.dev ∧ t.dev.mem = d1.mem ∧
          t.dev.ring f r = { x with head := x.tail, cmds := x.cmds ++ [d1.fetched f x.head 0 bs false] }) ∧
      (x.kind = true → x.slotIssued = true → ∀ bs d1,
        (withRing s.dev f r { x with slotIssued := false }).agentRead (feAgent f x.ctx) true
          (x.base * 4096 + 64 + 8 * (x.head % 2 ^ x.log2n)) 8 = (.ok bs, d1) →
        (leNat bs = 0 →
          ∃ t, exec (.slotRead f r) s = .next t ∧ t.pending = s.pending ∧
            MemorySide (withRing s.dev f r (t.dev.ring f r)) t.dev ∧ t.dev.ring f r = { x with slotIssued := false, slotEmpty := true }) ∧
        (leNat bs ≠ 0 → (leNat bs).testBit 4 = false → ∀ cs d2 d3 d4,
          d1.agentRead (feAgent f x.ctx) true (leNat bs / 64 % 2 ^ 42 * 64) 64 = (.ok cs, d2) →
          d2.agentWrite (feAgent f x.ctx) true (x.base * 4096 + 64 + 8 * (x.head % 2 ^ x.log2n)) (toLe 8 0) = (.ok (), d3) →
          d3.agentWrite (feAgent f x.ctx) true (x.base * 4096 + 8) (toLe 8 ((x.head + 1) % 2 ^ 32)) = (.ok (), d4) →
          ∃ t, exec (.slotRead f r) s = .next t ∧ t.pending = s.pending ∧
            MemorySide (withRing s.dev f r (t.dev.ring f r)) t.dev ∧ t.dev.mem = d4.mem ∧ t.dev.ring f r = { x with
              slotIssued := false, head := (x.head + 1) % 2 ^ 32,
              cmds := x.cmds ++ [d4.fetched f x.head 0 cs (badSlot (leNat bs))] })))

/-- COMMAND_START starts the next command in ring order unless it is fenced behind one in flight: a tag that does not resolve is BAD_TAG,
a malformed command BAD_COMMAND, a NOP is performed. COMMAND_COMPLETE writes the receipt, signals, counts DONE and takes the command
off the ring (07 R247, R252, R264-R268). -/
def Obligations.CommandsStartAndComplete : Prop :=
  (∀ (s : State) (f r k : Nat) (c : Cmd),
    let x := s.dev.ring f r
    let id := c.id f r
    s.dev.feOk f r = true → x.st = .active → x.inFlight.length < 8 → x.nextCmd = .at k → x.cmds[k]? = some c →
    s.dev.cmd? id = some c →
    (c.bit 32 = true → x.before k ≠ [] → exec (.commandStart f r) s = .next s) ∧
    (c.bit 32 = false ∨ x.before k = [] →
      ∃ t, exec (.commandStart f r) s = .next t ∧ t.pending = s.pending ∧ FuncSide s.dev t.dev ∧ OtherRings s.dev t.dev f r ∧
        (c.ctx = none → Performed t.dev id c 0x11 0) ∧
        (c.ctx ≠ none → c.malformed f = true → Performed t.dev id c 0x10 0) ∧
        (c.ctx ≠ none → c.malformed f = false → c.op = 0 → Performed t.dev id c 0 0) ∧
        (c.ctx ≠ none → c.malformed f = false → c.op ≠ 0 → c.op ≠ 8 → t.dev.cmd? id = some { c with phase := .started }))) ∧
  (∀ (s : State) (x : CmdId) (c : Cmd), s.dev.cmd? x = some c → c.phase = .performed → s.dev.running = true →
    c.discarded = false → (s.dev.func x.fn).flr = none → x.inner = 0 →
    let r := s.dev.ring x.fn x.ring
    ∃ t, exec (.commandComplete x) s = .next t ∧ t.pending = s.pending ∧
      (t.dev.ring x.fn x.ring).cmds = r.cmds.filter (fun o => !(o.count == x.count && o.inner == x.inner)) ∧
      (t.dev.ring x.fn x.ring).done = (r.done + 1) % 2 ^ 32 ∧
      (t.dev.ring x.fn x.ring).notOk = (r.notOk || c.status != 0) ∧
      (c.bit 33 = false → c.bit 34 = false → c.bit 51 = false →
        t.dev = { s.dev with aud := t.dev.aud, funcs := t.dev.funcs } ∧ OtherRings s.dev t.dev x.fn x.ring) ∧
      (∀ ctx pa attr d1, c.bit 33 = true → c.bit 34 = false → c.ctx = some ctx → c.f 175 128 % 32 = 0 →
        s.dev.xlate { rq := { id := 36, part := some c.part, func := x.fn }, unit := 2, index := 0, ctx := ctx } (c.f 175 128) .write =
          (.ok (pa, attr), d1) → 2 ^ 47 ≤ pa → s.dev.masterOk x.fn = true →
        MemorySide (withRing s.dev x.fn x.ring (t.dev.ring x.fn x.ring)) t.dev ∧ t.dev.mem.host = Mem.writeN d1.mem.host (pa - 2 ^ 47)
          (toLe 1 c.status ++ toLe 1 c.op ++ toLe 2 c.inner ++ toLe 4 c.count ++ toLe 8 (c.f 255 192) ++
            toLe 8 s.dev.time.ts ++ toLe 8 c.detail)) ∧
      (∀ p, c.bit 33 = false → c.bit 34 = true → c.ctx = some p → s.dev.tallyOwned c.part (c.f 50 37) = true →
        TallyRule (if c.bit 35 then .add (BitVec.ofNat 64 (c.f 127 64)) else .set (BitVec.ofNat 64 (c.f 127 64))) s.dev.dp.count
          (s.dev.tally (c.f 50 37)) (t.dev.tally (c.f 50 37)) ∧
        ∀ n, n ≠ c.f 50 37 → t.dev.tally n = s.dev.tally n))

/-- WAIT runs until its tally answers, its timeout ends it with TIMEOUT, REARM follows R222; of a tally not owned both are DENIED. BATCH
takes its place in the ring, MAINT and TLB_INV begin their operations, or end at once with nothing to do (07 R270-R272, R278, R279). -/
def Obligations.RingCommandsThatWait : Prop :=
  (∀ (s : State) (x : CmdId) (c : Cmd), Started s.dev x 1 c →
    let n := c.f 333 320
    let target := BitVec.ofNat 64 (c.f 319 256)
    (s.dev.tallyOwned c.part n = true → ∃ t, exec (.wait x) s = .next t ∧ t.pending = s.pending ∧
      t.dev.cmd? x = some { c with phase := .running } ∧ t.dev.tly.tallies = s.dev.tly.tallies ∧
      ((s.dev.tally n).lost = true → t.dev.tly.wakes = s.dev.tly.wakes ++ [⟨.command x, false⟩]) ∧
      ((s.dev.tally n).lost = false → tallyMet (s.dev.tally n).value target = true →
        t.dev.tly.wakes = s.dev.tly.wakes ++ [⟨.command x, true⟩]) ∧
      ((s.dev.tally n).lost = false → tallyMet (s.dev.tally n).value target = false →
        t.dev.tly.waiters = s.dev.tly.waiters ++ [⟨.command x, n, target⟩]) ∧
      RingOnly { s.dev with tly := t.dev.tly, aud := t.dev.aud } t.dev x) ∧
    (s.dev.tallyOwned c.part n = false → ∃ t, exec (.wait x) s = .next t ∧ t.pending = s.pending ∧ Performed t.dev x c 5 0 ∧
      RingOnly { s.dev with aud := t.dev.aud } t.dev x)) ∧
  (∀ (s : State) (x : CmdId) (c : Cmd), s.dev.cmd? x = some c → c.op = 1 → c.phase = .running → c.f 351 336 ≠ 0 →
    c.f 351 336 ≤ c.epochs → ∃ t, exec (.waitTimeout x) s = .next t ∧ t.pending = s.pending ∧
      Performed t.dev x c 3 (s.dev.tally (c.f 333 320)).value.toNat ∧ (∀ w ∈ t.dev.tly.waiters, w.who ≠ .command x) ∧
      t.dev.tly.tallies = s.dev.tly.tallies ∧ RingOnly { s.dev with tly := t.dev.tly } t.dev x) ∧
  (∀ (s : State) (x : CmdId) (c : Cmd), Started s.dev x 2 c →
    let n := c.f 333 320
    (s.dev.tallyOwned c.part n = true → ∃ t, exec (.rearm x) s = .next t ∧ t.pending = s.pending ∧ Performed t.dev x c 0 0 ∧
      TallyRule (.rearm (BitVec.ofNat 64 (c.f 319 256))) s.dev.dp.count (s.dev.tally n) (t.dev.tally n) ∧
      (∀ m, m ≠ n → t.dev.tally m = s.dev.tally m) ∧ TallySide s.dev t.dev) ∧
    (s.dev.tallyOwned c.part n = false → ∃ t, exec (.rearm x) s = .next t ∧ t.pending = s.pending ∧ Performed t.dev x c 5 0 ∧
      RingOnly { s.dev with aud := t.dev.aud } t.dev x)) ∧
  (∀ (s : State) (x : CmdId) (c : Cmd), Started s.dev x 8 c →
    let n := c.f 332 320
    let bad := n = 0 ∨ 4096 < n ∨ c.f 303 256 % 64 ≠ 0 ∨ x.inner ≠ 0
    ∃ t, exec (.batch x) s = .next t ∧ t.pending = s.pending ∧ RingOnly s.dev t.dev x ∧ (bad → Performed t.dev x c 0x10 0) ∧
      (¬ bad → t.dev.cmd? x = some { c with phase := .running, batch := some ⟨c.f 303 256, n, 0⟩ })) ∧
  (∀ (s : State) (x : CmdId) (c : Cmd), Started s.dev x 0x18 c →
    let op := c.f 354 352
    let req := c.f 365 360
    let bad := op = 0 ∨ 4 < op ∨ (req ≠ c.part ∧ req ≠ 16 + c.part)
    ∃ t, exec (.maint x) s = .next t ∧ t.pending = s.pending ∧
      RingOnly { s.dev with mem := { s.dev.mem with maints := t.dev.mem.maints } } t.dev x ∧
      (bad → Performed t.dev x c 0x10 0 ∧ t.dev.mem = s.dev.mem) ∧
      (¬ bad → c.f 343 320 = 0 → Performed t.dev x c 0 0 ∧ t.dev.mem = s.dev.mem) ∧
      (¬ bad → c.f 343 320 ≠ 0 → t.dev.cmd? x = some { c with phase := .running } ∧
        t.dev.mem.maints = s.dev.mem.maints ++ [{
          who := .command x, op := op, ctx := c.ctx.getD 0, dva := c.f 303 256 / 128 * 128, left := c.f 343 320, req := req
          done := 0, conflicts := 0 }])) ∧
  (∀ (s : State) (x : CmdId) (c : Cmd), Started s.dev x 0x19 c →
    let mode := c.f 353 352
    ∃ t, exec (.tlbInv x) s = .next t ∧ t.pending = s.pending ∧
      RingOnly { s.dev with mmu := { s.dev.mmu with invs := t.dev.mmu.invs } } t.dev x ∧
      (mode = 3 → Performed t.dev x c 0x10 0 ∧ t.dev.mmu = s.dev.mmu) ∧
      (mode = 0 → c.f 343 320 = 0 → Performed t.dev x c 0 0 ∧ t.dev.mmu = s.dev.mmu) ∧
      (mode ≠ 3 → ¬ (mode = 0 ∧ c.f 343 320 = 0) → t.dev.cmd? x = some { c with phase := .running } ∧
        t.dev.mmu.invs = s.dev.mmu.invs ++ [{
          mode := if mode = 2 then 3 else mode, ctx := if mode = 2 then x.fn else c.ctx.getD 0, page := c.f 303 256 / 4096
          pages := c.f 343 320, regs := false, cmd := some x }]))

/-- COPY reads its source and writes its destination, where ranges overlap with open bytes; FILL writes its pattern; ENQ allocates an
object, copies the command into it, stores its slot entry and signals the ring's tally; MINT_LOAD loads eight pools. Each completes
with its DETAIL (07 R273-R277, R280; 05 R199-R201). -/
def Obligations.RingCommandsOnMemory : Prop :=
  (∀ (s : State) (x : CmdId) (c : Cmd) (bs : List Byte) (d1 d2 : Dev), Started s.dev x 0x10 c →
    let n := c.f 415 384
    let src := c.f 303 256
    let dst := c.f 367 320
    let a := s.dev.cmdAgent c (c.ctx.getD 0)
    s.dev.agentRead a true src n = (.ok bs, d1) → dst + n ≤ src ∨ src + n ≤ dst → d1.agentWrite a true dst bs = (.ok (), d2) →
    ∃ t, exec (.copy x) s = .next t ∧ t.pending = s.pending ∧ Performed t.dev x c 0 n ∧ t.dev.mem = d2.mem ∧
      t.dev.cores = d2.cores ∧ MemorySide (withRing s.dev x.fn x.ring (t.dev.ring x.fn x.ring)) t.dev) ∧
  (∀ (s : State) (x : CmdId) (c : Cmd) (bs : List Byte) (d1 : Dev), Started s.dev x 0x10 c →
    let n := c.f 415 384
    let src := c.f 303 256
    let dst := c.f 367 320
    let a := s.dev.cmdAgent c (c.ctx.getD 0)
    s.dev.agentRead a true src n = (.ok bs, d1) → src < dst + n → dst < src + n →
    ∃ cs : List Byte, cs.length = n ∧
      (∀ k, k < n → ¬ (src ≤ dst + k ∧ dst + k < src + n) → cs[k]? = bs[k]?) ∧
      ∀ d2, ({ d1 with free := d1.free + n }).agentWrite a true dst cs = (.ok (), d2) →
        ∃ t, exec (.copy x) s = .next t ∧ t.pending = s.pending ∧ Performed t.dev x c 0 n ∧ t.dev.mem = d2.mem) ∧
  (∀ (s : State) (x : CmdId) (c : Cmd) (d1 : Dev), Started s.dev x 0x11 c →
    let n := c.f 415 384
    let dst := c.f 367 320
    s.dev.agentWrite (s.dev.cmdAgent c (c.ctx.getD 0)) true dst
      ((List.range n).map (fun k => BitVec.ofNat 8 (c.f 511 448 / 2 ^ (8 * ((dst + k) % 8))))) = (.ok (), d1) →
    ∃ t, exec (.fill x) s = .next t ∧ t.pending = s.pending ∧ Performed t.dev x c 0 n ∧ t.dev.mem = d1.mem ∧
      MemorySide (withRing s.dev x.fn x.ring (t.dev.ring x.fn x.ring)) t.dev) ∧
  (∀ (s : State) (x : CmdId) (c : Cmd), Started s.dev x 9 c →
    let q := c.f 323 320
    let r := s.dev.ring x.fn q
    let good := c.f 303 256 % 64 = 0 ∧ r.en = true ∧ r.kind = true ∧ r.st = .active ∧ (s.dev.ctx r.ctx).part = c.part
    (¬ good → ∃ t, exec (.enq x) s = .next t ∧ t.pending = s.pending ∧ RingOnly s.dev t.dev x ∧ Performed t.dev x c 0x10 0) ∧
    (good → s.dev.poolFor c.part 2 6 = none →
      ∃ t, exec (.enq x) s = .next t ∧ t.pending = s.pending ∧ RingOnly s.dev t.dev x ∧ Performed t.dev x c 2 0) ∧
    (good → ∀ i obj bs hd d1 d2 d3 d4 d5 d6,
      let a := d1.cmdAgent c (c.ctx.getD 0)
      let res := leNat (hd.take 8)
      s.dev.poolFor c.part 2 6 = some i → s.dev.mintCall c.part i 2 = (some obj, d1) →
      d1.agentRead a true (c.f 303 256) 64 = (.ok bs, d2) →
      d2.agentWrite { a with ctx := (d2.pool c.part i).ctx } true obj bs = (.ok (), d3) →
      d3.agentRead { a with ctx := r.ctx } true (r.base * 4096) 16 = (.ok hd, d4) →
      (((res : Int) - leNat (hd.drop 8)) % (2 ^ 64 : Nat)).toNat < 2 ^ r.log2n →
      d4.agentWrite { a with ctx := r.ctx } true (r.base * 4096) (toLe 8 (res + 1)) = (.ok (), d5) →
      d5.agentWrite { a with ctx := r.ctx } true (r.base * 4096 + 64 + 8 * (res % 2 ^ r.log2n)) (toLe 8 (obj + 16 + i)) = (.ok (), d6) →
      ∃ t, exec (.enq x) s = .next t ∧ t.pending = s.pending ∧ Performed t.dev x c 0 res ∧ t.dev.mem = d6.mem ∧
        t.dev.mint = d6.mint ∧ t.dev.cores = d6.cores ∧
        (d6.tallyOwned c.part r.dbTally = true → TallyRule (.add 1) s.dev.dp.count (d6.tally r.dbTally) (t.dev.tally r.dbTally)))) ∧
  (∀ (s : State) (x : CmdId) (c : Cmd), Started s.dev x 0x1A c →
    (c.f 303 256 % 64 ≠ 0 →
      ∃ t, exec (.mintLoad x) s = .next t ∧ t.pending = s.pending ∧ RingOnly s.dev t.dev x ∧ Performed t.dev x c 0x10 0) ∧
    (∀ bs d1, c.f 303 256 % 64 = 0 → s.dev.agentRead (feAgent x.fn (c.ctx.getD 0)) true (c.f 303 256) 256 = (.ok bs, d1) →
      ∃ t, exec (.mintLoad x) s = .next t ∧ t.pending = s.pending ∧ Performed t.dev x c 0 0 ∧
        t.dev.mint.calls = s.dev.mint.calls ∧
        MemorySide { withRing s.dev x.fn x.ring (t.dev.ring x.fn x.ring) with mint := t.dev.mint } t.dev ∧
        ∀ i, i < 8 →
          let v := leNat ((bs.drop (32 * i)).take 32)
          let p := t.dev.pool c.part i
          (v.testBit 255 = false ∨ poolDescOk v = false → p = Pool.none) ∧
          (p.valid = true → p.users = v / 2 ^ 251 % 16 ∧ p.sizeLog2 = v / 2 ^ 246 % 32 ∧ p.count = v / 2 ^ 136 % 2 ^ 24 ∧
            p.lowWater = v / 2 ^ 160 % 2 ^ 24 ∧ p.base = v % 2 ^ 48 ∧ p.ctx = v / 2 ^ 128 % 256 ∧ p.cursor = 0 ∧
            p.minFree = p.free ∧ p.exhausted = false)))

/-! ### Standing orders and launches (08; 10) -/

/-- SO_INSTALL reads the descriptor, the graph and the first parameter block and installs the order with generation 0 current; SO_REMOVE
takes an idle order away; SO_PATCH changes draft words and SO_SEAL makes the draft the current generation, or is BUSY while every slot
is bound (08 R297-R305). -/
def Obligations.OrdersAreInstalledAndSealed : Prop :=
  (∀ (s : State) (x : CmdId) (c : Cmd), Started s.dev x 0x20 c → s.dev.orderBehind x c = false →
    let o := c.order
    let h := o / 16
    (c.f 303 256 % 64 ≠ 0 ∨ s.dev.holds c.part h = false →
      ∃ t, exec (.soInstall x) s = .next t ∧ t.pending = s.pending ∧ RingOnly s.dev t.dev x ∧ Performed t.dev x c 0x10 0) ∧
    (c.f 303 256 % 64 = 0 → s.dev.holds c.part h = true → Tab.has s.dev.orders o = true →
      ∃ t, exec (.soInstall x) s = .next t ∧ t.pending = s.pending ∧ RingOnly s.dev t.dev x ∧ Performed t.dev x c 0x21 0) ∧
    (c.f 303 256 % 64 = 0 → s.dev.holds c.part h = true → Tab.has s.dev.orders o = false → ∀ bs g ps d1 d2 d3,
      let a := s.dev.orderAgent o c.part (c.ctx.getD 0)
      let v := leNat bs
      let n := v / 2 ^ 352 % 2 ^ 9
      let nodes : List (BitVec 256) := (List.range n).map (fun i => BitVec.ofNat 256 (leNat ((g.drop (32 * i)).take 32)))
      let block := BitVec.ofNat 512 (leNat ps)
      s.dev.agentRead a false (c.f 303 256) 64 = (.ok bs, d1) → d1.badDesc c.part v = false → n ≤ s.dev.freeNodes h →
      d1.agentRead a false (fld v 351 304) (32 * n) = (.ok g, d2) →
      (∀ i w, nodes[i]? = some w → d2.badNode c.part i w = false) → d2.agentRead a false (fld v 303 256) 64 = (.ok ps, d3) →
      ∃ t r, exec (.soInstall x) s = .next t ∧ t.pending = s.pending ∧ Performed t.dev x c 0 0 ∧
        OrderIs s.dev t.dev o r ∧ t.dev.freeNodes h = s.dev.freeNodes h - n ∧ r.part = c.part ∧ r.ctx = c.ctx.getD 0 ∧
        r.nodes = nodes ∧ r.draft = block ∧ r.slots = [(0, ⟨0, 0, block⟩)] ∧ r.cur = 0 ∧ r.seq = 0 ∧ r.queue = [] ∧
        r.arm = none ∧ r.acts = [] ∧ r.log = fld v 447 400 ∧ r.depth = fld v 378 377 ∧ r.stampEn = v.testBit 379 ∧
        t.dev.mem = d3.mem ∧ MemorySide { withRing s.dev x.fn x.ring (t.dev.ring x.fn x.ring) with
          orders := t.dev.orders, nodeFree := t.dev.nodeFree } t.dev)) ∧
  (∀ (s : State) (x : CmdId) (c : Cmd) (r : Order), Ordered s.dev x 0x21 c r →
    let idle := r.arm = none ∧ r.acts = [] ∧ r.queue = []
    (idle → ∃ t, exec (.soRemove x) s = .next t ∧ t.pending = s.pending ∧ Performed t.dev x c 0 0 ∧
      Tab.get? t.dev.orders c.order = none ∧ (∀ j, j ≠ c.order → Tab.get? t.dev.orders j = Tab.get? s.dev.orders j) ∧
      t.dev.freeNodes (c.order / 16) = s.dev.freeNodes (c.order / 16) + r.nodes.length ∧
      RingOnly { s.dev with orders := t.dev.orders, nodeFree := t.dev.nodeFree, tly := t.dev.tly } t.dev x ∧
      t.dev.tly.tallies = s.dev.tly.tallies) ∧
    (¬ idle → ∃ t, exec (.soRemove x) s = .next t ∧ t.pending = s.pending ∧ RingOnly s.dev t.dev x ∧ Performed t.dev x c 0x21 0)) ∧
  (∀ (s : State) (x : CmdId) (c : Cmd) (r : Order), Ordered s.dev x 0x22 c r →
    let n := c.f 278 276
    let w := c.f 275 272
    let bad := 4 < n ∨ 16 < w + n ∨ (n = 0 ∧ c.bit 279 = false)
    ∃ t, exec (.soPatch x) s = .next t ∧ t.pending = s.pending ∧ OrderSide s.dev t.dev ∧ OtherRings s.dev t.dev x.fn x.ring ∧
      (bad → Performed t.dev x c 0x10 0 ∧ t.dev.orders = s.dev.orders) ∧
      (¬ bad → ∃ r' b, OrderIs s.dev t.dev c.order r' ∧ r'.draft = b ∧
        (∀ j, j < 16 → blockWord b j = if w ≤ j ∧ j < w + n then fld (c.f 511 384) (32 * (j - w) + 31) (32 * (j - w))
          else blockWord r.draft j) ∧
        (c.bit 279 = false → r' = { r with draft := b } ∧ Performed t.dev x c 0 r.sealDetail) ∧
        (c.bit 279 = true → ∀ k, r.sealSlot = some k →
          r' = sealedIn r k b ∧ Performed t.dev x c 0 r'.sealDetail) ∧
        (c.bit 279 = true → r.sealSlot = none → r' = { r with draft := b } ∧ Performed t.dev x c 6 r.sealDetail))) ∧
  (∀ (s : State) (x : CmdId) (c : Cmd) (r : Order), Ordered s.dev x 0x23 c r →
    (c.f 303 256 = 0 →
      ∃ t r', exec (.soSeal x) s = .next t ∧ t.pending = s.pending ∧ OrderSide s.dev t.dev ∧ OtherRings s.dev t.dev x.fn x.ring ∧
        OrderIs s.dev t.dev c.order r' ∧
        (∀ k, r.sealSlot = some k → r' = sealedIn r k r.draft ∧ Performed t.dev x c 0 r'.sealDetail) ∧
        (r.sealSlot = none → r' = r ∧ Performed t.dev x c 6 r.sealDetail)) ∧
    (∀ bs d1 k, c.f 303 256 ≠ 0 → c.f 303 256 % 64 = 0 → r.sealSlot = some k →
      s.dev.agentRead (s.dev.orderAgent c.order r.part r.ctx) false (c.f 303 256) 64 = (.ok bs, d1) →
      ∃ t r', exec (.soSeal x) s = .next t ∧ t.pending = s.pending ∧ OrderIs s.dev t.dev c.order r' ∧
        r' = sealedIn r k (BitVec.ofNat 512 (leNat bs)) ∧ Performed t.dev x c 0 r'.sealDetail ∧ t.dev.mem = d1.mem ∧
        MemorySide { withRing s.dev x.fn x.ring (t.dev.ring x.fn x.ring) with orders := t.dev.orders } t.dev))

/-- SO_RUN queues a start request; SO_ARM arms the order, which waits on its trigger, and SO_DISARM disarms it and withdraws triggered
starts; SO_CANCEL aborts the activations that it names and that have not committed, and waits for their end (08 R306-R309). -/
def Obligations.OrdersAreRunArmedAndCancelled : Prop :=
  (∀ (s : State) (x : CmdId) (c : Cmd) (r : Order), Ordered s.dev x 0x24 c r →
    ∃ t, exec (.soRun x) s = .next t ∧ t.pending = s.pending ∧ OrderSide s.dev t.dev ∧ OtherRings s.dev t.dev x.fn x.ring ∧
      t.dev.cmd? x = some { c with phase := .running } ∧
      OrderIs s.dev t.dev c.order { r with queue := r.queue ++ [{
        stamp := c.f 383 320, cmd := some x, reqGen := if c.bit 289 then some (c.f 287 272) else none, triggered := false
        skipped := 0 }] }) ∧
  (∀ (s : State) (x : CmdId) (c : Cmd) (r : Order), Ordered s.dev x 0x25 c r →
    let n := c.f 285 272
    let bad := c.f 447 416 = 0 ∨ s.dev.tallyOwned r.part n = false
    let first := BitVec.ofNat 64 (c.f 511 448)
    ∃ t, exec (.soArm x) s = .next t ∧ t.pending = s.pending ∧
      RingOnly { s.dev with orders := t.dev.orders, tly := t.dev.tly, aud := t.dev.aud } t.dev x ∧
      t.dev.tly.tallies = s.dev.tly.tallies ∧
      (bad → Performed t.dev x c 0x10 0 ∧ t.dev.orders = s.dev.orders ∧ t.dev.tly = s.dev.tly) ∧
      (¬ bad → Performed t.dev x c 0 0 ∧
        OrderIs s.dev t.dev c.order { r with arm := some {
          trigger := n, first := c.f 511 448, step := c.f 447 416, count := c.f 415 384, latest := c.bit 289, k := 0
          starts := 0 } } ∧
        (r.acts.length ≤ r.depth → (s.dev.tally n).lost = false →
          (tallyMet (s.dev.tally n).value first = true → ⟨.trigger c.order, true⟩ ∈ t.dev.tly.wakes) ∧
          (tallyMet (s.dev.tally n).value first = false → ⟨.trigger c.order, n, first⟩ ∈ t.dev.tly.waiters)))) ∧
  (∀ (s : State) (x : CmdId) (c : Cmd) (r : Order), Ordered s.dev x 0x26 c r →
    ∃ t, exec (.soDisarm x) s = .next t ∧ t.pending = s.pending ∧ Performed t.dev x c 0 0 ∧
      RingOnly { s.dev with orders := t.dev.orders, tly := t.dev.tly } t.dev x ∧ t.dev.tly.tallies = s.dev.tly.tallies ∧
      OrderIs s.dev t.dev c.order { r with arm := none, queue := r.queue.filter (fun q => !q.triggered) } ∧
      ∀ w ∈ t.dev.tly.waiters, w.who ≠ .trigger c.order) ∧
  (∀ (s : State) (x : CmdId) (c : Cmd) (r : Order), Ordered s.dev x 0x27 c r →
    let mode := c.f 267 266
    let hit := fun (a : Activation) => a ∈ r.acts ∧ r.committed a = false ∧ (mode = 1 → a.seq = c.f 383 320)
    ∃ t, exec (.soCancel x) s = .next t ∧ t.pending = s.pending ∧
      RingOnly { s.dev with orders := t.dev.orders, tly := t.dev.tly } t.dev x ∧ t.dev.tly.tallies = s.dev.tly.tallies ∧
      (mode = 3 → Performed t.dev x c 0x10 0 ∧ t.dev.orders = s.dev.orders) ∧
      (mode ≠ 3 → ∃ r', OrderIs s.dev t.dev c.order r' ∧
        (mode = 2 → r'.arm = none ∧ r'.queue = r.queue.filter (fun q => !q.triggered)) ∧
        (mode ≠ 2 → r'.arm = r.arm ∧ r'.queue = r.queue) ∧
        ((∀ a, ¬ hit a) → r'.acts = r.acts ∧ Performed t.dev x c 0 0) ∧
        ((∃ a, hit a) → (∃ n, t.dev.cmd? x = some { c with phase := .running, detail := n }) ∧
          ((r.acts.map (·.seq)).Nodup → ∀ a, hit a → ∃ a', r'.act? a.seq = some a' ∧ a'.wait = none ∧
            a'.abort = some (a.abort.getD 1) ∧ x ∈ a'.cancels))))

/-- TRIGGER queues a start at the threshold and moves K on, or disarms after its last start or a lost tally. ACTIVATION_START binds the
current generation to a new activation, or ends a request for another generation with GEN_MISMATCH; ACTIVATION_END unbinds it, writes its
record, signals DONE and ends its command (08 R293, R297, R306, R307, R311). -/
def Obligations.ActivationsStartAndEnd : Prop :=
  (∀ (s : State) (o : Nat) (r : Order) (a : Arming) (met : Bool), s.dev.running = true → Tab.get? s.dev.orders o = some r →
    r.arm = some a → s.dev.tly.wakes.find? (fun w => w.who == TallyWho.trigger o) = some ⟨.trigger o, met⟩ →
    ∃ t, exec (.trigger o) s = .next t ∧ t.pending = s.pending ∧ t.dev.tly.tallies = s.dev.tly.tallies ∧
      t.dev = { s.dev with orders := t.dev.orders, tly := t.dev.tly, aud := t.dev.aud } ∧
      (met = false → OrderIs s.dev t.dev o { r with arm := none } ∧ ∀ w ∈ t.dev.tly.waiters, w.who ≠ .trigger o) ∧
      (met = true → s.dev.tallyOwned r.part a.trigger = true →
        let thr := BitVec.ofNat 64 (a.first + a.k * a.step)
        let j := if a.latest then ((s.dev.tally a.trigger).value - thr).toNat / a.step else 0
        OrderIs s.dev t.dev o { r with
          arm := if a.count ≠ 0 ∧ a.count ≤ a.starts + 1 then none else some { a with k := a.k + j + 1, starts := a.starts + 1 }
          queue := r.queue ++ [{ stamp := (thr.toNat + j * a.step) % 2 ^ 64, cmd := none, reqGen := none, triggered := true,
                                 skipped := min j 65535 }] })) ∧
  (∀ (s : State) (o : Nat) (r : Order) (q : StartReq) (rest : List StartReq), s.dev.running = true →
    Tab.get? s.dev.orders o = some r → r.queue = q :: rest → r.acts.length ≤ r.depth → r.leaving = false →
    let stale := ∃ g, q.reqGen = some g ∧ g ≠ r.curSlot.gen
    (stale → ∃ t, exec (.activationStart o) s = .next t ∧ t.pending = s.pending ∧ OrderSide s.dev t.dev ∧
      OrderIs s.dev t.dev o { r with queue := rest } ∧
      ∀ x c, q.cmd = some x → s.dev.cmd? x = some c → Performed t.dev x c 0x23 r.curSlot.gen) ∧
    (¬ stale → (∀ b, r.arm = some b → s.dev.tallyOwned r.part b.trigger = true) → ∃ t a, exec (.activationStart o) s = .next t ∧ t.pending = s.pending ∧
      t.dev = { s.dev with orders := t.dev.orders, tly := t.dev.tly, aud := t.dev.aud } ∧ t.dev.tly.tallies = s.dev.tly.tallies ∧
      OrderIs s.dev t.dev o { r with
        queue := rest, seq := (r.seq + 1) % 2 ^ 64, acts := r.acts ++ [a]
        slots := Tab.put r.slots r.cur { r.curSlot with refs := r.curSlot.refs + 1 } } ∧
      a.seq = r.seq ∧ a.stamp = q.stamp ∧ a.slot = r.cur ∧ a.gen = r.curSlot.gen ∧ a.nodes = [] ∧ a.wait = none ∧
      a.abort = none ∧ a.cmd = q.cmd ∧ (r.stampEn = false → a.params = r.curSlot.block) ∧
      (r.stampEn = true → q.stamp < 2 ^ 64 → ∀ j, j < 16 → blockWord a.params j =
        if j = 14 then q.stamp % 2 ^ 32 else if j = 15 then q.stamp / 2 ^ 32 else blockWord r.curSlot.block j))) ∧
  (∀ (s : State) (o seq : Nat) (r : Order) (a : Activation), s.dev.running = true → Tab.get? s.dev.orders o = some r →
    r.act? seq = some a → r.ended a = true → a.cancels = [] → r.leaving = false →
    (∀ b, r.arm = some b → s.dev.tallyOwned r.part b.trigger = true) →
    let leave := fun (q : Order) => { q.unbind a.slot with acts := q.acts.filter (fun b => b.seq != seq) }
    let code := if a.abort = none then 0 else 1
    let ends := fun (t : State) =>
      t.pending = s.pending ∧ OrderIs s.dev t.dev o (leave r) ∧
      (∀ x c, a.cmd = some x → s.dev.cmd? x = some c → Performed t.dev x c code (a.gen + 2 ^ 16 * (seq % 2 ^ 48))) ∧
      (r.doneEn = true → a.silent = false → s.dev.tallyOwned r.part r.done = true →
        TallyRule (.add 1) s.dev.dp.count (s.dev.tally r.done) (t.dev.tally r.done)) ∧
      (∀ n, n ≠ r.done ∨ r.doneEn = false → t.dev.tally n = s.dev.tally n)
    (r.log = 0 ∨ a.silent = true → ∃ t, exec (.activationEnd o seq) s = .next t ∧ ends t ∧
      t.dev = { s.dev with orders := t.dev.orders, aud := t.dev.aud, funcs := t.dev.funcs, tly := t.dev.tly, free := t.dev.free }) ∧
    (∀ d1 d2 : Dev, r.log ≠ 0 → a.silent = false →
      d1 = ({ s.dev with orders := Tab.mod s.dev.orders o leave }).countCluster (o / 16) 2 1 →
      d1.agentWrite (s.dev.orderAgent o r.part r.ctx) false ((r.log + 32 * (seq % 2 ^ r.log2n)) % 2 ^ 48)
        (toLe 1 code ++ toLe 1 (a.abort.getD 0) ++ toLe 2 a.skipped ++
          toLe 2 ((a.nodes.filter (fun (e : Nat × NodeSt) => e.2 == NodeSt.complete)).length) ++ toLe 2 a.gen ++ toLe 8 a.seq ++
          toLe 8 a.stamp ++ toLe 8 s.dev.time.ts) = (.ok (), d2) →
      ∃ t, exec (.activationEnd o seq) s = .next t ∧ ends t ∧ t.dev.mem = d2.mem ∧ t.dev.cores = d2.cores))

/-- The lowest startable node of an activation starts: a BARRIER completes at once, a WAIT registers, a SIGNAL sends its operation, a
LAUNCH creates the launch, and a tally not owned aborts a WAIT and is passed by a SIGNAL. A node ends when its tally answers, when its
launch is over, or at its timeout, which aborts the activation (08 R288-R295, R309). -/
def Obligations.NodesOfAnActivation : Prop :=
  ∀ (s : State) (o seq n : Nat) (r : Order) (a : Activation) (w : BitVec 256), s.dev.running = true →
    Tab.get? s.dev.orders o = some r → r.act? seq = some a → r.nodes[n]? = some w →
    let ran := { a with nodes := Tab.put a.nodes n .running }
    let done := { a with nodes := Tab.put a.nodes n .complete,
                         wait := if a.wait.map (·.1) = some n then none else a.wait }
    let own := s.dev.tallyOwned r.part (nf w 45 32)
    (r.startable a n = true → (∀ k, k < n → r.startable a k = false) →
      (nodeKind w = 0 → ∃ t, exec (.nodeStart o seq n) s = .next t ∧ t.pending = s.pending ∧
        t.dev = { s.dev with orders := t.dev.orders } ∧ ActIs s.dev t.dev o seq done) ∧
      (nodeKind w = 2 → own = true → ∃ t, exec (.nodeStart o seq n) s = .next t ∧ t.pending = s.pending ∧
        t.dev = { s.dev with orders := t.dev.orders, tly := t.dev.tly, aud := t.dev.aud } ∧
        ActIs s.dev t.dev o seq { ran with wait := some (n, 0) } ∧ t.dev.tly.tallies = s.dev.tly.tallies ∧
        ((s.dev.tally (nf w 45 32)).lost = false → tallyMet (s.dev.tally (nf w 45 32)).value (a.operand w) = false →
          t.dev.tly.waiters = s.dev.tly.waiters ++ [⟨.node o seq, nf w 45 32, a.operand w⟩])) ∧
      (nodeKind w = 2 → own = false → a.wait = none → ∃ t, exec (.nodeStart o seq n) s = .next t ∧ t.pending = s.pending ∧
        t.dev = { s.dev with orders := t.dev.orders, tly := t.dev.tly, aud := t.dev.aud } ∧
        ActIs s.dev t.dev o seq { a with abort := some 3 }) ∧
      (nodeKind w = 3 → own = true → exec (.nodeStart o seq n) s = .next (withDev s
        { s.dev with
          orders := Tab.mod s.dev.orders o (fun r => r.modAct seq (fun a => { a with nodes := Tab.put a.nodes n .running }))
          tly := { s.dev.tly with ops := s.dev.tly.ops ++ [{
            src := .teller (o / 16), part := r.part, tally := nf w 45 32
            act := if nf w 51 51 = 1 then .add (a.operand w) else .set (a.operand w), answer := .node o seq n, after := [] }] } })) ∧
      (nodeKind w = 3 → own = false → ∃ t, exec (.nodeStart o seq n) s = .next t ∧ t.pending = s.pending ∧
        t.dev = { s.dev with orders := t.dev.orders, aud := t.dev.aud } ∧ ActIs s.dev t.dev o seq done) ∧
      (nodeKind w = 1 →
        let targets := maskOf 64 ((onesOf (BitVec.ofNat 64 (nf w 95 32))).filter (s.dev.holds r.part))
        let regs := 8 * (nf w 181 178 + 2)
        let threads := if nf w 175 144 = 0 then blockWord a.params (nf w 201 198) else nf w 175 144
        let shape := targets ≠ 0 ∧ shapeGroups regs (nf w 189 182) (nf w 192 190) (nf w 197 193) ≠ 0
        (¬ shape → ∃ t j, exec (.nodeStart o seq n) s = .next t ∧ t = { s with dev := { s.dev with faults := s.dev.faults ++ [j] } } ∧
          j.code = 1 ∧ j.unit = 1 ∧ j.index = o / 16 ∧ j.pc = nf w 143 96 ∧ j.part = r.part) ∧
        (shape → threads = 0 → ∃ t, exec (.nodeStart o seq n) s = .next t ∧ t.pending = s.pending ∧
          t.dev = { s.dev with orders := t.dev.orders } ∧ ActIs s.dev t.dev o seq done) ∧
        (shape → threads ≠ 0 → ∃ t k x, exec (.nodeStart o seq n) s = .next t ∧ t.pending = s.pending ∧
          t.dev = { s.dev with orders := t.dev.orders, aud := t.dev.aud, launches := Tab.put s.dev.launches k x } ∧
          Tab.get? s.dev.launches k = none ∧ ActIs s.dev t.dev o seq ran ∧ x.from_ = .node o seq n ∧ x.entry = nf w 143 96 ∧
          x.regs = regs ∧ x.threads = threads ∧ x.groups = (threads + 31) / 32 ∧ x.next = 0 ∧ x.live = 0 ∧
          x.targets = targets ∧ x.params = a.params ∧ x.lsGroup = nf w 189 182 ∧ x.split = nf w 192 190 ∧ x.maxg = nf w 197 193 ∧ x.part = r.part ∧ x.ctx = r.ctx))) ∧
    (nodeKind w = 3 → Tab.get? a.nodes n = some .running → (∀ p ∈ s.dev.tly.ops, p.answer ≠ .node o seq n) →
      ∃ t, exec (.signalComplete o seq n) s = .next t ∧ t.pending = s.pending ∧ t.dev = { s.dev with orders := t.dev.orders } ∧
        ActIs s.dev t.dev o seq done) ∧
    (∀ k, a.wait = some (n, k) → nf w 79 64 ≠ 0 → nf w 79 64 ≤ k → a.abort = none →
      ∃ t, exec (.waitNodeTimeout o seq) s = .next t ∧ t.pending = s.pending ∧
        t.dev = { s.dev with orders := t.dev.orders, tly := t.dev.tly } ∧ t.dev.tly.tallies = s.dev.tly.tallies ∧
        ActIs s.dev t.dev o seq { a with nodes := Tab.del a.nodes n, wait := none, abort := some 2 } ∧
        ∀ u ∈ t.dev.tly.waiters, u.who ≠ .node o seq) ∧
    (∀ l x, Tab.get? s.dev.launches l = some x → x.from_ = .node o seq n → s.dev.launchOver l x = true →
      ∃ t, exec (.launchComplete l) s = .next t ∧ t.pending = s.pending ∧ ActIs s.dev t.dev o seq done ∧
        Tab.get? t.dev.launches l = none ∧ (∀ j, j ≠ l → Tab.get? t.dev.launches j = Tab.get? s.dev.launches j) ∧
        t.dev = { s.dev with orders := t.dev.orders, launches := t.dev.launches, cores := t.dev.cores })

/-- The next group of a launch enters a free slot of a core with room: its live threads form one strand at the entry point, s0 to s15
hold the parameters, and its index is the next (02 R57, R58, R91, R92; 08 R291). A launch that is still running past its partition's
RUN_EPOCHS raises LAUNCH_OVERRUN (10 R366). -/
def Obligations.GroupsAreDispatched : Prop :=
  (∀ (s : State) (l core slot o seq n : Nat) (x : Launch), Tab.get? s.dev.launches l = some x → x.from_ = .node o seq n →
    s.dev.running = true → s.dev.plan.coreOk core = true → (s.dev.core core).stopped = false → s.dev.hasRoom core l = true →
    x.next < x.groups → x.targets.getLsbD (core / 16) = true → 32 * x.next < x.threads →
    (s.dev.core core).lastPart = some x.part → (s.dev.core core).split = x.split →
    slot < 16 → Tab.has (s.dev.core core).groups slot = false → (∀ k, k < slot → Tab.has (s.dev.core core).groups k = true) →
    let live := min 32 (x.threads - 32 * x.next)
    ∃ t st, exec (.groupDispatch l core) s = .next t ∧ t.pending = s.pending ∧
      t.dev = { s.dev with cores := t.dev.cores, launches := t.dev.launches, aud := t.dev.aud } ∧ OneCore core s.dev t.dev ∧
      t.dev.strand? core (s.dev.core core).nextStrand = some st ∧ st.pc = x.entry ∧ st.wait = .ready ∧
      (∀ e, e ∈ st.lanes ↔ e.1 < live ∧ e.2 = slot) ∧
      (t.dev.group core slot).launch = l ∧ (t.dev.group core slot).index = x.next ∧
      (∀ lane j, j < 16 → t.dev.readW core slot lane (0x80 + j) = blockWord x.params j) ∧
      (∀ lane code, code < 0x80 → t.dev.readW core slot lane code = 0) ∧
      Tab.get? t.dev.launches l = some { x with next := x.next + 1, live := x.live + 1 } ∧
      (∀ k, k ≠ slot → t.dev.group core k = s.dev.group core k)) ∧
  (∀ (s : State) (l o seq n : Nat) (x : Launch), Tab.get? s.dev.launches l = some x → x.from_ = .node o seq n →
    s.dev.running = true → (s.dev.part x.part).cfg.runEpochs ≠ 0 → (s.dev.part x.part).cfg.runEpochs < x.epochs →
    ∃ t j, exec (.launchOverrun l) s = .next t ∧ t = { s with dev := { s.dev with faults := s.dev.faults ++ [j] } } ∧
      j.code = 0x0D ∧ j.unit = 1 ∧ j.index = o / 16 ∧ j.part = x.part ∧ j.pc = x.entry)

/-! ### The context ledger (09) -/

/-- LDG_STREAM creates, changes and drops streams, or ends with the status of what is wrong; LDG_EVICT makes entries FREE, or RETIRED
while leases hold them, and waits for those; LDG_RELEASE frees a completed slot with its leases (R323, R337, R338, R341, R342).
LDG_MIGRATE takes new storage and marks a VALID entry MIGRATING; when its copy completes the entry is VALID in the new storage, and
with no lease on the old the command completes with the old address (R343). -/
def Obligations.LedgerEntriesAreEvictedAndMigrated : Prop :=
  ((∀ (s : State) (x : CmdId) (c : Cmd), Started s.dev x 0x30 c → c.f 341 340 ≠ 3 → 6 ≤ c.f 354 350 → c.f 354 350 ≤ 21 →
     c.f 361 357 ≤ 20 →
     let n := c.f 265 256
     ∃ t, exec (.ldgStream x) s = .next t ∧ t.pending = s.pending ∧
       (c.f 341 340 = 0 → LedgerSide s.dev t.dev x ∧ t.dev.ledger.entries = s.dev.ledger.entries ∧
         (∀ m, m ≠ n → Tab.get? t.dev.ledger.streams m = Tab.get? s.dev.ledger.streams m) ∧
         (Tab.has s.dev.ledger.streams n = true → Performed t.dev x c 0x2E 0 ∧ t.dev.ledger = s.dev.ledger) ∧
         (Tab.has s.dev.ledger.streams n = false → Performed t.dev x c 0 0 ∧ ∃ st, Tab.get? t.dev.ledger.streams n = some st ∧
           st.part = c.part ∧ st.ctx = c.ctx.getD 0 ∧ st.set = c.f 349 342 ∧ st.sizeLog2 = c.f 354 350 ∧ st.quota = c.f 383 362 ∧
           st.highBlock = 0 ∧ st.broken = false ∧ st.dropping = false)) ∧
       (c.f 341 340 ≠ 0 → (∀ st, Tab.get? s.dev.ledger.streams n = some st → st.part ≠ c.part) →
         Performed t.dev x c 0x28 0 ∧ RingOnly s.dev t.dev x) ∧
       (∀ st, Tab.get? s.dev.ledger.streams n = some st → st.part = c.part → st.dropping = false →
         (c.f 341 340 = 1 → st.broken = false → Performed t.dev x c 0 (s.dev.ldgInUse n) ∧ LedgerSide s.dev t.dev x ∧
           t.dev.ledger = { s.dev.ledger with
             streams := Tab.put s.dev.ledger.streams n { st with set := c.f 349 342, quota := c.f 383 362 } }) ∧
         (c.f 341 340 = 2 → (∀ e ∈ s.dev.ledger.entries, e.2.stream ≠ n) → Performed t.dev x c 0 0 ∧ LedgerSide s.dev t.dev x ∧
           Tab.get? t.dev.ledger.streams n = none ∧ t.dev.ledger.entries = s.dev.ledger.entries))) ∧
   (∀ (s : State) (x : CmdId) (c : Cmd), Started s.dev x 0x31 c →
     let n := c.f 265 256
     (s.dev.ldgStream c.part n = none →
       ∃ t, exec (.ldgEvict x) s = .next t ∧ t.pending = s.pending ∧ Performed t.dev x c 0x28 0 ∧ RingOnly s.dev t.dev x) ∧
     (∀ st i e, s.dev.ldgStream c.part n = some st → s.dev.ldgRange n (c.f 351 320) (c.f 383 352) = [(i, e)] →
       Tab.get? s.dev.ledger.entries i = some e → s.dev.ledger.migrations = [] → s.dev.ledger.evicts = [] → e.st = .valid →
       ∃ t, exec (.ldgEvict x) s = .next t ∧ t.pending = s.pending ∧
         (e.leases = 0 → e.minted = false → Performed t.dev x c 0 1 ∧ EntryIs s.dev t.dev i none ∧ LedgerSide s.dev t.dev x) ∧
         (0 < e.leases → t.dev.cmd? x = some { c with phase := .running } ∧ EntryIs s.dev t.dev i (some { e with st := .retired }) ∧
           t.dev.ledger.evicts = [{ cmd := x, left := [i], count := 1, drop := none }] ∧ LedgerSide s.dev t.dev x))) ∧
   (∀ (s : State) (x : CmdId) (c : Cmd), Started s.dev x 0x34 c → c.bit 262 = false →
     let q := c.f 261 256
     (∀ k, s.dev.heldSlot c.part q = .error k →
       ∃ t, exec (.ldgRelease x) s = .next t ∧ t.pending = s.pending ∧ Performed t.dev x c k 0 ∧ RingOnly s.dev t.dev x) ∧
     (∀ y it e, s.dev.heldSlot c.part q = .ok y → y.items = [it] → it.leased = true →
       Tab.get? s.dev.ledger.entries it.idx = some e → e.st = .valid → s.dev.ledger.migrations = [] →
       ∃ t, exec (.ldgRelease x) s = .next t ∧ t.pending = s.pending ∧ Performed t.dev x c 0 1 ∧
         Tab.get? t.dev.ledger.queries q = none ∧ EntryIs s.dev t.dev it.idx (some { e with leases := e.leases - 1 }) ∧
         (∀ p, p ≠ q → Tab.get? t.dev.ledger.queries p = Tab.get? s.dev.ledger.queries p) ∧ LedgerSide s.dev t.dev x))) ∧
  ((∀ (s : State) (x : CmdId) (c : Cmd) (st : LStream), Started s.dev x 0x32 c →
     let n := c.f 265 256
     s.dev.ldgStream c.part n = some st → st.broken = false →
     (∀ i e, s.dev.ldgFind n (c.f 351 320) = some (i, e) → Tab.get? s.dev.ledger.entries i = some e → e.st = .valid →
       ∀ host d1, c.f 399 352 ≠ 0 → s.dev.suppliedOk st (c.f 399 352) = (some host, d1) →
       ∃ t m, exec (.ldgMigrate x) s = .next t ∧ t.pending = s.pending ∧ t.dev.cmd? x = some { c with phase := .running } ∧
         EntryIs s.dev t.dev i (some { e with st := .migrating }) ∧ t.dev.ledger.migrations = s.dev.ledger.migrations ++ [m] ∧
         m.cmd = x ∧ m.idx = i ∧ m.addr = c.f 399 352 ∧ m.size = 2 ^ st.sizeLog2 ∧ m.old = e.addr ∧ m.switched = false ∧
         t.dev.ledger.queries = s.dev.ledger.queries ∧
         MemorySide { withRing s.dev x.fn x.ring (t.dev.ring x.fn x.ring) with ledger := t.dev.ledger } t.dev) ∧
     (s.dev.ldgFind n (c.f 351 320) = none →
       ∃ t, exec (.ldgMigrate x) s = .next t ∧ t.pending = s.pending ∧ Performed t.dev x c 0x2A 0 ∧ RingOnly s.dev t.dev x)) ∧
   (∀ (s : State) (k : Nat) (m : LMigration) (e : LEntry) (c : Cmd) (bs : List Byte) (d1 d2 : Dev), s.dev.running = true →
     s.dev.ledger.migrations[k]? = some m → m.switched = false → (∀ y ∈ s.dev.ledger.migrations, y.switched = true → y.slots ≠ []) →
     (s.dev.ledger.migrations.filter (·.switched)).length < 64 → Tab.get? s.dev.ledger.entries m.idx = some e → e.minted = false →
     let a := s.dev.ldgAgent m.part m.ctx (m.idx / 131072)
     s.dev.agentRead a true e.addr m.size = (.ok bs, d1) → d1.agentWrite a true m.addr bs = (.ok (), d2) →
     s.dev.cmd? m.cmd = some c →
     ∃ t, exec (.migrationCopyComplete k) s = .next t ∧ t.pending = s.pending ∧ t.dev.mem = d2.mem ∧ t.dev.cores = d2.cores ∧
       EntryIs s.dev t.dev m.idx (some { e with st := .valid, addr := m.addr, tier := m.tier, minted := m.minted, pool := m.pool }) ∧
       (s.dev.leaseSlots m.idx = [] → Performed t.dev m.cmd c 0 m.old) ∧
       (s.dev.leaseSlots m.idx ≠ [] → t.dev.cmd? m.cmd = some c ∧
         ∃ m' ∈ t.dev.ledger.migrations, m'.idx = m.idx ∧ m'.switched = true ∧ m'.addr = e.addr ∧ m'.slots = s.dev.leaseSlots m.idx)))

/-- A core's requests to the ledger, of one lane: RESERVE makes an entry RESERVED in the storage supplied, COMMIT makes it VALID with its
sketch and LAST_USE and moves HIGH_BLOCK, ABANDON and LEVC make it FREE; each returns its status, and the address where it has one
(R324-R326, R340, R341).
An LQRY of one lane: QUERY takes the lowest free slot for a well-formed descriptor, or is turned away; RELEASE frees a completed slot
of its partition; PRUNE of a record with the slot's query identifier keeps the items it marks (R332, R333, R337, R350). -/
def Obligations.LedgerServesCores : Prop :=
  (∀ (i : Issue) (s : State), Resident s.dev i.core → Numbered s.dev i.core →
     (Issues s.dev i 0x69 → fld (subOf i.word) 15 14 = 0 → fld (subOf i.word) 11 10 ≠ 2 →
       ∃ t st, exec (.linsReserve i) s = .next t ∧ t.pending = s.pending ∧ Arrives s.dev i st ∧
         ∀ e n b, LedgerLane s.dev i st e n b → b < 2 ^ 32 →
           let p := s.dev.strandPart i.core st
           let dva := s.dev.readP i.core e.2 e.1 (srccOf i.word)
           (∀ k, s.dev.insertCheck p n b = .error k → k < 256 →
             GivesLane t.dev i st e 2 (2 ^ 56 * k) ∧ t.dev.ledger = s.dev.ledger) ∧
           (∀ l host d1 j, s.dev.insertCheck p n b = .ok l → srccOf i.word ≠ 0xFF → s.dev.ldgFree = some j →
             (s.dev.arrive i.core i.strand i.word).suppliedOk l dva = (some host, d1) → dva < 2 ^ 48 →
             GivesLane t.dev i st e 2 dva ∧ ∃ x, EntryIs s.dev t.dev j (some x) ∧ x.st = .reserved ∧ x.stream = n ∧ x.block = b ∧
               x.addr = dva ∧ x.minted = false ∧ x.tier = (if host then 1 else 0) ∧ x.leases = 0)) ∧
     (Issues s.dev i 0x69 → fld (subOf i.word) 15 14 = 1 → fld (subOf i.word) 11 10 ≠ 2 →
       ∃ t st, exec (.linsCommit i) s = .next t ∧ t.pending = s.pending ∧ Arrives s.dev i st ∧
         ∀ e n b, LedgerLane s.dev i st e n b → b < 2 ^ 32 →
           let p := s.dev.strandPart i.core st
           (∀ k, s.dev.reservedEntry p n b = .error k → k < 256 →
             GivesLane t.dev i st e 2 (2 ^ 56 * k) ∧ t.dev.ledger = s.dev.ledger) ∧
           (∀ j x l, s.dev.reservedEntry p n b = .ok (j, x) → Tab.get? s.dev.ledger.entries j = some x → x.addr < 2 ^ 48 →
             Tab.get? s.dev.ledger.streams x.stream = some l →
             GivesLane t.dev i st e 2 x.addr ∧ EntryIs s.dev t.dev j (some { x with
               st := .valid, sketch := BitVec.ofNat 128 (s.dev.readN i.core e.2 e.1 (srcbOf i.word) 4)
               lastUse := s.dev.time.epoch % 65536, serial := s.dev.ledger.serial }) ∧
             Tab.get? t.dev.ledger.streams x.stream =
               some { l with highBlock := max l.highBlock (min (x.block + 1) (2 ^ 32 - 1)) })) ∧
     (Issues s.dev i 0x69 → fld (subOf i.word) 15 14 = 2 → fld (subOf i.word) 11 10 ≠ 2 →
       ∃ t st, exec (.linsAbandon i) s = .next t ∧ t.pending = s.pending ∧ Arrives s.dev i st ∧
         ∀ e n b, LedgerLane s.dev i st e n b → b < 2 ^ 32 → s.dev.ledger.migrations = [] → s.dev.ledger.evicts = [] →
           let p := s.dev.strandPart i.core st
           (∀ k, s.dev.reservedEntry p n b = .error k → k < 256 →
             GivesLane t.dev i st e 2 (2 ^ 56 * k) ∧ t.dev.ledger = s.dev.ledger) ∧
           (∀ j x, s.dev.reservedEntry p n b = .ok (j, x) → Tab.get? s.dev.ledger.entries j = some x → x.minted = false →
             x.addr < 2 ^ 48 → GivesLane t.dev i st e 2 x.addr ∧ EntryIs s.dev t.dev j none)) ∧
     (Issues s.dev i 0x6A →
       ∃ t st, exec (.levc i) s = .next t ∧ t.pending = s.pending ∧ Arrives s.dev i st ∧
         ∀ e n b, LedgerLane s.dev i st e n b → b < 2 ^ 32 → s.dev.ledger.migrations = [] → s.dev.ledger.evicts = [] →
           let p := s.dev.strandPart i.core st
           (s.dev.ldgStream p n = none → GivesLane t.dev i st e 1 (2 ^ 24 * 0x28) ∧ t.dev.ledger = s.dev.ledger) ∧
           (∀ l, s.dev.ldgStream p n = some l →
             (s.dev.ldgFind n b = none → GivesLane t.dev i st e 1 (2 ^ 24 * 0x2A) ∧ t.dev.ledger = s.dev.ledger) ∧
             (∀ j x, s.dev.ldgFind n b = some (j, x) → Tab.get? s.dev.ledger.entries j = some x → x.st = .valid →
               GivesLane t.dev i st e 1 0 ∧
               (x.leases = 0 → x.minted = false → EntryIs s.dev t.dev j none) ∧
               (0 < x.leases → EntryIs s.dev t.dev j (some { x with st := .retired })))))) ∧
  (∀ (i : Issue) (s : State), Resident s.dev i.core → Numbered s.dev i.core → Issues s.dev i 0x68 →
     let d0 := s.dev.arrive i.core i.strand i.word
     (fld (subOf i.word) 15 14 = 0 →
       ∃ t st, exec (.lqryQuery i) s = .next t ∧ t.pending = s.pending ∧ Arrives s.dev i st ∧
         ∀ e bs d1, actives s.dev i st = [e] →
           let p := s.dev.strandPart i.core st
           let at_ := s.dev.laneAddr i.core e.2 e.1 i.word 0
           at_ % 64 = 0 → d0.agentRead (d0.coreAgent i.core p (s.dev.strandCtx i.core st)) false at_ 64 = (.ok bs, d1) →
           (queryDescOk (leNat bs) = false → GivesLane t.dev i st e 1 (2 ^ 24 * 0x10) ∧ t.dev.ledger = s.dev.ledger) ∧
           (queryDescOk (leNat bs) = true →
             ((∀ q, q < 64 → Tab.has s.dev.ledger.queries q = true) →
               GivesLane t.dev i st e 1 (2 ^ 24 * 0x2D) ∧ t.dev.ledger = s.dev.ledger) ∧
             (∀ q, q < 64 → Tab.has s.dev.ledger.queries q = false → (∀ k, k < q → Tab.has s.dev.ledger.queries k = true) →
               GivesLane t.dev i st e 1 q ∧ ∃ x, Tab.get? t.dev.ledger.queries q = some x ∧ x.part = p ∧ x.phase = .waiting ∧
                 x.desc = BitVec.ofNat 512 (leNat bs) ∧ x.items = [] ∧
                 (∀ k, k ≠ q → Tab.get? t.dev.ledger.queries k = Tab.get? s.dev.ledger.queries k) ∧
                 t.dev.ledger.entries = s.dev.ledger.entries))) ∧
     (fld (subOf i.word) 15 14 = 1 →
       ∃ t st, exec (.lqryRelease i) s = .next t ∧ t.pending = s.pending ∧ Arrives s.dev i st ∧
         ∀ e, actives s.dev i st = [e] →
           let p := s.dev.strandPart i.core st
           let q := s.dev.readW i.core e.2 e.1 (srcbOf i.word) % 64
           (∀ k, s.dev.heldSlot p q = .error k → k < 256 → GivesLane t.dev i st e 1 (2 ^ 24 * k) ∧ t.dev.ledger = s.dev.ledger) ∧
           (∀ x, s.dev.heldSlot p q = .ok x → x.items = [] → GivesLane t.dev i st e 1 0 ∧ Tab.get? t.dev.ledger.queries q = none ∧
             t.dev.ledger.entries = s.dev.ledger.entries)) ∧
     (fld (subOf i.word) 15 14 = 2 →
       ∃ t st, exec (.lqryPrune i) s = .next t ∧ t.pending = s.pending ∧ Arrives s.dev i st ∧
         ∀ e bs d1 x, actives s.dev i st = [e] →
           let p := s.dev.strandPart i.core st
           let q := s.dev.readW i.core e.2 e.1 (srcbOf i.word) % 64
           let at_ := s.dev.laneAddr i.core e.2 e.1 i.word 0
           at_ % 32 = 0 → d0.agentRead (d0.coreAgent i.core p (s.dev.strandCtx i.core st)) false at_ 32 = (.ok bs, d1) →
           s.dev.heldSlot p q = .ok x →
           (leNat bs / 2 ^ 192 % 2 ^ 64 ≠ x.f 127 64 → GivesLane t.dev i st e 1 (2 ^ 24 * 0x2E) ∧ t.dev.ledger = s.dev.ledger) ∧
           (leNat bs / 2 ^ 192 % 2 ^ 64 = x.f 127 64 → (∀ k, k < x.items.length → (leNat bs).testBit (128 + k) = true) →
             GivesLane t.dev i st e 1 0 ∧ t.dev.ledger.entries = s.dev.ledger.entries ∧ Tab.get? t.dev.ledger.queries q = some x)))

/-- A waiting query joins the sweep with what is then eligible. At its sweep's end, with the eligible entries unchanged, it holds the best
of them by score, block and stream, up to its limit, each with one lease more; it completes once its prefetches may, with its signal
(R328-R331, R334-R336). -/
def Obligations.QueriesSweepAndComplete : Prop :=
  ∀ (s : State) (q : Nat) (x : LQuery), Tab.get? s.dev.ledger.queries q = some x → s.dev.running = true →
    (x.phase = .waiting → (s.dev.ledger.queries.filter (fun e => e.2.phase == .joined)).length < 16 →
      (∀ e ∈ s.dev.ledger.queries, e.2.phase = .waiting →
        ¬ ((e.2.beyond = x.beyond ∧ e.2.order < x.order) ∨ (x.beyond = true ∧ e.2.beyond = false))) →
      ∃ t, exec (.queryJoin q) s = .next t ∧ t.pending = s.pending ∧
        t.dev = { s.dev with ledger := { s.dev.ledger with queries := t.dev.ledger.queries } } ∧
        Tab.get? t.dev.ledger.queries q = some { x with phase := .joined, seen := s.dev.eligibles x } ∧
        ∀ k, k ≠ q → Tab.get? t.dev.ledger.queries k = Tab.get? s.dev.ledger.queries k) ∧
    (x.phase = .joined → x.seen = s.dev.eligibles x → Tab.wf s.dev.ledger.entries = true →
      let good := (s.dev.eligibles x).filter (fun a => decide (x.f 47 40 ≤ a.score))
      ∃ t y, exec (.sweepEnd q) s = .next t ∧ t.pending = s.pending ∧ Tab.get? t.dev.ledger.queries q = some y ∧
        y.phase = .swept ∧ y.scanned = (s.dev.eligibles x).length ∧ y.partial_ = false ∧
        y.items.length = min (x.f 31 25) good.length ∧ y.items.Pairwise Before ∧
        (∀ it ∈ y.items, it.leased = true ∧ ∃ a ∈ good, a.idx = it.idx ∧ a.score = it.score ∧ a.block = it.block) ∧
        (∀ a ∈ good, (∀ it ∈ y.items, it.idx ≠ a.idx) → ∀ it ∈ y.items, a.score ≤ it.score) ∧
        (∀ k e, Tab.get? s.dev.ledger.entries k = some e → ∃ e', Tab.get? t.dev.ledger.entries k = some e' ∧
          ((∃ it ∈ y.items, it.idx = k) → e'.leases = e.leases + 1 ∧ e'.st = e.st ∧ e'.addr = e.addr) ∧
          ((∀ it ∈ y.items, it.idx ≠ k) → e' = e)) ∧
        MemorySide { s.dev with ledger := t.dev.ledger } t.dev) ∧
    (x.phase = .swept → (∀ it ∈ x.items, ∀ l ∈ it.lines, Tab.has s.dev.mem.missRegs l = false) →
      ∃ t, exec (.queryComplete q) s = .next t ∧ t.pending = s.pending ∧
        Tab.get? t.dev.ledger.queries q = some { x with phase := .complete } ∧ t.dev.ledger.entries = s.dev.ledger.entries ∧
        (x.f 49 49 = 1 → s.dev.tallyOwned x.part (x.f 63 50) = true →
          TallyRule (.add 1) s.dev.dp.count (s.dev.tally (x.f 63 50)) (t.dev.tally (x.f 63 50))) ∧
        (∀ n, n ≠ x.f 63 50 → t.dev.tally n = s.dev.tally n))

/-- LDG_TRANSFER exports the VALID and MIGRATING entries of a block range by their images, and imports records until one fails;
LDG_RECONCILE without descriptors breaks every minted entry of the partition; LEDGER_SCRUB counts corrections and breaks the entry or
the stream of an uncorrectable error (R318, R344, R346). -/
def Obligations.LedgerTransfersAndScrubs : Prop :=
  (∀ (s : State) (x : CmdId) (c : Cmd) (st : LStream), Started s.dev x 0x33 c →
    let n := c.f 265 256
    let count := c.f 416 400
    let dva := c.f 399 352
    let a := s.dev.cmdAgent c st.ctx
    1 ≤ count → count ≤ 65536 → dva % 32 = 0 → s.dev.ldgStream c.part n = some st → st.broken = false →
    (∀ (es : List LEntry) (d1 : Dev), c.bit 320 = false → es.length ≤ count →
      (es.Pairwise (fun e f => e.block ≤ f.block) ∧ ∀ e, e ∈ es ↔ ∃ k, (k, e) ∈ s.dev.ledger.entries ∧ e.stream = n ∧
        c.f 479 448 ≤ e.block ∧ (c.f 511 480 = 0 ∨ e.block < c.f 511 480) ∧ (e.st = .valid ∨ e.st = .migrating)) →
      (∀ e f, e ∈ es → f ∈ es → e.block = f.block → e = f) → es.Nodup → (s.dev.ledger.entries.map (·.2)).Nodup →
      s.dev.agentWrite a true dva (es.flatMap (fun e => toLe 32 e.image)) = (.ok (), d1) →
      ∃ t, exec (.ldgTransfer x) s = .next t ∧ t.pending = s.pending ∧ Performed t.dev x c 0 es.length ∧ t.dev.mem = d1.mem ∧
        MemorySide (withRing s.dev x.fn x.ring (t.dev.ring x.fn x.ring)) t.dev) ∧
    (∀ bs d1, c.bit 320 = true → count = 1 → s.dev.agentRead a true dva 32 = (.ok bs, d1) →
      let v := leNat bs
      ∃ t, exec (.ldgTransfer x) s = .next t ∧ t.pending = s.pending ∧
        (∀ k, s.dev.insertCheck c.part n (v / 2 ^ 32 % 2 ^ 32) = .error k → k ≠ 0 →
          Performed t.dev x c k 0 ∧ t.dev.ledger = s.dev.ledger) ∧
        (∀ l host d2 j, s.dev.insertCheck c.part n (v / 2 ^ 32 % 2 ^ 32) = .ok l → s.dev.ldgFree = some j →
          d1.suppliedOk l (fld v 127 86 * 64) = (some host, d2) →
          Performed t.dev x c 0 1 ∧ ∃ e, EntryIs s.dev t.dev j (some e) ∧ e.st = .valid ∧ e.stream = n ∧
            e.block = v / 2 ^ 32 % 2 ^ 32 ∧ e.addr = fld v 127 86 * 64 ∧ e.sketch = BitVec.ofNat 128 (v / 2 ^ 128)))) ∧
  (∀ (s : State) (x : CmdId) (c : Cmd), Started s.dev x 0x35 c → c.f 303 256 % 64 = 0 →
    ((∃ i, i < 8 ∧ (s.dev.pool c.part i).valid = true) →
      ∃ t, exec (.ldgReconcile x) s = .next t ∧ t.pending = s.pending ∧ Performed t.dev x c 0x2E 0 ∧ RingOnly s.dev t.dev x) ∧
    (∀ bs d1, (∀ i, i < 8 → (s.dev.pool c.part i).valid = false) →
      s.dev.agentRead (s.dev.cmdAgent c (c.ctx.getD 0)) true (c.f 303 256) 256 = (.ok bs, d1) →
      (∀ i, i < 8 → (leNat ((bs.drop (32 * i)).take 32)).testBit 255 = false) → Tab.wf s.dev.ledger.entries = true →
      let hit := fun (e : LEntry) => e.st = .valid ∧ e.minted = true ∧ e.pool < 8 ∧
        ∃ l, Tab.get? s.dev.ledger.streams e.stream = some l ∧ l.part = c.part
      ∃ t n, exec (.ldgReconcile x) s = .next t ∧ t.pending = s.pending ∧ Performed t.dev x c 0 (2 ^ 32 * n) ∧
        t.dev.mem = d1.mem ∧ t.dev.ledger.streams = s.dev.ledger.streams ∧
        ∀ k e, Tab.get? s.dev.ledger.entries k = some e → ∃ e', Tab.get? t.dev.ledger.entries k = some e' ∧
          (hit e → e' = { e with st := .broken }) ∧ (¬ hit e → e' = e))) ∧
  (∀ (s : State) (bank : Nat), bank < 16 → s.dev.plan.banks.getLsbD bank = true →
    let row := Tab.get s.dev.ledger.scrub bank 0
    let next := { s.dev.ledger with scrub := Tab.put s.dev.ledger.scrub bank ((row + 1) % 4096) }
    exec (.ledgerScrub bank []) s = .next (withDev s { s.dev with ledger := next }) ∧
    (∀ k e, k < 32 → Tab.get? s.dev.ledger.entries (bank * 131072 + row * 32 + k) = some e → e.st ≠ .migrating →
      ∃ t, exec (.ledgerScrub bank [(k, .uncorrectable)]) s = .next t ∧ t.pending = s.pending ∧
        EntryIs s.dev t.dev (bank * 131072 + row * 32 + k) (some { e with st := .broken }) ∧
        t.dev = { s.dev with ledger := { next with entries := t.dev.ledger.entries }, aud := t.dev.aud }) ∧
    (∀ n st, Tab.get? s.dev.ledger.streams n = some st →
      ∃ t, exec (.ledgerScrub bank [(32 + n, .uncorrectable)]) s = .next t ∧ t.pending = s.pending ∧
        Tab.get? t.dev.ledger.streams n = some { st with broken := true } ∧
        t.dev = { s.dev with ledger := { next with streams := t.dev.ledger.streams } }))

/-! ### Rendering and ray traversal (11, 12) -/

/-- RND_PASS waits behind a pass of its partition, raises RENDER_STATE for a malformed descriptor, or bins its first round; a round ends
by the next round or by the pass's completion, and a dry heap by a flush or by NO_HEAP (11 R380-R383, R389, R391, R409).
The next tile of a round goes to a free core with its quads; a malformed list raises RENDER_STATE. A drained tile's planes are stored
and its core is free; a timeout closes a group of a tile's first quads (11 R392, R394, R396). -/
def Obligations.RenderPassesRunInRoundsAndStoreTiles : Prop :=
  ((∀ (s : State) (x : CmdId) (c : Cmd), Started s.dev x 0x40 c →
     let a := s.dev.tilerAgent c.part (c.ctx.getD 0)
     let desc := c.f 303 256
     (desc % 64 ≠ 0 → ∃ t, exec (.rndPass x) s = .next t ∧ t.pending = s.pending ∧ Performed t.dev x c 0x10 0 ∧ RingOnly s.dev t.dev x) ∧
     (desc % 64 = 0 → Tab.has s.dev.render.passes c.part = true →
       ∃ t, exec (.rndPass x) s = .next t ∧ t.pending = s.pending ∧ t.dev.cmd? x = some { c with phase := .running } ∧
         RingOnly { s.dev with render := { s.dev.render with waiting := s.dev.render.waiting ++ [x] } } t.dev x) ∧
     (desc % 64 = 0 → Tab.has s.dev.render.passes c.part = false → ∀ bs d1, (s.dev.cmdRuns x).agentRead a false desc 192 = (.ok bs, d1) →
       let h := leNat (bs.take 64)
       let targets := (List.range 4).map (fun t => BitVec.ofNat 256 (leNat ((bs.drop (64 + 32 * t)).take 32)))
       let set := maskOf 64 ((onesOf (BitVec.ofNat 64 (fld h 191 128))).filter (s.dev.holds c.part))
       (¬ passOk h targets set → ∃ t j, exec (.rndPass x) s = .next t ∧ t.pending = s.pending ∧ t.dev.faults = d1.faults ++ [j] ∧
         j.code = 0x0E ∧ j.unit = 3 ∧ j.part = c.part ∧ j.addr = desc ∧ t.dev.render = s.dev.render) ∧
       (passOk h targets set → fld h 255 240 = 1 → ∀ r d2 d3,
         let p := newPass x c.part (c.ctx.getD 0) (BitVec.ofNat 512 h) targets set
         ({ d1 with render := { d1.render with texels := Tab.keep d1.render.texels (fun k _ => !set.getLsbD k) } }).readDraw a p 0 =
           (.ok r, d2) → fld r 287 256 = 0 → d2.closeLists { p with draw := 1, final := true } = (.ok (), d3) →
         ∃ t, exec (.rndPass x) s = .next t ∧ t.pending = s.pending ∧ t.dev.cmd? x = some { c with phase := .running } ∧
           t.dev.mem = d3.mem ∧ Tab.get? t.dev.render.passes c.part = some { p with draw := 1, final := true }))) ∧
   (∀ (s : State) (p : Nat) (x : Pass) (c : Cmd), s.dev.running = true → Tab.get? s.dev.render.passes p = some x → x.part = p →
     s.dev.cmd? x.cmd = some c → s.dev.render.waiting = [] → x.pool = none →
     (x.phase = .dry →
       (x.binned = 0 ∨ (x.depthTest = true ∧ x.h 511 464 = 0) →
         ∃ t, exec (.incrementalFlush p) s = .next t ∧ t.pending = s.pending ∧
           Performed t.dev x.cmd c 0x38 (min x.flushes 65535 + 2 ^ 16 * (x.renders % 2 ^ 32)) ∧
           Tab.get? t.dev.render.passes p = none ∧
           RingOnly { s.dev with render := t.dev.render } t.dev x.cmd) ∧
       (¬ (x.binned = 0 ∨ (x.depthTest = true ∧ x.h 511 464 = 0)) → ∀ d1,
         (s.dev.modTil p (fun t => { t with flushes := (t.flushes + 1) % 2 ^ 32 })).closeLists
           { x with flushes := x.flushes + 1, final := false } = (.ok (), d1) →
         ∃ t, exec (.incrementalFlush p) s = .next t ∧ t.pending = s.pending ∧ t.dev.mem = d1.mem ∧
           Tab.get? t.dev.render.passes p =
             some { x with flushes := x.flushes + 1, final := false, phase := .rendering, nextTile := 0 } ∧
           MemorySide { s.dev with render := t.dev.render } t.dev)) ∧
     (x.phase = .rendering → x.tileCount ≤ x.nextTile → (∀ e ∈ s.dev.render.tiles, e.2.part ≠ p) →
       (x.final = true → ∃ t, exec (.roundEnd p) s = .next t ∧ t.pending = s.pending ∧
         Performed t.dev x.cmd c 0 (min x.flushes 65535 + 2 ^ 16 * (x.renders % 2 ^ 32)) ∧
         Tab.get? t.dev.render.passes p = none ∧
         (Tab.get t.dev.render.til p TilPart.zero).passes = ((Tab.get s.dev.render.til p TilPart.zero).passes + 1) % 2 ^ 32 ∧
         RingOnly { s.dev with render := t.dev.render } t.dev x.cmd) ∧
       (x.final = false → ∀ r d2 d3, x.h 255 240 = x.draw + 1 →
         let q := { x with round := x.round + 1, lists := [], binned := 0, chunks := [], segs := 0, nextTile := 0 }
         ({ s.dev with render := { s.dev.render with texels := Tab.keep s.dev.render.texels (fun k _ => !x.set.getLsbD k) } }).readDraw
           (s.dev.tilerAgent p x.ctx) q x.draw = (.ok r, d2) → fld r 287 256 ≤ x.prim →
         d2.closeLists { q with draw := x.draw + 1, prim := 0, final := true } = (.ok (), d3) →
         ∃ t, exec (.roundEnd p) s = .next t ∧ t.pending = s.pending ∧ t.dev.mem = d3.mem ∧
           Tab.get? t.dev.render.passes p = some { q with draw := x.draw + 1, prim := 0, final := true, phase := .rendering })))) ∧
  ((∀ (s : State) (p ci : Nat) (x : Pass) (d1 : Dev), s.dev.running = true → Tab.get? s.dev.render.passes p = some x → x.part = p →
     x.phase = .rendering → x.nextTile < x.tileCount → s.dev.tileCore x = some ci →
     (∀ y, s.dev.renderTile ci x x.nextTile = (.ok y, d1) →
       ∃ t, exec (.tileHandout p) s = .next t ∧ t.pending = s.pending ∧ t.dev.mem = d1.mem ∧ t.dev.launches = d1.launches ∧
         Tab.get? t.dev.render.passes p = some { x with nextTile := x.nextTile + 1 } ∧ Tab.get? t.dev.render.tiles ci = some y ∧
         y.tile = x.nextTile ∧ y.part = p ∧ y.closed = [] ∧ y.nextGroup = 0 ∧
         (∀ k, k ≠ ci → Tab.get? t.dev.render.tiles k = Tab.get? s.dev.render.tiles k)) ∧
     (∀ dva, s.dev.renderTile ci x x.nextTile = (.error (.state dva), d1) →
       ∃ t j, exec (.tileHandout p) s = .next t ∧ t.pending = s.pending ∧ t.dev.faults = d1.faults ++ [j] ∧ j.code = 0x0E ∧
         j.unit = 4 ∧ j.index = ci / 16 ∧ j.addr = dva ∧ Tab.get? t.dev.render.passes p = some { x with phase := .faulted } ∧
         t.dev.render.tiles = s.dev.render.tiles)) ∧
   (∀ (s : State) (p core : Nat) (x : Pass) (y : Tile) (d1 : Dev), s.dev.running = true → Tab.get? s.dev.render.passes p = some x →
     x.part = p → x.phase = .rendering → Tab.get? s.dev.render.tiles core = some y → y.part = p → s.dev.tileDrained y = true →
     s.dev.storeTile (s.dev.pixelAgent p x.ctx (core / 16)) core y.tile x = (.ok (), d1) →
     ∃ t, exec (.tileStored p core) s = .next t ∧ t.pending = s.pending ∧ t.dev.mem = d1.mem ∧
       Tab.get? t.dev.render.tiles core = none ∧ Tab.get? t.dev.render.passes p = some { x with renders := x.renders + 1 } ∧
       (∀ e ∈ y.launches, Tab.get? t.dev.launches e.2 = none) ∧
       (∀ k, k ≠ core → Tab.get? t.dev.render.tiles k = Tab.get? s.dev.render.tiles k)) ∧
   (∀ (s : State) (core : Nat) (y : Tile), s.dev.running = true → Tab.get? s.dev.render.tiles core = some y → y.quads ≠ [] →
     ∃ t n, exec (.groupCloseTimeout core) s = .next t ∧ t.pending = s.pending ∧ 1 ≤ n ∧ n ≤ 8 ∧ n ≤ y.quads.length ∧
       (∀ a ∈ y.quads.take n, ∀ b ∈ y.quads.take n, a.draw = b.draw) ∧
       t.dev = { s.dev with
         free := s.dev.free + 1
         render := { s.dev.render with
           tiles := Tab.put s.dev.render.tiles core
             { y with closed := y.closed ++ [y.quads.take n], quads := y.quads.drop n } } }))

/-- RAYQ faults for a record that is misaligned or outside local store and else blocks until its lanes are accepted; a ray unit accepts a
lane with its eight words, an invalid ray having its result at once; RAYW waits for the queries it names (12 R419-R421, R424).
A line that a ray visits is tested: a malformed one, or a node too deep, raises RAY_STRUCTURE and the ray stands still; else the ray
has its hits, and when nothing is left to visit it is done. A done ray's 32-byte record goes to its local store and the ray leaves; a lane
that waits for it in RAYW goes on (12 R418, R422, R423, R428). -/
def Obligations.RayQueriesAreAcceptedAndReport : Prop :=
  ((∀ (i : Issue) (s : State), Issues s.dev i 0x6C → Resident s.dev i.core →
     ∃ t st, exec (.rayq i) s = .next t ∧ t.pending = s.pending ∧ Arrives s.dev i st ∧ SameRegisters s.dev t.dev i.core ∧
       ∀ e, actives s.dev i st = [e] →
         let dva := s.dev.recordDva i e
         let place := s.dev.onchipPlace i.core e.2 dva 32 true
         (dva % 32 ≠ 0 → Faulted s.dev t.dev i st 4) ∧
         (dva % 32 = 0 → (∀ o, place ≠ some (.ls o)) → Faulted s.dev t.dev i st 8) ∧
         (∀ o, dva % 32 = 0 → place = some (.ls o) → t.dev.strand? i.core i.strand = some { st with wait := .op i.word [e.1] [] } ∧
           CoreSide s.dev t.dev ∧ OneCore i.core s.dev t.dev)) ∧
   (∀ (s : State) (core strand lane slot : Nat) (st : Strand) (w : BitVec 64), s.dev.strand? core strand = some st →
     st.wait = .op w [lane] [] → opcOf w = 0x6C → st.lanes = [(lane, slot)] → s.dev.running = true →
     (s.dev.rays.rays.filter (fun r => r.cluster == core / 16)).length < 1024 →
     let g := s.dev.group core slot
     let ws := (List.range 8).map (fun k => s.dev.readW core slot lane (srcaOf w + k))
     let root := s.dev.readP core slot lane (srcbOf w)
     (∀ r ∈ s.dev.rays.rays, ¬ (r.launch = g.launch ∧ r.gindex = g.index ∧ r.lane = lane ∧ r.qid = fld (subOf w) 15 13)) →
     ∃ t r, exec (.rayAccept core strand) s = .next t ∧ t.pending = s.pending ∧ GoesOn t.dev core strand st ∧
       SameRegisters s.dev t.dev core ∧ OneCore core s.dev t.dev ∧ t.dev.rays.rays = s.dev.rays.rays ++ [r] ∧ r.core = core ∧
       r.launch = g.launch ∧ r.lane = lane ∧ r.words = ws ∧ r.off = s.dev.readW core slot lane (srccOf w) ∧ r.hit = none ∧
       r.fetches = 0 ∧ r.invalid = rayInvalid ws ∧ r.done = rayInvalid ws ∧
       ((subOf w).testBit 10 = true → Tab.get? t.dev.rays.cache (core / 16) = none) ∧
       (rayInvalid ws = false → root / 2 ^ 62 % 4 ≠ 1 ∨ badRef root = true →
         ∃ j, t.dev.faults = s.dev.faults ++ [j] ∧ j.code = 0x0F ∧ j.unit = 5 ∧ j.addr = root / 128 % 2 ^ 41 * 128) ∧
       (rayInvalid ws = true ∨ (root / 2 ^ 62 % 4 = 1 ∧ badRef root = false) → t.dev.faults = s.dev.faults)) ∧
   (∀ (i : Issue) (s : State), Issues s.dev i 0x6D → Resident s.dev i.core →
     ∃ t st, exec (.rayw i) s = .next t ∧ t.pending = s.pending ∧ Arrives s.dev i st ∧ SameRegisters s.dev t.dev i.core ∧
       CoreSide s.dev t.dev ∧ OneCore i.core s.dev t.dev ∧
       let pending := fun (e : Nat × Nat) => ∃ r ∈ s.dev.rays.rays, r.launch = (s.dev.group i.core e.2).launch ∧
         r.gindex = (s.dev.group i.core e.2).index ∧ r.core = i.core ∧ r.lane = e.1 ∧ (subOf i.word).testBit (8 + r.qid) = true
       ((∀ e ∈ actives s.dev i st, ¬ pending e) → WentOn s.dev t.dev i st (st.pc + 8)) ∧
       ((∃ e ∈ actives s.dev i st, pending e) → ∃ s' left, t.dev.strand? i.core i.strand = some s' ∧ s'.pc = st.pc ∧
         s'.wait = .op i.word left [] ∧ ∀ k, k ∈ left ↔ ∃ e ∈ actives s.dev i st, e.1 = k ∧ pending e))) ∧
  ((∀ (s : State) (k : Nat) (r : Ray) (it : RayItem), s.dev.running = true → s.dev.rays.rays[k]? = some r → r.done = false →
     r.stuck = false → r.items = [it] →
     let d0 := { s.dev with free := s.dev.free + 1 }
     let q := { r with items := [] }
     let deep := it.ref / 2 ^ 62 % 4 = 1 ∧ 32 ≤ it.depth
     (deep → ∃ t j, exec (.rayLineArrival k) s = .next t ∧ t.pending = s.pending ∧ t.dev.faults = s.dev.faults ++ [j] ∧ j.code = 0x0F ∧
       t.dev.rays.rays[k]? = some { q with stuck := true } ∧ t.dev.mem = s.dev.mem) ∧
     (¬ deep → ∀ v d1, d0.rayLine q (refDva it.ref) (it.ref / 2 ^ 62 % 4 == 3) = (.ok v, d1) →
       let out := ({ q with fetches := min (r.fetches + 1) (2 ^ 32 - 1) }).step it v d1.free
       (out = none → ∃ t j, exec (.rayLineArrival k) s = .next t ∧ t.pending = s.pending ∧ t.dev.faults = d1.faults ++ [j] ∧
         j.code = 0x0F ∧ j.unit = 5 ∧ j.addr = refDva it.ref ∧ t.dev.rays.rays[k]? = some { q with stuck := true }) ∧
       (∀ r' n, out = some (r', n) → ∃ t r'', exec (.rayLineArrival k) s = .next t ∧ t.pending = s.pending ∧
         t.dev.rays.rays[k]? = some r'' ∧ r''.hit = r'.hit ∧ r''.fetches = r'.fetches ∧ (∀ x ∈ r''.items, x ∈ r'.items) ∧
         (r''.items = [] → r''.done = true) ∧ t.dev.faults = d1.faults ∧ t.dev.mem = d1.mem))) ∧
   (∀ (s : State) (k : Nat) (r : Ray), s.dev.running = true → s.dev.rays.rays[k]? = some r → r.done = true → r.stuck = false →
     ∃ t, exec (.hitRecordWrite k) s = .next t ∧ t.pending = s.pending ∧ t.dev.rays.rays = s.dev.rays.rays.eraseIdx k ∧
       Tab.get t.dev.rays.completed (r.core / 16) 0 = (Tab.get s.dev.rays.completed (r.core / 16) 0 + 1) % 2 ^ 32 ∧
       (s.dev.onchipRead r.core r.launch 32 (.ls r.off) = r.before → t.dev.onchipRead r.core r.launch 32 (.ls r.off) = r.record) ∧
       (∀ n, n < r.off ∨ r.off + 32 ≤ n → placeByte t.dev r.core r.launch (.ls n) 0 = placeByte s.dev r.core r.launch (.ls n) 0) ∧
       (∀ sid st w slot, s.dev.strand? r.core sid = some st → Tab.wf (s.dev.core r.core).strands = true → st.wait = .op w [r.lane] [] →
         opcOf w = 0x6D → st.lanes = [(r.lane, slot)] →
         ({ s.dev with rays := t.dev.rays }).rayPending r.core w r.lane slot = false → GoesOn t.dev r.core sid st)))

/-! ### Sensor ingest and display (13) -/

/-- ING_CONFIG of a port that its partition does not own, or with a bad descriptor, is BAD_COMMAND; else it takes effect at once on an idle
stream and waits for a Frame Start on another (13 R433, R434). A port's link comes up, or goes down with the frames in progress lost. -/
def Obligations.StreamsAreConfigured : Prop :=
  (∀ (s : State) (x : CmdId) (c : Cmd), Started s.dev x 0x50 c →
    let n := c.f 306 304
    let k := c.f 308 307
    let y := s.dev.stream n k
    let desc := c.f 303 256
    let accepted := fun (t : State) (cfg : Option IngCfg) =>
      (y.cfg = none ∨ (s.dev.port n).up = false → y.pend = [] →
        StreamIs s.dev t.dev n k (y.apply cfg) ∧ Performed t.dev x c 0 ((y.apply cfg).delivered % 2 ^ 32)) ∧
      (y.cfg ≠ none → (s.dev.port n).up = true →
        StreamIs s.dev t.dev n k { y with pend := y.pend ++ [{ cmd := x, cfg := cfg }] } ∧
        t.dev.cmd? x = some { c with phase := .running })
    ((s.dev.port n).bound ≠ some c.part → ∃ t, exec (.ingConfig x) s = .next t ∧ t.pending = s.pending ∧
      Performed t.dev x c 0x10 0 ∧ RingOnly s.dev t.dev x) ∧
    ((s.dev.port n).bound = some c.part → c.bit 309 = false → ∃ t, exec (.ingConfig x) s = .next t ∧ t.pending = s.pending ∧
      accepted t none ∧ RingOnly { s.dev with ports := t.dev.ports } t.dev x) ∧
    (∀ bs d1, (s.dev.port n).bound = some c.part → c.bit 309 = true → desc % 64 = 0 →
      s.dev.agentRead (s.dev.cmdAgent c (c.ctx.getD 0)) true desc 64 = (.ok bs, d1) →
      let g : IngCfg := { desc := BitVec.ofNat 512 (leNat bs), ctx := c.ctx.getD 0, part := c.part }
      let good := g.bad = false ∧ s.dev.tallyOwned c.part (g.f 333 320) = true ∧
        (g.desc.toNat.testBit 305 = true → s.dev.tallyOwned c.part (g.f 319 306) = true) ∧ s.dev.streamClash n k g = false
      (¬ good → ∃ t, exec (.ingConfig x) s = .next t ∧ t.pending = s.pending ∧ Performed t.dev x c 0x10 0 ∧
        t.dev.ports = s.dev.ports) ∧
      (good → g.tile = true → s.dev.heldBy c.part g.cluster = true → s.dev.meetsHot g.cluster g.base = false →
        ∃ t, exec (.ingConfig x) s = .next t ∧ t.pending = s.pending ∧ accepted t (some g) ∧
          MemorySide { withRing s.dev x.fn x.ring (t.dev.ring x.fn x.ring) with ports := t.dev.ports } t.dev) ∧
      (good → g.tile = false → ∀ d2, d1.allMapped (d1.ingAgent n g) (pagesOf g.base g.span) = (true, d2) →
        ∃ t, exec (.ingConfig x) s = .next t ∧ t.pending = s.pending ∧ accepted t (some g) ∧
          MemorySide { withRing s.dev x.fn x.ring (t.dev.ring x.fn x.ring) with ports := t.dev.ports } t.dev) ∧
      (good → g.tile = false → ∀ d2, d1.allMapped (d1.ingAgent n g) (pagesOf g.base g.span) = (false, d2) →
        ∃ t, exec (.ingConfig x) s = .next t ∧ t.pending = s.pending ∧ Performed t.dev x c 0x10 0 ∧ t.dev.ports = s.dev.ports))) ∧
  (∀ (s : State) (n p : Nat), n < 8 → (s.dev.port n).bound = some p → (s.dev.port n).up = false → s.dev.mgmt.reqs = [] →
    exec (.csi2LinkUp n) s = .next (withDev s { s.dev with ports := Tab.put s.dev.ports n { s.dev.port n with up := true } })) ∧
  (∀ (s : State) (n k : Nat) (c : IngCfg) (f : InFrame), n < 8 → OnlyStream s.dev n k c → (s.dev.stream n k).frame = some f →
    ∃ t, exec (.csi2LinkDown n) s = .next t ∧ t.pending = s.pending ∧ t.dev = { s.dev with ports := t.dev.ports } ∧
      (t.dev.port n).up = false ∧ t.dev.stream n k = { s.dev.stream n k with
        frame := none, dropOther := min ((s.dev.stream n k).dropOther + 1) (2 ^ 16 - 1) } ∧
      ∀ m, m ≠ n → t.dev.port m = s.dev.port m)

/-- A Frame Start at an enabled stream begins frame i, which is written when a buffer is empty, or is only counted during a frame; a line
is written at its place or sets LONG past the last; Frame End and the timeout signal FULL with i + 1 (13 R434-R439). -/
def Obligations.FramesAreReceived : Prop :=
  ∀ (s : State) (n k : Nat) (c : IngCfg), OnlyStream s.dev n k c →
    let y := s.dev.stream n k
    (∀ num, c.vc < 16 →
      (y.frame = none → ∃ t f, exec (.frameStart n c.vc num) s = .next t ∧ t.pending = s.pending ∧
        (t.dev.stream n k).frame = some f ∧ (t.dev.stream n k).frames = (y.frames + 1) % 2 ^ 32 ∧
        (t.dev.stream n k).delivered = y.delivered ∧ f.index = y.delivered ∧ f.num = num % 65536 ∧ f.y = 0 ∧
        (∃ j, j ≤ 4 ∧ f.start = (s.dev.time.ts + j) % 2 ^ 64) ∧
        (s.dev.running = true → c.tile = false →
          (c.desc.toNat.testBit 305 = false → f.written = true) ∧
          (c.desc.toNat.testBit 305 = true → s.dev.tallyOwned c.part (c.f 319 306) = true → c.bufs ≤ y.delivered →
            f.written = serialGe (s.dev.tally (c.f 319 306)).value.toNat ((y.delivered + 1 - c.bufs) % 2 ^ 64) 64)) ∧
        (f.written = false → s.dev.running = true → c.tile = false →
          (t.dev.stream n k).dropFull = min (y.dropFull + 1) (2 ^ 16 - 1)) ∧
        t.dev = { s.dev with ports := t.dev.ports, aud := t.dev.aud, free := s.dev.free + 1 }) ∧
      (y.frame ≠ none → ∃ t, exec (.frameStart n c.vc num) s = .next t ∧ t.pending = s.pending ∧
        t.dev = { s.dev with ports := t.dev.ports } ∧ StreamIs s.dev t.dev n k { y with frames := (y.frames + 1) % 2 ^ 32 })) ∧
    (∀ f bs crc, y.frame = some f →
      let px := 8 * bs.length / max 1 (dtBits c.dt)
      let f' := { f with
        y := f.y + 1, lines := f.lines + 1, crcErrs := min (f.crcErrs + (if crc then 1 else 0)) (2 ^ 16 - 1)
        widthErr := f.widthErr || px != c.width }
      (∃ t, exec (.linePacket n c.vc c.dt bs crc true) s = .next t ∧ t.pending = s.pending ∧
        t.dev = { s.dev with ports := t.dev.ports } ∧ StreamIs s.dev t.dev n k { y with frame := some { f with hdrLost := true } }) ∧
      (f.written = true → c.height ≤ f.y → ∃ t, exec (.linePacket n c.vc c.dt bs crc false) s = .next t ∧ t.pending = s.pending ∧
        t.dev = { s.dev with ports := t.dev.ports } ∧
        StreamIs s.dev t.dev n k { y with frame := some { f with y := f.y + 1, long := true } }) ∧
      (f.written = true → f.y < c.height → c.out = 0 → c.tile = true → TilesOk s.dev →
        ∃ t, exec (.linePacket n c.vc c.dt bs crc false) s = .next t ∧ t.pending = s.pending ∧
          StreamIs s.dev t.dev n k { y with frame := some f' } ∧
          t.dev = { s.dev with ports := t.dev.ports, aud := t.dev.aud, mem := { s.dev.mem with tile := t.dev.mem.tile } } ∧
          (∀ j, j < (bs.take c.lineSize).length → Mem.read (Tab.get t.dev.mem.tile c.cluster []) (c.buffer f.index + f.y * c.pitch + j) =
            (bs.take c.lineSize).getD j 0) ∧
          (∀ cl a, cl ≠ c.cluster ∨ a < c.buffer f.index + f.y * c.pitch ∨
            c.buffer f.index + f.y * c.pitch + (bs.take c.lineSize).length ≤ a →
            Mem.read (Tab.get t.dev.mem.tile cl []) a = Mem.read (Tab.get s.dev.mem.tile cl []) a)) ∧
      (f.written = true → f.y < c.height → c.out ≤ 1 → c.tile = false → ∀ d1,
        ({ s.dev with ports := Tab.put s.dev.ports n { s.dev.port n with
            streams := Tab.put (s.dev.port n).streams k { y with frame := some f' } } }).agentWrite (s.dev.ingAgent n c) true
          (c.buffer f.index + f.y * c.pitch)
          (if c.out = 0 then bs.take c.lineSize else ((rawSamples c.dt bs).take c.width).flatMap (toLe 2)) = (.ok (), d1) →
        ∃ t, exec (.linePacket n c.vc c.dt bs crc false) s = .next t ∧ t.pending = s.pending ∧ t.dev.mem = d1.mem ∧
          StreamIs s.dev t.dev n k { y with frame := some f' }) ∧
      (f.written = true → c.out ≤ 1 → c.f 511 464 = 0 → s.dev.tallyOwned c.part (c.f 333 320) = true →
        let ended := fun (t : State) => t.pending = s.pending ∧
          StreamIs s.dev t.dev n k { y with frame := none, delivered := f.index + 1 } ∧
          TallyRule (.set (BitVec.ofNat 64 (f.index + 1))) s.dev.dp.count (s.dev.tally (c.f 333 320)) (t.dev.tally (c.f 333 320)) ∧
          (∀ m, m ≠ c.f 333 320 → t.dev.tally m = s.dev.tally m) ∧ t.dev.mem = s.dev.mem ∧ t.dev.cores = s.dev.cores
        (∃ t, exec (.frameEnd n c.vc) s = .next t ∧ ended t) ∧
        (2 ≤ f.boundaries → ∃ t, exec (.frameTimeout n k) s = .next t ∧ ended t)))

/-- CMP_COMMIT with a bad layer, source or binding is BAD_COMMAND; else its layers take effect at once on a stopped engine and wait for
the latch of another, as CMP_COEF and CMP_STRONG do. At the latch what waits takes effect and completes (13 R444, R445, R449-R452). -/
def Obligations.CompositionIsCommittedAndLatched : Prop :=
  (∀ (s : State) (x : CmdId) (c : Cmd), Started s.dev x 0x58 c →
    let e := c.f 304 304
    let g := s.dev.engine e
    let ls := (List.range 7).filter (fun k => c.bit (306 + k))
    let desc := c.f 303 256
    (ls = [] ∨ desc % 64 ≠ 0 ∨ (∃ l ∈ ls, Tab.get? g.bound l ≠ some c.part) → ∃ t, exec (.cmpCommit x) s = .next t ∧
      t.pending = s.pending ∧ Performed t.dev x c 0x10 0 ∧ RingOnly s.dev t.dev x) ∧
    (ls ≠ [] → desc % 64 = 0 → (∀ l ∈ ls, Tab.get? g.bound l = some c.part) → ∀ tl d1,
      s.dev.readLayers (s.dev.cmdAgent c (c.ctx.getD 0)) c.part (c.ctx.getD 0) desc ls = (.ok tl, d1) →
      let rejected := ∃ t, exec (.cmpCommit x) s = .next t ∧ t.pending = s.pending ∧ Performed t.dev x c 0x10 0 ∧
        t.dev.engines = s.dev.engines ∧ EngineSide s.dev t.dev
      ((∃ l ∈ tl, l.2.bad g = true) → rejected) ∧
      ((∀ l ∈ tl, l.2.bad g = false) → ∀ d2, d1.layersMapped e tl = (false, d2) → rejected) ∧
      ((∀ l ∈ tl, l.2.bad g = false) → ∀ d2, d1.layersMapped e tl = (true, d2) →
        ∃ t, exec (.cmpCommit x) s = .next t ∧ t.pending = s.pending ∧ EngineSide s.dev t.dev ∧
          (∀ k, k ≠ e → t.dev.engine k = s.dev.engine k) ∧
          (g.running = true → t.dev.engine e = { g with commits := g.commits ++ [⟨x, tl⟩] } ∧
            t.dev.cmd? x = some { c with phase := .running }) ∧
          (g.running = false → t.dev.engine e = { g with layers := (t.dev.engine e).layers } ∧
            (∀ l ∈ tl, Tab.get? (t.dev.engine e).layers l.1 = some l.2) ∧
            (∀ l, l ∉ ls → Tab.get? (t.dev.engine e).layers l = Tab.get? g.layers l) ∧
            Performed t.dev x c 0 ((g.refresh + 1) % 2 ^ 32))))) ∧
  (∀ (s : State) (x : CmdId) (c : Cmd), Started s.dev x 0x59 c →
    let e := c.f 304 304
    let addr := c.f 303 256
    (x.fn ≠ 0 ∨ addr % 64 ≠ 0 → ∃ t, exec (.cmpCoef x) s = .next t ∧ t.pending = s.pending ∧ Performed t.dev x c 0x10 0 ∧
      RingOnly s.dev t.dev x) ∧
    (x.fn = 0 → addr % 64 = 0 → ∀ bs d1, s.dev.agentRead (s.dev.cmdAgent c (c.ctx.getD 0)) true addr 1536 = (.ok bs, d1) →
      ∃ t, exec (.cmpCoef x) s = .next t ∧ t.pending = s.pending ∧ EngineSide s.dev t.dev ∧ t.dev.mem = d1.mem ∧
        (readCoefs bs = none → Performed t.dev x c 0x10 0 ∧ t.dev.engines = s.dev.engines) ∧
        (∀ k, readCoefs bs = some k → t.dev.cmd? x = some { c with phase := .running } ∧
          t.dev.engines = (withEngine s.dev e { s.dev.engine e with
            coefPend := (s.dev.engine e).coefPend ++ [⟨x, c.f 306 305, k⟩] }).engines))) ∧
  (∀ (s : State) (x : CmdId) (c : Cmd), Started s.dev x 0x5A c →
    let e := c.f 304 304
    let g := s.dev.engine e
    let waits := fun (t : State) (m : Mem) (crc : Nat) => t.dev.cmd? x = some { c with phase := .running } ∧
      t.dev.engines = (withEngine s.dev e { g with strongPend := g.strongPend ++ [⟨x, c.raw, m, crc⟩] }).engines
    (s.dev.safety? ≠ some c.part ∨ c.bit 305 = true ∧ strongBad g c.raw = true → ∃ t, exec (.cmpStrong x) s = .next t ∧
      t.pending = s.pending ∧ Performed t.dev x c 0x10 0 ∧ RingOnly s.dev t.dev x) ∧
    (s.dev.safety? = some c.part → c.bit 305 = false → ∃ t, exec (.cmpStrong x) s = .next t ∧ t.pending = s.pending ∧
      waits t [] 0 ∧ RingOnly { s.dev with engines := t.dev.engines } t.dev x) ∧
    (s.dev.safety? = some c.part → c.bit 305 = true → strongBad g c.raw = false → ∀ bs d1,
      s.dev.readRows (s.dev.cmpAgent e c.part (c.ctx.getD 0)) (c.f 303 256) (c.f 431 414) (4 * c.f 413 402)
        (List.range (c.f 401 390)) = (.ok bs, d1) →
      ∃ t, exec (.cmpStrong x) s = .next t ∧ t.pending = s.pending ∧ EngineSide s.dev t.dev ∧ t.dev.mem = d1.mem ∧
        (crc32 bs ≠ c.f 463 432 → Performed t.dev x c 0x3A (crc32 bs) ∧ t.dev.engines = s.dev.engines) ∧
        (crc32 bs = c.f 463 432 → waits t (Mem.writeN [] 0 bs) (crc32 bs)))) ∧
  (∀ (s : State) (e : Nat) (k : Commit) (w : CoefLoad) (l : StrongLoad) (ck cw cl : Cmd),
    let g := s.dev.engine e
    e < 2 → s.dev.mgmt.thermTrip = false → g.running = true → g.scanning = true → g.latched = false → g.vact ≤ g.line + 4 →
    g.stopping = false → s.dev.mgmt.reqs = [] → g.commits = [k] → g.coefPend = [w] → g.strongPend = [l] →
    Tab.wf k.layers = true → s.dev.cmd? k.cmd = some ck → s.dev.cmd? w.cmd = some cw → s.dev.cmd? l.cmd = some cl →
    k.cmd ≠ w.cmd → k.cmd ≠ l.cmd → w.cmd ≠ l.cmd →
    ∃ t, exec (.latch e) s = .next t ∧ t.pending = s.pending ∧ EngineSide s.dev t.dev ∧
      (∀ j, j ≠ e → t.dev.engine j = s.dev.engine j) ∧
      (let h := t.dev.engine e
       h.commits = [] ∧ h.coefPend = [] ∧ h.strongPend = [] ∧ h.latched = true ∧ h.line = g.line ∧ h.refresh = g.refresh ∧
       (∀ j a, Tab.get? k.layers j = some a → Tab.get? h.layers j = some a) ∧
       (∀ j, Tab.get? k.layers j = none → (Tab.get? h.layers j).map (fun a => { a with fillNow := false }) =
         (Tab.get? g.layers j).map (fun a => { a with fillNow := false })) ∧
       Tab.get? h.coefs w.set = some w.coefs ∧ (∀ j, j ≠ w.set → Tab.get? h.coefs j = Tab.get? g.coefs j) ∧
       (l.body.toNat.testBit 305 = false → h.strong = none ∧ h.banks = g.banks) ∧
       (l.body.toNat.testBit 305 = true → h.strong = some l.body ∧ h.strongFail = false ∧
         Tab.get? h.banks h.strongBank = some l.content ∧ h.strongBank = 1 - g.strongBank)) ∧
      Performed t.dev k.cmd ck 0 ((g.refresh + 1) % 2 ^ 32) ∧ Performed t.dev w.cmd cw 0 0 ∧ Performed t.dev l.cmd cl 0 l.crc)

/-- A refresh starts on a running engine that is between refreshes, in command mode on the tearing-effect edge where it has one; each line
then goes out in turn, BG where no layer shows; a late line counts in UNDERRUN; the strongroom check sets STRONG_FAIL and counts, or
signals (13 R443, R446, R453, R455, R456). -/
def Obligations.RefreshesRunAndAreChecked : Prop :=
  (∀ (s : State) (e : Nat), e < 2 → s.dev.mgmt.thermTrip = false →
    let g := s.dev.engine e
    let waitsForEdge := g.mode.toNat.testBit 254 = true ∧ g.mode.toNat.testBit 248 = true ∧ g.te = false
    (g.running = true → g.scanning = false → g.stopping = false → ¬ waitsForEdge →
      exec (.refreshStart e) s = .next (withDev s (withEngine s.dev e { g with
        refresh := (g.refresh + 1) % 2 ^ 64, scanning := true, latched := false, line := 0, ahead := [], te := false
        failShown := g.strongFail, checked := false
        layers := g.layers.map (fun l => (l.1, { l.2 with fillNow := false })) }))) ∧
    (g.running = false ∨ g.scanning = true ∨ g.stopping = true ∨ waitsForEdge → exec (.refreshStart e) s = .next s)) ∧
  (∀ (s : State) (e : Nat) (late : Bool), e < 2 → s.dev.mgmt.thermTrip = false → s.dev.mgmt.bring.wild = false →
    let g := s.dev.engine e
    g.scanning = true → g.line < g.vact → (g.latched = false ∨ g.line + 1 < g.vact) →
    (∀ px, Tab.get? g.ahead g.line = some px → exec (.outputLineStart e late) s = .next (withDev s
      { withEngine s.dev e { g with line := g.line + 1, ahead := Tab.del g.ahead g.line } with
        sent := s.dev.sent ++ [.line e g.line px] })) ∧
    (Tab.get? g.ahead g.line = none → ∃ t px, exec (.outputLineStart e late) s = .next t ∧ t.pending = s.pending ∧
      EngineSide s.dev t.dev ∧ (∃ o, t.dev.sent = s.dev.sent ++ o ++ [.line e g.line px]) ∧ px.length = g.hact ∧
      (∀ k, k ≠ e → t.dev.engine k = s.dev.engine k) ∧
      t.dev.engine e = { g with
        line := g.line + 1, ahead := (t.dev.engine e).ahead, layers := (t.dev.engine e).layers
        underrun := if late then min (g.underrun + 1) (2 ^ 16 - 1) else g.underrun } ∧
      (g.layers = [] → g.strong = none → ∀ v ∈ px, v = background g))) ∧
  (∀ (s : State) (e p : Nat) (b : BitVec 512) (contentErr outputErr : Bool), e < 2 → s.dev.safety? = some p →
    let g := s.dev.engine e
    let n := fld b.toNat 479 466
    g.strong = some b → g.running = true → g.checked = false → g.refresh ≠ 0 →
    (CheckFails g b contentErr outputErr → exec (.strongroomCheck e contentErr outputErr) s =
      .next (withDev s (counted (withEngine s.dev e { g with checked := true, strongFail := true }) (0x70200 + 64 * p + 48)))) ∧
    (¬ CheckFails g b contentErr outputErr → b.toNat.testBit 465 = false → exec (.strongroomCheck e contentErr outputErr) s =
      .next (withDev s (withEngine s.dev e { g with checked := true }))) ∧
    (¬ CheckFails g b contentErr outputErr → b.toNat.testBit 465 = true → s.dev.tallyOwned p n = true →
      ∃ t, exec (.strongroomCheck e contentErr outputErr) s = .next t ∧ t.pending = s.pending ∧
        TallySide (withEngine s.dev e { g with checked := true }) t.dev ∧ (∀ m, m ≠ n → t.dev.tally m = s.dev.tally m) ∧
        TallyRule (.set (BitVec.ofNat 64 g.refresh)) s.dev.dp.count (s.dev.tally n) (t.dev.tally n))) ∧
  (∀ (s : State) (gpio : Nat), ∃ t, exec (.tearingEffect gpio) s = .next t ∧ t = withDev s { s.dev with engines := t.dev.engines } ∧
    ∀ e, e < 2 →
      let g := s.dev.engine e
      t.dev.engine e = if g.running = true ∧ g.scanning = false ∧ g.mode.toNat.testBit 254 = true ∧ g.mode.toNat.testBit 248 = true ∧
        fld g.mode.toNat 247 244 = gpio then { g with te := true } else g)

/-! ### Mailbox messages (14) -/

/-- A write of GO copies the request slot, or is discarded while BUSY. The checks of a message come in the order of R466: an undefined one
is UNKNOWN_MESSAGE, one of firmware before READY NOT_READY, one of another function than the physical DENIED, one of another length BAD_LENGTH,
one with a reserved byte that is not 0 BAD_FIELD. A notice tail moves within the eight slots (14 R462, R466, R470, R471). -/
def Obligations.RequestsAreCheckedInOrder : Prop :=
  (∀ (s : State) (f v : Nat), f < 16 → s.dev.hostOk f = true → s.dev.clocked = true → s.dev.mgmt.bring.st ≠ .romStart →
    s.dev.mgmt.fw.dead = false → v.testBit 31 = true →
    let u := s.dev.func f
    (u.mbx.busy = true → exec (.registerWrite ⟨f, .bar0 0x1200 4, v⟩) s = .next (withDev s (counted s.dev (0x70000 + 32 * f)))) ∧
    (u.mbx.busy = false → exec (.registerWrite ⟨f, .bar0 0x1200 4, v⟩) s = .next (withDev s { s.dev with
      funcs := Tab.put s.dev.funcs f { u with mbx := { u.mbx with busy := true } }
      mgmt := { s.dev.mgmt with reqs := s.dev.mgmt.reqs ++ [{
        fn := f, bytes := (List.range 32).flatMap (fun i => toLe 8 (Tab.get u.mbx.req i 0)), accepted := false, phase := 0
        waited := 0, live := true }] } }))) ∧
  (∀ (s : State) (f v : Nat), f < 16 →
    let u := s.dev.func f
    let used := (((u.mbx.head : Int) - (v % 2 ^ 32 : Nat)) % (2 ^ 32 : Nat)).toNat
    (used ≤ 8 → exec (.noticeTailWrite f v) s = .next (withDev s { s.dev with
      funcs := Tab.put s.dev.funcs f { u with mbx := { u.mbx with tail := v % 2 ^ 32 } } })) ∧
    (8 < used → exec (.noticeTailWrite f v) s = .next (withDev s (counted s.dev (0x70000 + 32 * f))))) ∧
  (∀ (s : State) (f k : Nat) (r : MbxReq), s.dev.mailServed = true → s.dev.mgmt.reqs[k]? = some r →
    s.dev.mgmt.reqs.findIdx? (fun q => q.fn == f && !q.accepted && !msgDefined q.msg) = some k →
    ∃ t, exec (.unknownMessage f) s = .next t ∧ t.pending = s.pending ∧ AnswersWith s.dev t.dev k r 1 0 []) ∧
  (∀ row ∈ readyRows, ∀ (s : State) (f k : Nat) (r : MbxReq), Asked s.dev f row.1 k r →
    let answers := fun (st : Nat) => ∃ t, exec (row.2.1 f) s = .next t ∧ t.pending = s.pending ∧ AnswersWith s.dev t.dev k r st 0 []
    (s.dev.isReady = false → answers 7) ∧
    (s.dev.isReady = true → row.2.2 = true → f ≠ 0 → answers 4) ∧
    (s.dev.isReady = true → f = 0 → ∀ n, lenOf row.1 = some n → r.len ≠ n → answers 2) ∧
    (s.dev.isReady = true → f = 0 → ∀ n, lenOf row.1 = some n → r.len = n →
      (∃ i, n ≤ i ∧ i < 240 ∧ payloadByte r i ≠ 0) → answers 3))

/-- GET_VERSION, GET_STATE and GET_FLOORPLAN answer with the part's data; FW_LOAD reads an image that IMAGE_VERIFY starts or refuses;
SVN_COMMIT burns the SVN of the image, KEY_REVOKE a key below its own; DOE serves discovery, certificates and evidence (14 R471, R484-R494;
15 R503). -/
def Obligations.InformationFirmwareAndAttestation : Prop :=
  (∀ (s : State) (f k : Nat) (r : MbxReq), Asked s.dev f 1 k r → r.len = 0 → r.reservedOk [] = true →
    ∃ t v key digest, exec (.getVersion f) s = .next t ∧ t.pending = s.pending ∧
      AnswersWith s.dev t.dev k r 0 0 (toLe 4 Config.romVersion ++ v ++ toLe 1 s.dev.fuses.fusedSvn ++ toLe 1 key ++ toLe 1 1 ++
        toLe 2 s.dev.fuses.revoked.toNat ++ toLe 2 0 ++ digest) ∧ v.length = 5 ∧ digest.length = 64 ∧
      ∀ h, s.dev.mgmt.fw.header = some h →
        v = toLe 4 (fld h.toNat 159 128) ++ toLe 1 (fld h.toNat 15 8) ∧ key = fld h.toNat 23 16 ∧ digest = headerDigest h) ∧
  (∀ (s : State) (f k : Nat) (r : MbxReq), Asked s.dev f 2 k r → r.len = 0 → r.reservedOk [] = true →
    ∃ t, exec (.getState f) s = .next t ∧ t.pending = s.pending ∧
      AnswersWith s.dev t.dev k r 0 0 (toLe 1 s.dev.stateCode ++ toLe 1 s.dev.stateFlags ++ toLe 2 0 ++ toLe 4 s.dev.time.epoch ++
        toLe 2 s.dev.dp.count)) ∧
  (∀ (s : State) (f k : Nat) (r : MbxReq), Asked s.dev f 3 k r → r.len = 4 → r.reservedOk [(0, 4)] = true →
    let st := s.dev.mgmt.bring.st
    let ready := s.dev.mgmt.bring.reported = true ∧ (st = .ready ∨ st = .recovering ∨ st = .notReady)
    ∃ t, exec (.getFloorplan f) s = .next t ∧ t.pending = s.pending ∧
      (ready → AnswersWith s.dev t.dev k r 0 0 (toLe 4 384 ++ (s.dev.report.drop (r.p 0 4)).take 224)) ∧
      (¬ ready → AnswersWith s.dev t.dev k r 7 0 [])) ∧
  (∀ (s : State) (k : Nat) (r : MbxReq), Asked s.dev 0 0x0600 k r → r.len = 12 → r.reservedOk [(0, 12)] = true →
    s.dev.mgmt.bring.st = .awaitFw → s.dev.masterOk 0 = true → 0x3000 ≤ r.p 8 4 → r.p 8 4 ≤ 7352320 →
    ∃ t, exec (.fwLoad 0) s = .next t ∧ t.pending = s.pending ∧
      t.dev = { accepting s.dev k 0 with aud := t.dev.aud, mgmt := { (accepting s.dev k 0).mgmt with
        fw := { s.dev.mgmt.fw with image := Mem.readN s.dev.mem.host (r.p 0 8) (r.p 8 4) }
        bring := { s.dev.mgmt.bring with st := .verify } } }) ∧
  (∀ (s : State) (k : Nat) (r : MbxReq), s.dev.mgmt.bring.st = .verify → s.dev.mgmt.bring.held = false →
    s.dev.mgmt.reqs.findIdx? (fun q => q.accepted && q.msg == 0x0600) = some k → s.dev.mgmt.reqs[k]? = some r →
    let st := imageStatus s.dev.fuses s.dev.mgmt.fw.image
    let e := fun (img : List Byte) (h : Option (BitVec 1024)) (x : Nat) (b : Bring) => { s.dev with mgmt := { s.dev.mgmt with
      fw := { s.dev.mgmt.fw with image := img, header := h, aliasRnd := x }, bring := { s.dev.mgmt.bring with st := b } } }
    ∃ t, exec .imageVerify s = .next t ∧ t.pending = s.pending ∧
      (st = 0 → ∃ h x, h = lineOf (s.dev.mgmt.fw.image.take 128) ∧
        AnswersWith (e s.dev.mgmt.fw.image (some h) x .memTrain) t.dev k r 0 0 (headerDigest h)) ∧
      (st ≠ 0 → AnswersWith (e [] s.dev.mgmt.fw.header s.dev.mgmt.fw.aliasRnd .awaitFw) t.dev k r st 0 [])) ∧
  (∀ (s : State) (k : Nat) (r : MbxReq) (h : BitVec 1024) (stuck : BitVec 64), Formed s.dev 0 0x0601 k 0 [] r →
    s.dev.mgmt.fw.header = some h → fld h.toNat 15 8 ≤ 64 →
    let n := fld h.toNat 15 8
    let burns := fun (i : Nat) => i < n ∧ ∀ j, j ≤ i → s.dev.fuses.svn.getLsbD j = true ∨ stuck.getLsbD j = false
    ∃ t, exec (.svnCommit 0 stuck) s = .next t ∧ t.pending = s.pending ∧ t.dev.fuses.revoked = s.dev.fuses.revoked ∧
      (∀ i, i < 64 → (t.dev.fuses.svn.getLsbD i = true ↔ s.dev.fuses.svn.getLsbD i = true ∨ burns i)) ∧
      ((∀ i, i < n → s.dev.fuses.svn.getLsbD i = true ∨ stuck.getLsbD i = false) →
        AnswersWith { s.dev with fuses := t.dev.fuses } t.dev k r 0 0 (toLe 1 t.dev.fuses.fusedSvn)) ∧
      ((∃ i, i < n ∧ s.dev.fuses.svn.getLsbD i = false ∧ stuck.getLsbD i = true) →
        AnswersWith { s.dev with fuses := t.dev.fuses } t.dev k r 0x0D 0 [])) ∧
  (∀ (s : State) (k : Nat) (r : MbxReq) (h : BitVec 1024) (ok : Bool), Formed s.dev 0 0x0602 k 1 [(0, 1)] r →
    s.dev.mgmt.fw.header = some h →
    let i := payloadByte r 0
    let own := fld h.toNat 23 16
    ∃ t, exec (.keyRevoke 0 ok) s = .next t ∧ t.pending = s.pending ∧ t.dev.fuses.svn = s.dev.fuses.svn ∧
      (16 ≤ i → AnswersWith s.dev t.dev k r 3 0 []) ∧ (i < 16 → own ≤ i → AnswersWith s.dev t.dev k r 5 0 []) ∧
      (i < own → i < 16 → (ok = true ∨ s.dev.fuses.revoked.getLsbD i = true) →
        (∀ j, j < 16 → (t.dev.fuses.revoked.getLsbD j = true ↔ j = i ∨ s.dev.fuses.revoked.getLsbD j = true)) ∧
        AnswersWith { s.dev with fuses := t.dev.fuses } t.dev k r 0 0 (toLe 2 t.dev.fuses.revoked.toNat)) ∧
      (i < own → i < 16 → ok = false → s.dev.fuses.revoked.getLsbD i = false → AnswersWith s.dev t.dev k r 0x0D 0 [])) ∧
  (∀ (s : State), s.dev.mailServed = true →
    let gives := fun (c : Instr) (bs : List Byte) => exec c s = .next (withDev s (doeAnswers s.dev bs))
    (∀ i, gives (.doeDiscovery i) (if i = 0 then toLe 2 1 ++ toLe 1 0 ++ toLe 1 1 else if i = 1 then toLe 2 0x4A57 ++ toLe 1 1 ++ toLe 1 0
      else toLe 2 0xFFFF ++ toLe 1 0 ++ toLe 1 0)) ∧
    gives (.getCert 1) (toLe 1 1 ++ toLe 1 0 ++ toLe 2 0 ++ fitBytes 5392 Config.certOtp) ∧
    (s.dev.mgmt.fw.header = none → gives (.getCert 2) (toLe 1 1 ++ toLe 1 7 ++ toLe 2 0) ∧
      ∀ n, gives (.getEvidence n) (toLe 1 2 ++ toLe 1 7 ++ toLe 2 0)) ∧
    (∀ h, s.dev.mgmt.fw.header = some h →
      gives (.getCert 2) (toLe 1 1 ++ toLe 1 0 ++ toLe 2 0 ++ fitBytes 5392 (aliasCert h s.dev.mgmt.fw.aliasRnd)) ∧
      ∀ n : BitVec 256, ∃ t x, exec (.getEvidence n) s = .next t ∧
        (let ev := s.dev.evidenceBytes h n
         t = withDev s { doeAnswers s.dev (toLe 1 2 ++ toLe 1 0 ++ toLe 2 0 ++
           fitBytes 3464 (ev ++ fitBytes 3309 (Config.mldsaSign (aliasSeed h) (Config.shake256 ev 64) x))) with free := s.dev.free + 1 })) ∧
    exec .doeAbort s = .next (withDev s { s.dev with mgmt := { s.dev.mgmt with fw := { s.dev.mgmt.fw with doe := none } } }))

/-- PART_SET and PART_WINDOW are checked and wait for the boundary (10 R351-R353; 14 R473, R474). CLUSTER_MOVE and RESERVE_LEND set a
cluster out, which drains or times out, is zeroed but for its hot region and waits for the boundary; RESERVE_SET, HOTSET_LOAD and its end
change a reserve slot (10 R356-R360; 14 R476). -/
def Obligations.PartitionsAndClustersAreSet : Prop :=
  (∀ (s : State) (k : Nat) (r : MbxReq), Formed s.dev 0 0x0100 k 20 [(0, 5), (6, 2), (8, 4), (12, 2), (16, 4)] r →
    let p := r.p 0 1
    let fieldsOk := p < 16 ∧ r.p 1 1 < 16 ∧ 1 ≤ r.p 2 1 ∧ r.p 4 1 < 8 ∧ r.p 8 4 < 2 ^ 20 ∧ r.p 16 4 < 2 ^ 22
    let conflict := s.dev.mgmt.numVfs < r.p 1 1 ∨ ((s.dev.part p).cfg.valid = true ∧ (s.dev.part p).cfg.func ≠ r.p 1 1) ∨
      ((r.p 4 1).testBit 0 = true ∧ ∃ q, q < 16 ∧ q ≠ p ∧ (s.dev.cfgNext q).valid = true ∧ (s.dev.cfgNext q).safety = true)
    let cfg : PartCfg := {
      valid := true, safety := (r.p 4 1).testBit 0, func := r.p 1 1, weight := r.p 2 1, runEpochs := r.p 3 1
      hardHost := (r.p 4 1).testBit 2, hardDram := (r.p 4 1).testBit 1, dramBudget := r.p 6 2, hostBudget := r.p 8 4
      queryBudget := r.p 12 2, ldgQuota := r.p 16 4 }
    (¬ fieldsOk → ∃ t, exec (.partSet 0) s = .next t ∧ t.pending = s.pending ∧ AnswersWith s.dev t.dev k r 3 0 []) ∧
    (fieldsOk → conflict → ∃ t, exec (.partSet 0) s = .next t ∧ t.pending = s.pending ∧ AnswersWith s.dev t.dev k r 5 0 []) ∧
    (fieldsOk → ¬ conflict → exec (.partSet 0) s = .next (withDev s { accepting s.dev k 0 with
      parts := Tab.put s.dev.parts p { s.dev.part p with pendCfg := some cfg } }))) ∧
  (∀ (s : State) (k : Nat) (r : MbxReq), Formed s.dev 0 0x0101 k 16 [(0, 3), (8, 8)] r →
    let p := r.p 0 1
    let x : Window := { v := (r.p 2 1).testBit 0, w := (r.p 2 1).testBit 1, base := r.p 8 4, size := r.p 12 4 }
    let fieldsOk := p < 16 ∧ r.p 1 1 < 4 ∧ r.p 2 1 < 4 ∧ x.base < 2 ^ 26 ∧ x.size < 2 ^ 26 ∧
      (x.v = true → 1 ≤ x.size ∧ (x.base + x.size) * 2 ^ 21 ≤ s.dev.mmu.dramSize)
    let conflict := (s.dev.part p).cfg.valid = false ∨ s.dev.windowClash p x = true
    (¬ fieldsOk → ∃ t, exec (.partWindow 0) s = .next t ∧ t.pending = s.pending ∧ AnswersWith s.dev t.dev k r 3 0 []) ∧
    (fieldsOk → conflict → ∃ t, exec (.partWindow 0) s = .next t ∧ t.pending = s.pending ∧ AnswersWith s.dev t.dev k r 5 0 []) ∧
    (fieldsOk → ¬ conflict → exec (.partWindow 0) s = .next (withDev s { accepting s.dev k 0 with
      parts := Tab.put s.dev.parts p { s.dev.part p with pendWins := Tab.put (s.dev.part p).pendWins (r.p 1 1) x } }))) ∧
  (∀ (s : State) (k : Nat) (r : MbxReq), Formed s.dev 0 0x0102 k 3 [(0, 3)] r →
    let c := r.p 0 1
    let fieldsOk := c < 64 ∧ (r.p 1 1 < 16 ∨ r.p 1 1 = 0xFF) ∧ (r.p 2 1 < 16 ∨ r.p 2 1 = 0xFF)
    let conflict := s.dev.plan.clusterOk c = false ∨ s.dev.partNamed (r.p 1 1) = false ∨ s.dev.partNamed (r.p 2 1) = false ∨
      (∃ e ∈ s.dev.reserves, e.2.cluster = c) ∨ s.dev.holderOf c ≠ namedPart (r.p 1 1)
    (fieldsOk → conflict → ∃ t, exec (.clusterMove 0) s = .next t ∧ t.pending = s.pending ∧ AnswersWith s.dev t.dev k r 5 0 []) ∧
    (fieldsOk → ¬ conflict → s.dev.homedOn c = [] → exec (.clusterMove 0) s = .next (withDev s { accepting s.dev k 0 with
      moves := Tab.put s.dev.moves c ⟨namedPart (r.p 1 1), namedPart (r.p 2 1), .draining, 0, none⟩ }))) ∧
  (∀ (s : State) (c : Nat) (m : Move), Tab.get? s.dev.moves c = some m →
    (m.phase = .draining → s.dev.clusterIdle c = true →
      ∃ t, exec (.clusterDrained c) s = .next t ∧ t.pending = s.pending ∧
        t.dev = { s.dev with
          cores := t.dev.cores, aud := t.dev.aud, rays := { s.dev.rays with cache := Tab.del s.dev.rays.cache c }
          moves := Tab.put s.dev.moves c { m with phase := .zeroing } } ∧
        (∀ i, clusterOf i ≠ c → t.dev.core i = s.dev.core i) ∧
        (m.src ≠ none → ∀ i ch, clusterOf i = c → t.dev.chan i ch = { s.dev.chan i ch with queue := [] })) ∧
    (m.phase = .draining → s.dev.clusterIdle c = false → exec (.clusterDrained c) s = .next s) ∧
    (∀ k r, m.phase = .draining → 500000 ≤ m.waited → s.dev.moveReq c m = some k → s.dev.mgmt.reqs[k]? = some r →
      ∃ t, exec (.clusterMoveTimeout c) s = .next t ∧ t.pending = s.pending ∧
        AnswersWith { s.dev with moves := Tab.del s.dev.moves c } t.dev k r 6 0 []) ∧
    (m.phase = .zeroing → (∀ i, clusterOf i = c → (s.dev.core i).l1 = [] ∧ (s.dev.core i).leaving = []) →
      ∃ t, exec (.zeroingComplete c) s = .next t ∧ t.pending = s.pending ∧
        t.dev = { s.dev with
          cores := t.dev.cores, mem := { s.dev.mem with tile := t.dev.mem.tile }
          moves := Tab.put s.dev.moves c { m with phase := .joining } } ∧
        (∀ i, clusterOf i ≠ c → t.dev.core i = s.dev.core i) ∧
        (∀ i, clusterOf i = c → t.dev.core i = { s.dev.core i with ls := [], lsZero := [], l1rr := [], lastPart := none }) ∧
        (∀ e a, Mem.read (Tab.get t.dev.mem.tile e []) a =
          if e = c ∧ s.dev.hotBytes c ≤ a then 0 else Mem.read (Tab.get s.dev.mem.tile e []) a))) ∧
  (∀ (s : State) (k : Nat) (r : MbxReq), Formed s.dev 0 0x0107 k 4 [(0, 4)] r →
    let j := r.p 0 1
    let slot := Tab.get? s.dev.reserves j
    let conflict := (∃ x, slot = some x ∧ (x.holder ≠ none ∨ x.suspended ≠ none)) ∨ (r.p 1 1 = 1 ∧
      (s.dev.plan.clusterOk (r.p 2 1) = false ∨ s.dev.holderOf (r.p 2 1) ≠ none ∨
        ∃ e ∈ s.dev.reserves, e.1 ≠ j ∧ e.2.cluster = r.p 2 1))
    j < 4 → r.p 1 1 < 2 → r.p 2 1 < 64 → r.p 3 1 ≤ 48 → ∃ t, exec (.reserveSet 0) s = .next t ∧ t.pending = s.pending ∧
      (conflict → AnswersWith s.dev t.dev k r 5 0 []) ∧
      (¬ conflict → r.p 1 1 = 1 → AnswersWith { s.dev with
        reserves := Tab.put s.dev.reserves j ⟨r.p 2 1, none, r.p 3 1, 0, 0, 0, 0, 0, none⟩ } t.dev k r 0 0 []) ∧
      (¬ conflict → r.p 1 1 = 0 → AnswersWith { s.dev with reserves := Tab.del s.dev.reserves j } t.dev k r 0 0 [])) ∧
  (∀ (s : State) (k : Nat) (r : MbxReq), Formed s.dev 0 0x0108 k 2 [(0, 2)] r → r.p 0 1 < 4 → (r.p 1 1 < 16 ∨ r.p 1 1 = 0xFF) →
    (Tab.get? s.dev.reserves (r.p 0 1) = none ∨ s.dev.partNamed (r.p 1 1) = false → ∃ t, exec (.reserveLend 0) s = .next t ∧
      t.pending = s.pending ∧ AnswersWith s.dev t.dev k r 5 0 []) ∧
    (∀ x, Tab.get? s.dev.reserves (r.p 0 1) = some x → s.dev.partNamed (r.p 1 1) = true → s.dev.homedOn x.cluster = [] →
      exec (.reserveLend 0) s = .next (withDev s { accepting s.dev k 0 with
        moves := Tab.put s.dev.moves x.cluster ⟨x.holder, namedPart (r.p 1 1), .draining, 0, some (r.p 0 1)⟩ }))) ∧
  (∀ (s : State) (k : Nat) (r : MbxReq), Formed s.dev 0 0x0109 k 16 [(0, 16)] r → r.p 0 1 < 4 → r.p 8 8 < 2 ^ 48 →
    let ctx := r.p 1 1
    let conflict := (∀ x, Tab.get? s.dev.reserves (r.p 0 1) = some x → x.holder ≠ none ∨ x.hotUnits * 65536 < r.p 4 4) ∨
      s.dev.ownsCtx 0 ctx = false ∨ (s.dev.part (s.dev.ctxPart ctx)).cfg.func ≠ 0 ∨
      (s.dev.imageMapped ctx (pagesOf (r.p 8 8) (r.p 4 4))).1 = false
    (conflict → ∃ t, exec (.hotsetLoad 0) s = .next t ∧ t.pending = s.pending ∧ AnswersWith s.dev t.dev k r 5 0 []) ∧
    (¬ conflict → exec (.hotsetLoad 0) s = .next (withDev s { accepting s.dev k 0 with
      reserves := s.dev.reserves.map (fun e => if e.1 = r.p 0 1 then
        (e.1, { e.2 with hotState := 1, image := r.p 2 2, ctx := ctx, dva := r.p 8 8, bytes := r.p 4 4 }) else e) }))) ∧
  (∀ (s : State) (j : Nat) (x : Reserve) (q : MbxReq) (bs : List Byte) (d1 : Dev), Tab.get? s.dev.reserves j = some x →
    x.hotState = 1 → s.dev.running = true → TilesOk s.dev → s.dev.mgmt.reqs = [q] → q.accepted = true → q.msg = 0x0109 → q.p 0 1 = j →
    s.dev.agentRead (imageAgent x.ctx) false x.dva x.bytes = (.ok bs, d1) →
    ∃ t, exec (.hotsetReady j) s = .next t ∧ t.pending = s.pending ∧ Answered s.dev t.dev 0 q 0 0 [] ∧
      (∀ a, a < bs.length → Mem.read (Tab.get t.dev.mem.tile x.cluster []) a = bs.getD a 0) ∧
      (∀ e a, e ≠ x.cluster ∨ bs.length ≤ a → Mem.read (Tab.get t.dev.mem.tile e []) a = Mem.read (Tab.get s.dev.mem.tile e []) a) ∧
      MemorySide { s.dev with
        reserves := s.dev.reserves.map (fun e => if e.1 = j then (e.1, { e.2 with hotState := 2 }) else e)
        mem := { s.dev.mem with tile := t.dev.mem.tile }, mgmt := { s.dev.mgmt with reqs := [] }, funcs := t.dev.funcs } t.dev)

/-- VAULT_ALLOC, VAULT_PIN, TALLY_OWN, CTX_SET, TAG_RANGE, PART_RELEASE, INGEST_PORT and the power messages have the effects of Tables 14-7
and 14-8: what they set is set, waits for its context, its boundary or its drain, or times out (04 R157; 06 R227; 05 R185, R194; 07 R248;
13 R431; 14 R475-R480; 18 R573). -/
def Obligations.ResourcesAreSet : Prop :=
  (∀ (s : State) (k : Nat) (r : MbxReq), Formed s.dev 0 0x0103 k 5 [(0, 1), (2, 3)] r → r.p 0 1 ≤ 36 → r.p 4 1 < 2 →
    ∃ t, exec (.vaultAlloc 0) s = .next t ∧ t.pending = s.pending ∧ AnswersWith { s.dev with mem := { s.dev.mem with
      alloc := Tab.put s.dev.mem.alloc (r.p 0 1) (BitVec.ofNat 17 (r.p 2 2 + 2 ^ 16 * r.p 4 1)) } } t.dev k r 0 0 []) ∧
  (∀ (s : State) (k : Nat) (r : MbxReq), Formed s.dev 0 0x0104 k 2 [(0, 2)] r →
    ∃ t, exec (.vaultPin 0) s = .next t ∧ t.pending = s.pending ∧
      AnswersWith { s.dev with mem := { s.dev.mem with pinned := BitVec.ofNat 16 (r.p 0 2) } } t.dev k r 0 0 []) ∧
  (∀ (s : State) (k : Nat) (r : MbxReq), Formed s.dev 0 0x0105 k 5 [(0, 5)] r → 1 ≤ r.p 2 2 → r.p 0 2 + r.p 2 2 ≤ 16384 →
    (r.p 4 1 < 16 ∨ r.p 4 1 = 0xFF) →
    let takes := fun (n : Nat) => r.p 0 2 ≤ n ∧ n < r.p 0 2 + r.p 2 2 ∧ (s.dev.tally n).owner ≠ namedPart (r.p 4 1)
    ∃ t, exec (.tallyOwn 0) s = .next t ∧ t.pending = s.pending ∧
      (s.dev.partNamed (r.p 4 1) = false → AnswersWith s.dev t.dev k r 5 0 []) ∧
      (s.dev.partNamed (r.p 4 1) = true → AnswersWith { s.dev with tly := t.dev.tly } t.dev k r 0 0 [] ∧
        (∀ n, takes n → t.dev.tally n = { Tally.none with owner := namedPart (r.p 4 1), moved := (s.dev.tally n).moved }) ∧
        (∀ n, ¬ takes n → t.dev.tally n = s.dev.tally n) ∧
        (∀ w, w ∈ t.dev.tly.waiters ↔ w ∈ s.dev.tly.waiters ∧ ¬ takes w.tally) ∧
        (∀ w ∈ s.dev.tly.waiters, takes w.tally → ⟨w.who, false⟩ ∈ t.dev.tly.wakes) ∧ t.dev.tly.ops = s.dev.tly.ops)) ∧
  (∀ (s : State) (k : Nat) (r : MbxReq),
    let c := r.p 0 1
    let desc : CtxDesc := { valid := (r.p 1 1).testBit 0, part := r.p 2 1, func := r.p 3 1, root := r.p 8 8 / 4096 }
    let written := fun (t : State) => AnswersWith { s.dev with mmu := { s.dev.mmu with
      ctxs := Tab.put s.dev.mmu.ctxs c desc, tlb := s.dev.mmu.tlb.filter (fun e => !(e.ctx == c)) } } t.dev k r 0 0 []
    (Formed s.dev 0 0x0200 k 16 [(0, 4), (8, 8)] r → r.p 1 1 < 2 → r.p 2 1 < 16 → r.p 3 1 < 16 → r.p 8 8 < 2 ^ 48 →
      r.p 8 8 % 4096 = 0 →
      let conflict := (s.dev.part (r.p 2 1)).cfg.valid = false ∨ (s.dev.part (r.p 2 1)).cfg.func ≠ r.p 3 1 ∨
        s.dev.inWindow (r.p 2 1) (r.p 8 8) false = false
      ∃ t, exec (.ctxSet 0) s = .next t ∧ t.pending = s.pending ∧ (conflict → AnswersWith s.dev t.dev k r 5 0 []) ∧
        (¬ conflict → s.dev.ctxWaits r = true → t.dev = accepting s.dev k 0) ∧ (¬ conflict → s.dev.ctxWaits r = false → written t)) ∧
    (s.dev.findReq 0 0x0200 true = some (k, r) →
      (s.dev.ctxWaits r = false → ∃ t, exec (.ctxSet 0) s = .next t ∧ t.pending = s.pending ∧ written t) ∧
      (s.dev.ctxWaits r = true → exec (.ctxSet 0) s = .next s) ∧
      (s.dev.ctxWaits r = true → r.accepted = true → r.phase = 0 → 500000 ≤ r.waited →
        ∃ t, exec (.ctxSetTimeout 0) s = .next t ∧ t.pending = s.pending ∧ AnswersWith s.dev t.dev k r 6 0 []))) ∧
  (∀ (s : State) (k : Nat) (r : MbxReq), Formed s.dev 0 0x0201 k 6 [(0, 1), (2, 4)] r → r.p 0 1 < 16 →
    let f := r.p 0 1
    let u := s.dev.func f
    let b := r.p 2 2
    let n := r.p 4 2
    let conflict := 40960 < b + n ∨ ∃ g, g < 16 ∧ g ≠ f ∧ b < (s.dev.func g).tagBase + (s.dev.func g).tagCount ∧
      (s.dev.func g).tagBase < b + n
    let cleared := fun (x : Nat) => u.tagBase ≤ x ∧ x < u.tagBase + u.tagCount ∨ b ≤ x ∧ x < b + n
    ∃ t, exec (.tagRange 0) s = .next t ∧ t.pending = s.pending ∧ (conflict → AnswersWith s.dev t.dev k r 5 0 []) ∧
      (¬ conflict → Answered s.dev t.dev k r 0 0 [] ∧ (t.dev.func f).tagBase = b ∧ (t.dev.func f).tagCount = n ∧
        (∀ x, cleared x → Tab.get? t.dev.tags x = none) ∧ (∀ x, ¬ cleared x → Tab.get? t.dev.tags x = Tab.get? s.dev.tags x) ∧
        MailSide { s.dev with
          tags := t.dev.tags, funcs := Tab.put s.dev.funcs f { u with tagBase := b, tagCount := n } } t.dev 0)) ∧
  (∀ (s : State) (k : Nat) (r : MbxReq), s.dev.findReq 0 0x0106 true = some (k, r) → r.accepted = true → r.phase = 0 →
    let p := r.p 0 1
    p < 16 →
    (s.dev.releaseDrained p = true →
      ∃ t, exec (.partRelease 0) s = .next t ∧ t.pending = s.pending ∧ t.dev.mgmt.reqs = (accepting s.dev k 1).mgmt.reqs ∧
        (∀ n x, Tab.get? t.dev.ledger.streams n = some x → x.part ≠ p) ∧
        (∀ c, (t.dev.ctx c).valid = true → (t.dev.ctx c).part ≠ p) ∧ (∀ n, (t.dev.tally n).owner ≠ some p) ∧
        (t.dev.part p).held = 0 ∧ t.dev.allocMask p = 0 ∧ t.dev.allocMask (16 + p) = 0 ∧
        (∀ j x, Tab.get? t.dev.reserves j = some x → x.holder ≠ some p ∧ x.suspended ≠ some p) ∧
        (∀ j, j / 8 = p → Tab.get? t.dev.mint.pools j = none) ∧ (∀ q, q ≠ p → (t.dev.part q).held = (s.dev.part q).held)) ∧
    (s.dev.releaseDrained p = false → s.dev.dp.step < 3 → exec (.partRelease 0) s = .next s) ∧
    (500000 ≤ r.waited → ∃ t, exec (.partReleaseTimeout 0) s = .next t ∧ t.pending = s.pending ∧
      AnswersWith { s.dev with parts := Tab.put s.dev.parts p { s.dev.part p with drainK := 0 } } t.dev k r 6 0 [])) ∧
  (∀ (s : State) (k : Nat) (r : MbxReq), Formed s.dev 0 0x0106 k 1 [(0, 1)] r →
    ∃ t, exec (.partRelease 0) s = .next t ∧ t.pending = s.pending ∧
      (16 ≤ r.p 0 1 → AnswersWith s.dev t.dev k r 3 0 []) ∧
      (r.p 0 1 < 16 → (s.dev.part (r.p 0 1)).cfg.valid = false → AnswersWith s.dev t.dev k r 5 0 [])) ∧
  (∀ (s : State) (k : Nat) (r : MbxReq),
    (Formed s.dev 0 0x0400 k 6 [(0, 6)] r → r.p 0 1 < 8 → s.dev.plan.csi.getLsbD (r.p 0 1) = true →
      (r.p 1 1 < 16 ∨ r.p 1 1 = 0xFF) → r.p 2 1 < 2 → r.p 3 1 < 3 → 80 ≤ r.p 4 2 → r.p 4 2 ≤ (if r.p 2 1 = 1 then 2500 else 4500) →
      (s.dev.port (r.p 0 1)).streams = [] →
      let n := r.p 0 1
      let e : Dev := { s.dev with ports := Tab.put s.dev.ports n { s.dev.port n with
        up := false, bound := namedPart (r.p 1 1), phy := decide (r.p 2 1 = 1), width := r.p 3 1, rate := r.p 4 2 } }
      ∃ t, exec (.ingestPort 0) s = .next t ∧ t.pending = s.pending ∧
        (s.dev.partNamed (r.p 1 1) = false → AnswersWith s.dev t.dev k r 5 0 []) ∧
        (r.p 1 1 = 0xFF → AnswersWith e t.dev k r 0 0 []) ∧
        (r.p 1 1 ≠ 0xFF → s.dev.partNamed (r.p 1 1) = true → t.dev = { e with
          mgmt := (accepting s.dev k 0).mgmt, aud := { s.dev.aud with viol := Tab.del s.dev.aud.viol (0x70600 + 4 * n) } })) ∧
    (s.dev.findReq 0 0x0400 true = some (k, r) → ∃ t, exec (.ingestPort 0) s = .next t ∧ t.pending = s.pending ∧
      AnswersWith s.dev t.dev k r 0 0 [])) ∧
  (∀ (s : State) (k : Nat) (r : MbxReq),
    let pow := s.dev.mgmt.pow
    (Formed s.dev 0 0x0300 k 1 [(0, 1)] r → r.p 0 1 ≤ 2 →
      let n := min (r.p 0 1) pow.ceiling
      exec (.powerPoint 0) s = .next (withDev s { s.dev with mgmt := { (accepting s.dev k 0).mgmt with
        clk := { s.dev.mgmt.clk with aNext := n }
        pow := { pow with pointReq := r.p 0 1, avsMv := if s.dev.time.aPoint < n then Config.fusedMv n else pow.avsMv } } })) ∧
    (Formed s.dev 0 0x0301 k 4 [(0, 4)] r → 5000 ≤ r.p 0 4 → r.p 0 4 ≤ 40000 →
      exec (.powerLimit 0) s = .next (withDev s { s.dev with mgmt := { (accepting s.dev k 0).mgmt with
        pow := { pow with limitNext := some (r.p 0 4) } } })) ∧
    (Formed s.dev 0 0x0301 k 4 [(0, 4)] r → (r.p 0 4 < 5000 ∨ 40000 < r.p 0 4) →
      ∃ t, exec (.powerLimit 0) s = .next t ∧ t.pending = s.pending ∧ AnswersWith s.dev t.dev k r 3 0 []) ∧
    (Formed s.dev 0 0x0302 k 0 [] r → ∃ t mv, exec (.telemetry 0) s = .next t ∧ t.pending = s.pending ∧
      (∀ v, pow.avsRead = some v → mv = v) ∧
      AnswersWith s.dev t.dev k r 0 0 (toLe 4 pow.lastMw ++ toLe 2 (pow.lastTemp % (2 ^ 16 : Nat)).toNat ++ toLe 2 mv ++
        toLe 1 s.dev.time.aPoint ++ toLe 3 0 ++ toLe 4 pow.lastEpoch ++ toLe 2 (Config.fusedMv 0) ++ toLe 2 (Config.fusedMv 1) ++
        toLe 2 (Config.fusedMv 2))))

/-- DISPLAY_MODE starts an engine once its PLL locks, or stops it between refreshes; DISPLAY_LAYER binds at the latch; DISPLAY_DCS sends its
packet between refreshes, and a read waits for the panel, an error or 10 ms (13 R455; 14 R472, R481, R482). -/
def Obligations.DisplaysAreSet : Prop :=
  (∀ (s : State) (k : Nat) (r : MbxReq), Formed s.dev 0 0x0401 k 40 [(0, 1), (8, 32)] r →
    let e := r.p 0 1
    let g := s.dev.engine e
    let on := (r.p 8 32).testBit 255
    let fieldsOk := e < 2 ∧ s.dev.plan.dsi.getLsbD e = true ∧ (on = true → modeBad (r.p 8 32) = false)
    (¬ fieldsOk → ∃ t, exec (.displayMode 0) s = .next t ∧ t.pending = s.pending ∧ AnswersWith s.dev t.dev k r 3 0 []) ∧
    (fieldsOk → on = true → (g.running = true ∨ g.starting = true) → ∃ t, exec (.displayMode 0) s = .next t ∧
      t.pending = s.pending ∧ AnswersWith s.dev t.dev k r 5 0 []) ∧
    (fieldsOk → on = true → g.running = false → g.starting = false → exec (.displayMode 0) s = .next (withDev s
      (withEngine (accepting s.dev k 0) e { g with mode := BitVec.ofNat 256 (r.p 8 32), starting := true }))) ∧
    (fieldsOk → on = false → g.running = true → g.scanning = true → exec (.displayMode 0) s = .next (withDev s
      (withEngine (accepting s.dev k 0) e { g with stopping := true }))) ∧
    (fieldsOk → on = false → (g.running = false ∨ g.scanning = false) → s.dev.mgmt.reqs = [r] → g.commits = [] →
      ∃ t, exec (.displayMode 0) s = .next t ∧ t.pending = s.pending ∧ AnswersWith (withEngine s.dev e { g with
        running := false, starting := false, stopping := false, scanning := false, te := false
        mode := BitVec.ofNat 256 (g.mode.toNat % 2 ^ 255) }) t.dev k r 0 0 [])) ∧
  (∀ (s : State) (e : Nat) (r : MbxReq), e < 2 → (s.dev.engine e).starting = true → s.dev.mgmt.reqs = [r] → r.accepted = true →
    r.msg = 0x0401 → r.p 0 1 = e → ∃ t, exec (.displayPllLock e) s = .next t ∧ t.pending = s.pending ∧
      AnswersWith { withEngine s.dev e { s.dev.engine e with starting := false, running := true, scanning := false } with
        mgmt := { s.dev.mgmt with clk := t.dev.mgmt.clk } } t.dev 0 r 0 0 [] ∧
      t.dev.mgmt.clk = { s.dev.mgmt.clk with locks := t.dev.mgmt.clk.locks, lost := t.dev.mgmt.clk.lost } ∧
      (∀ j, j < 6 → t.dev.mgmt.clk.locks.getLsbD j = (decide (j = 4 + e) || s.dev.mgmt.clk.locks.getLsbD j)) ∧
      (∀ j, j < 6 → t.dev.mgmt.clk.lost.getLsbD j = (!decide (j = 4 + e) && s.dev.mgmt.clk.lost.getLsbD j))) ∧
  (∀ (s : State) (k : Nat) (r : MbxReq), Formed s.dev 0 0x0402 k 3 [(0, 3)] r → r.p 0 1 < 2 → r.p 1 1 ≤ 6 →
    (r.p 2 1 < 16 ∨ r.p 2 1 = 0xFF) →
    let e := r.p 0 1
    let g := s.dev.engine e
    let conflict := r.p 2 1 ≠ 0xFF ∧ (s.dev.part (r.p 2 1)).cfg.valid = false
    let bound := if r.p 2 1 = 0xFF then Tab.del g.bound (r.p 1 1) else Tab.put g.bound (r.p 1 1) (r.p 2 1)
    (conflict → ∃ t, exec (.displayLayer 0) s = .next t ∧ t.pending = s.pending ∧ AnswersWith s.dev t.dev k r 5 0 []) ∧
    (¬ conflict → g.running = true → exec (.displayLayer 0) s = .next (withDev s (accepting s.dev k 0))) ∧
    (¬ conflict → g.running = false → s.dev.mgmt.reqs = [r] → ∃ t, exec (.displayLayer 0) s = .next t ∧ t.pending = s.pending ∧
      AnswersWith (withEngine s.dev e { g with bound := bound }) t.dev k r 0 0 [])) ∧
  (∀ (s : State) (k : Nat) (r : MbxReq), Formed s.dev 0 0x0403 k (8 + r.p 3 1) [(0, 5), (8, 200)] r → r.p 0 1 < 2 → r.p 1 1 < 2 →
    r.p 3 1 ≤ 200 → r.p 4 1 ≤ 200 → (∀ i, r.p 3 1 ≤ i → i < 200 → payloadByte r (8 + i) = 0) → s.dev.mgmt.bring.wild = false →
    let e := r.p 0 1
    let out := s.dev.sent ++ [.dsi e (toLe 1 (r.p 2 1) ++ (r.bytes.drop 24).take (r.p 3 1))]
    ((s.dev.engine e).scanning = true → exec (.displayDcs 0) s = .next (withDev s (accepting s.dev k 1))) ∧
    ((s.dev.engine e).scanning = false → r.p 1 1 = 1 → exec (.displayDcs 0) s = .next (withDev s { accepting s.dev k 2 with sent := out })) ∧
    ((s.dev.engine e).scanning = false → r.p 1 1 = 0 → ∃ t, exec (.displayDcs 0) s = .next t ∧ t.pending = s.pending ∧
      AnswersWith { s.dev with sent := out } t.dev k r 0 0 [] ∧ out <+: t.dev.sent)) ∧
  (∀ (s : State) (e k : Nat) (r : MbxReq), s.dev.dcsReader e = some k → s.dev.mgmt.reqs[k]? = some r →
    (∀ bs, r.p 4 1 ≤ bs.length → ∃ t, exec (.panelReply e (.data bs)) s = .next t ∧ t.pending = s.pending ∧
      AnswersWith s.dev t.dev k r 0 0 (bs.take (r.p 4 1))) ∧
    (r.p 4 1 = 0 → ∃ t, exec (.panelReply e .ack) s = .next t ∧ t.pending = s.pending ∧ AnswersWith s.dev t.dev k r 0 0 []) ∧
    (∀ x, ∃ t, exec (.panelReply e (.error x)) s = .next t ∧ t.pending = s.pending ∧ AnswersWith s.dev t.dev k r 0x0C (x % 256) []) ∧
    (∃ t, exec (.panelTimeout e) s = .next t ∧ t.pending = s.pending ∧ AnswersWith s.dev t.dev k r 6 0 []))

/-! ### Faults and resets (10, 15) -/

/-- The first job fault is recorded and asks for a data-plane reset, later ones count as suppressed. DATA_PLANE_RESET begins the reset, which
loses all work, clears the cores and what the vault does not pin, checks the damaged cluster and releases the data plane, or leaves it stopped
where units are missing (10 R371-R375; 15 R505-R507; 06 R226; 07 R281; 04 R178). -/
def Obligations.JobFaultsResetTheDataPlane : Prop :=
  (∀ (s : State) (k : Nat) (j : JobFault), s.dev.faults[k]? = some j →
    let left := s.dev.faults.eraseIdx k
    (3 ≤ s.dev.dp.step → exec (.jobFault k) s = .next (withDev s { s.dev with faults := left })) ∧
    (s.dev.dp.step < 3 → s.dev.dp.recorded = true → exec (.jobFault k) s = .next (withDev s { s.dev with
      faults := left, faultRec := { s.dev.faultRec with suppressed := min (s.dev.faultRec.suppressed + 1) (2 ^ 8 - 1) } })) ∧
    (s.dev.dp.step = 0 → s.dev.dp.recorded = false → s.dev.dp.pending = none → exec (.jobFault k) s = .next (withDev s { s.dev with
      faults := left
      faultRec := { time := s.dev.time.ts, fault := j, resetCount := (s.dev.dp.count + 1) % 2 ^ 16, valid := true, suppressed := 0 }
      dp := { s.dev.dp with recorded := true, pending := some (1, [j.func]) } }))) ∧
  (∀ (s : State) (k : Nat) (r : MbxReq), Formed s.dev 0 0x0500 k 0 [] r →
    exec (.dpReset 0) s = .next (withDev s { accepting s.dev k 0 with dp := if s.dev.dp.step = 0 ∧ s.dev.dp.pending = none then
      { s.dev.dp with pending := some (4, [0]) } else s.dev.dp })) ∧
  (∀ (s : State) (cause : Nat) (own : List Nat), s.dev.dp.pending = some (cause, own) → s.dev.dp.step = 0 →
    ∃ t, exec .dataPlaneReset s = .next t ∧ t.pending = s.pending ∧
      t.dev = { s.dev with
        dp := { s.dev.dp with
          step := 1, cause := cause, own := own, count := (s.dev.dp.count + 1) % 2 ^ 16, startEpoch := s.dev.time.epoch % 2 ^ 32
          pending := none }
        mgmt := { s.dev.mgmt with faultN := true, bring := { s.dev.mgmt.bring with
          st := if s.dev.mgmt.bring.st = .ready then .recovering else s.dev.mgmt.bring.st } }
        funcs := t.dev.funcs, sent := t.dev.sent, free := t.dev.free, ports := t.dev.ports, aud := t.dev.aud
        engines := t.dev.engines } ∧
      (∀ e l, Tab.get? (t.dev.engine e).layers l = (Tab.get? (s.dev.engine e).layers l).map (fun a =>
        if a.survive = false ∨ a.tile = true then { a with fillHold := true } else a)) ∧
      (∀ f, f < 16 →
        let u := s.dev.func f
        let v := fld u.eventVec 29 24
        let x := s.dev.vec f v
        u.eventVec.testBit 31 = true → v < vecCount f → s.dev.mgmt.bring.wild = false → u.msixEn = true → u.msixMask = false →
        x.masked = false → u.bme = true → u.d3hot = false → .msix f v x.addr x.data ∈ t.dev.sent)) ∧
  (∀ (s : State), s.dev.dp.step = 1 → ∃ t, exec .dpQuiesce s = .next t ∧ t.pending = s.pending ∧ t.dev.dp = { s.dev.dp with step := 3 } ∧
    (∀ n, let x := s.dev.tally n
      (x.owner ≠ none → t.dev.tally n = { x with value := 0, lost := true, stale := false }) ∧
      (x.owner = none → (t.dev.tally n).value = 0 ∧ (t.dev.tally n).lost = false ∧ (t.dev.tally n).owner = none)) ∧
    t.dev.tly.waiters = [] ∧ t.dev.tly.wakes = [] ∧ t.dev.tly.ops = [] ∧
    (∀ f r, let x := s.dev.ring f r
      (x.st ≠ .disabled → x.st ≠ .lost → t.dev.ring f r =
        { x with en := false, st := .lost, cmds := [], slotIssued := false, slotEmpty := false }) ∧
      (x.st = .disabled ∨ x.st = .lost → t.dev.ring f r = x)) ∧
    (∀ c, (t.dev.core c).groups = [] ∧ (t.dev.core c).strands = [] ∧ (t.dev.core c).l1 = [] ∧ (t.dev.core c).ops = [] ∧
      (t.dev.core c).slots = [] ∧ (t.dev.core c).chans = []) ∧
    t.dev.orders = [] ∧ t.dev.launches = [] ∧ t.dev.grid = [] ∧ t.dev.render.passes = [] ∧ t.dev.rays.rays = [] ∧
    t.dev.mint.pools = [] ∧ t.dev.ledger.queries = [] ∧ t.dev.ledger.migrations = [] ∧ t.dev.mmu.tlb = [] ∧ t.dev.faults = [] ∧
    t.dev.mem.dir = [] ∧ t.dev.mem.vault = s.dev.mem.vault ∧ t.dev.mem.tile = s.dev.mem.tile ∧ t.dev.mem.dram = s.dev.mem.dram ∧
    t.dev.mem.host = s.dev.mem.host ∧ t.dev.mgmt = s.dev.mgmt ∧ t.dev.parts = s.dev.parts ∧ t.dev.mmu.ctxs = s.dev.mmu.ctxs ∧
    t.dev.tags = s.dev.tags ∧ t.dev.aud = s.dev.aud) ∧
  (∀ (s : State), s.dev.dp.step = 3 → ∃ t, exec .dpClear s = .next t ∧ t = withDev s { s.dev with
      cores := [], dp := { s.dev.dp with step := 4 }, mem := { s.dev.mem with vault := t.dev.mem.vault, tile := [] } } ∧
    ∀ v, v ∈ t.dev.mem.vault ↔ v ∈ s.dev.mem.vault ∧ s.dev.mem.pinned.getLsbD v.2.way = true ∧ v.2.poison = 0) ∧
  (∀ (s : State) (coresOk : BitVec 16) (ok : Bool), s.dev.dp.step = 4 →
    let after := { s.dev with dp := { s.dev.dp with step := 5 } }
    (s.dev.checkCluster = none → exec (.dpCheck coresOk ok) s = .next (withDev s after)) ∧
    (∀ c, s.dev.checkCluster = some c →
      let good := ok = true ∧ Tab.get s.dev.plan.cores c 0 &&& ~~~ coresOk = 0
      let plan := { s.dev.plan with clusters := setBit s.dev.plan.clusters c false, cores := Tab.del s.dev.plan.cores c }
      (good → exec (.dpCheck coresOk ok) s = .next (withDev s after)) ∧
      (¬ good → exec (.dpCheck coresOk ok) s = .next (withDev s { after with
        plan := plan
        mgmt := { s.dev.mgmt with bring := { s.dev.mgmt.bring with
          mismatch := s.dev.mgmt.bring.mismatch ||| ((if ok then 2 else 1) + (if plan.belowMin then 16 else 0)) } } })))) ∧
  (∀ (s : State), s.dev.dp.step = 5 → s.dev.mgmt.bring.mismatch ≠ 0 → ∃ t, exec .dpRelease s = .next t ∧ t.pending = s.pending ∧
    t.dev.dp = { s.dev.dp with step := 7, pending := none } ∧ t.dev.mgmt.bring = { s.dev.mgmt.bring with st := .notReady } ∧
    t.dev.mgmt.faultN = true ∧ (∀ r ∈ t.dev.mgmt.reqs, r.accepted = false)) ∧
  (∀ (s : State), s.dev.dp.step = 5 → s.dev.mgmt.bring.mismatch = 0 → ∃ t, exec .dpRelease s = .next t ∧ t.pending = s.pending ∧
    t.dev.dp = { s.dev.dp with step := 0, recorded := false } ∧ t.dev.cycle = 0 ∧
    t.dev.mgmt.bring = { s.dev.mgmt.bring with st := if s.dev.mgmt.bring.st = .recovering then .ready else s.dev.mgmt.bring.st } ∧
    (s.dev.mgmt.bring.st = .recovering → s.dev.mgmt.clk.lost.getLsbD 3 = false → t.dev.mgmt.faultN = false) ∧
    (∀ r ∈ t.dev.mgmt.reqs, r.accepted = true → r.msg ≠ 0x0500) ∧ t.dev.mem = s.dev.mem ∧ t.dev.cores = s.dev.cores)

/-- An FLR marks its functions, discards the responses to their requests, stops their rings' commands and drains their partitions; drained, it
sets the function's registers, tags, fault records and counters to their reset values; after 500,000 k-cycles it asks for a data-plane reset.
Clearing VF Enable resets every virtual function as one (10 R376-R378). -/
def Obligations.FunctionLevelResets : Prop :=
  (∀ (s : State) (f : Nat), 1 ≤ f → f < 16 →
    ((s.dev.func f).flr ≠ none → exec (.flr f) s = .next s) ∧
    ((s.dev.func f).flr = none → ∃ t, exec (.flr f) s = .next t ∧ t.pending = s.pending ∧
      (t.dev.func f).flr = some ⟨0, f⟩ ∧ (∀ g, g ≠ f → (t.dev.func g).flr = (s.dev.func g).flr) ∧
      t.dev.mgmt = { s.dev.mgmt with reqs := s.dev.mgmt.reqs.map (fun r => if r.fn = f then { r with live := false } else r) } ∧
      (∀ r, ∀ c ∈ (t.dev.ring f r).cmds, c.discarded = true ∧ c.phase ≠ .fetched ∧ c.op ≠ 1))) ∧
  (∀ (s : State), (∀ f, f < 16 → (s.dev.func f).flr = none) →
    (∃ t, exec (.flr 0) s = .next t ∧ t.pending = s.pending ∧ t.dev.mgmt.vfEnable = false ∧ (t.dev.func 0).flr = some ⟨0, 0⟩ ∧
      (∀ f, 1 ≤ f → f < 16 → (t.dev.func f).flr = if s.dev.mgmt.vfEnable then some ⟨0, 0⟩ else none)) ∧
    (s.dev.mgmt.vfEnable = true → ∃ t, exec .vfEnableClear s = .next t ∧ t.pending = s.pending ∧ t.dev.mgmt.vfEnable = false ∧
      (t.dev.func 0).flr = none ∧ ∀ f, 1 ≤ f → f < 16 → (t.dev.func f).flr = some ⟨0, 16⟩)) ∧
  (∀ (s : State), s.dev.mgmt.vfEnable = false → exec .vfEnableClear s = .next s) ∧
  (∀ (s : State) (f : Nat), f < 16 → s.dev.flrGroup f = [f] →
    let u := s.dev.func f
    (s.dev.flrDrained [f] = false → s.dev.dp.step < 3 → exec (.flrDrained f) s = .next s) ∧
    (s.dev.flrDrained [f] = true → ∃ t, exec (.flrDrained f) s = .next t ∧ t.pending = s.pending ∧
      t.dev.func f = { Func.reset f with tagBase := u.tagBase, tagCount := u.tagCount } ∧
      (∀ x, u.tagBase ≤ x → x < u.tagBase + u.tagCount → Tab.get? t.dev.tags x = none) ∧
      (∀ x, x < u.tagBase ∨ u.tagBase + u.tagCount ≤ x → Tab.get? t.dev.tags x = Tab.get? s.dev.tags x) ∧
      (∀ c x, s.dev.ownsCtx f c = true → Tab.get? t.dev.mmu.recs c = some x → x.valid = false ∧ x.more = false) ∧
      (∀ k, k < 8 → Tab.get? t.dev.aud.viol (0x70000 + 32 * f + 4 * k) = none) ∧
      (∀ p, s.dev.partsOf f = [p] → (t.dev.part p).drainK = 0 ∧ (∀ o r, Tab.get? t.dev.orders o = some r → r.part ≠ p) ∧
        (∀ j, j / 8 = p → Tab.get? t.dev.mint.pools j = none) ∧
        ∀ n, (s.dev.tally n).owner = some p → (t.dev.tally n).value = 0 ∧ (t.dev.tally n).owner = some p) ∧
      (s.dev.partsOf f = [] → t.dev = { s.dev with
        tags := t.dev.tags, funcs := t.dev.funcs, aud := { s.dev.aud with viol := t.dev.aud.viol }
        mmu := { s.dev.mmu with recs := t.dev.mmu.recs } }))) ∧
  (∀ (s : State) (f : Nat) (r : Flr), (s.dev.func f).flr = some r → r.lead < 16 → s.dev.dp.step = 0 → s.dev.dp.pending = none →
    s.dev.flrDrained (s.dev.flrGroup f) = false →
    (500000 ≤ r.waited → exec (.flrEscalation f) s = .next (withDev s { counted s.dev (0x70000 + 32 * r.lead + 12) with
      dp := { s.dev.dp with pending := some (2, [r.lead]) } })) ∧
    (r.waited < 500000 → exec (.flrEscalation f) s = .next s))

/-- A full reset loses everything but the fuses and what lies outside the part; its release samples the straps. Bring-up then passes its states
in order: it finds what is usable and ends in READY with every cluster in partition 0, or in NOT_READY with its mismatch flags (15 R496,
R498-R503; 17 R540; 18 R561, R562; 05 R183). -/
def Obligations.FullResetsAndBringUp : Prop :=
  (∀ (s : State) (cause : ResetCause), s.dev.mgmt.bring.powered = true → (cause = .perst ∨
      s.dev.mgmt.bring.held = false ∧ (cause = .hotReset ∨ cause = .linkDown)) →
    let straps := s.dev.mgmt.gpio.pins.toNat
    ∃ t, exec (.fullReset cause) s = .next t ∧ t.pending = s.pending ∧ t.dev.fuses = s.dev.fuses ∧ t.dev.mem.host = s.dev.mem.host ∧
      t.dev.time = { ts := 0, epoch := 0, phase := 0, aPoint := 0 } ∧ t.dev.mgmt.bring.held = decide (cause = .perst) ∧
      t.dev.mgmt.bring.st = .romStart ∧ t.dev.mgmt.gpio.pins = s.dev.mgmt.gpio.pins ∧ t.dev.mem.dramLost = true ∧
      t.dev = { Dev.blank with
        fuses := s.dev.fuses, mem := { Dev.blank.mem with host := s.dev.mem.host }, mgmt := t.dev.mgmt, sent := s.dev.sent
        free := s.dev.free, outerOff := t.dev.outerOff, memSel := t.dev.memSel } ∧
      (cause ≠ .perst → t.dev.outerOff = straps.testBit 3 ∧ t.dev.memSel = straps % 8 ∧ t.dev.mgmt.smbAddr = straps.testBit 4 ∧
        t.dev.mgmt.faultN = true ∧ t.dev.mgmt.hb.driven = true)) ∧
  (∀ (s : State), s.dev.mgmt.bring.powered = false → ∃ t, exec (.fullReset .powerUp) s = .next t ∧ t.pending = s.pending ∧
    t.dev.fuses = s.dev.fuses ∧ t.dev.time = { ts := 0, epoch := 0, phase := 0, aPoint := 0 } ∧ t.dev.mgmt.bring = Mgmt.blank.bring ∧
    t.dev.mem = { Dev.blank.mem with host := s.dev.mem.host } ∧ t.dev.mgmt.tap = .idcode) ∧
  (∀ (s : State), s.dev.mgmt.bring.powered = true → s.dev.mgmt.bring.held = true →
    (∀ straps : Straps, ∃ t, exec (.resetRelease straps) s = .next t ∧ t.pending = s.pending ∧
      t.dev = { s.dev with outerOff := straps.outerOff, memSel := straps.memSel.toNat, mgmt := { s.dev.mgmt with
        bring := { s.dev.mgmt.bring with held := false }, smbAddr := straps.smbAddr, faultN := true
        hb := { s.dev.mgmt.hb with driven := true }, gpio := { s.dev.mgmt.gpio with pins := t.dev.mgmt.gpio.pins }
        tap := if s.dev.mgmt.tap = .idcode then .idcode else .bypass } }) ∧
    exec .powerDown s = .next (withDev s { s.dev with mgmt := { s.dev.mgmt with
      bring := { s.dev.mgmt.bring with powered := false }, tap := .idcode, tapReset := true } }) ∧
    exec .railOutOfRange s = .next s) ∧
  (∀ (s : State), s.dev.mgmt.bring.powered = true → s.dev.mgmt.bring.held = false →
    exec .railOutOfRange s = .next (withDev s { s.dev with
      mem := { s.dev.mem with dramLost := true }, mgmt := { s.dev.mgmt with bring := { s.dev.mgmt.bring with wild := true } } })) ∧
  (∀ (s : State) (ok : Bool), BringsUp s.dev .romStart → ∃ t x, exec (.romStartEnd ok) s = .next t ∧ x < 16 ∧
    t = withDev s { s.dev with free := s.dev.free + 1, mgmt := { s.dev.mgmt with
      clk := { s.dev.mgmt.clk with locks := 0b001111 }
      bring := { s.dev.mgmt.bring with
        st := .awaitFw, control := if ok then 15 else x
        mismatch := if ok then s.dev.mgmt.bring.mismatch else s.dev.mgmt.bring.mismatch ||| 64 } } }) ∧
  (∀ (s : State) (trained : BitVec 16), BringsUp s.dev .memTrain →
    let ch := if s.dev.memSel < 4 then trained else 0
    exec (.memTrainEnd trained) s = .next (withDev s { s.dev with
      plan := { s.dev.plan with channels := ch }
      mgmt := { s.dev.mgmt with bring := { s.dev.mgmt.bring with
        st := .memInit
        fitted := if s.dev.memSel = 0 then 2 ^ 34 else if s.dev.memSel = 1 then 2 ^ 35 else if s.dev.memSel < 4 then 2 ^ 36 else 0
        mismatch := if ch = 0xFFFF then s.dev.mgmt.bring.mismatch else s.dev.mgmt.bring.mismatch ||| 32 } } })) ∧
  (∀ (s : State), BringsUp s.dev .memInit → exec .memInitEnd s = .next (withDev s { s.dev with
    mem := { s.dev.mem with dram := [], dpoison := [], dramLost := false }
    mgmt := { s.dev.mgmt with bring := { s.dev.mgmt.bring with st := .selfTest } } })) ∧
  (∀ (s : State) (r : SelfTest), BringsUp s.dev .selfTest → ∃ t, exec (.selfTestEnd r) s = .next t ∧ t.pending = s.pending ∧
    t.dev = { s.dev with free := s.dev.free + 1, plan := t.dev.plan, mgmt := { s.dev.mgmt with
      clk := { s.dev.mgmt.clk with aNext := t.dev.mgmt.clk.aNext }
      pow := { s.dev.mgmt.pow with
        pointReq := t.dev.mgmt.clk.aNext, ceiling := 2, avsMv := Config.fusedMv t.dev.mgmt.clk.aNext }
      bring := { s.dev.mgmt.bring with st := .topology } } } ∧ t.dev.mgmt.clk.aNext ≤ 2 ∧
    t.dev.plan.slices = Config.fusedSlices &&& r.slices ∧ t.dev.plan.banks = Config.fusedBanks &&& r.banks ∧
    t.dev.plan.channels = s.dev.plan.channels ∧ t.dev.plan.csi = r.csi ∧ t.dev.plan.dsi = r.dsi ∧
    ∀ c, c < 64 →
      let cores := Config.fusedCores c &&& (r.cores[c]?).getD 0
      let usable := Config.fusedClusters.getLsbD c = true ∧ r.clusters.getLsbD c = true ∧ cores ≠ 0
      (t.dev.plan.clusters.getLsbD c = true ↔ usable) ∧ (usable → Tab.get t.dev.plan.cores c 0 = cores)) ∧
  (∀ (s : State), BringsUp s.dev .topology → s.dev.time.aPoint = s.dev.mgmt.clk.aNext →
    let size := if s.dev.outerOff then s.dev.mgmt.bring.fitted else s.dev.mgmt.bring.fitted / 8 * 7
    let m := s.dev.mgmt.bring.mismatch ||| s.dev.topologyFlags
    ∃ t, exec .topologyCheck s = .next t ∧ t.pending = s.pending ∧ t.dev.mmu = { s.dev.mmu with dramSize := size } ∧
      t.dev.mgmt.bring.reported = true ∧ t.dev.mgmt.bring.mismatch = m ∧
      (m = 0 → t.dev.mgmt.bring.st = .ready ∧ t.dev.mgmt.bring.readyTime = s.dev.time.ts ∧ t.dev.cycle = 0 ∧
        t.dev.mgmt.faultN = s.dev.mgmt.clk.lost.getLsbD 3 ∧
        t.dev.parts = Tab.put s.dev.parts 0 { s.dev.part 0 with held := s.dev.plan.clusters }) ∧
      (m ≠ 0 → t.dev.mgmt.bring.st = .notReady ∧ t.dev.dp.step = 7 ∧ t.dev.mgmt.faultN = true ∧ t.dev.parts = s.dev.parts))

/-- A lost PLL is recorded and, by its domain, asks for a data-plane reset, stops its display or asserts FAULT_N; it relocks or becomes PLL_FAIL.
The control complex's fatal faults, PLL_FAIL and a thermal trip (four samples of 115 °C on one sensor) stop the part (01 R53; 14 R458; 15 R497,
R504; 18 R569-R574; 17 R553). -/
def Obligations.ChipFaultsStopThePart : Prop :=
  (∀ (s : State) (p : Pll),
    (s.dev.mgmt.clk.locks.getLsbD (pllBit p) = false → exec (.pllLossOfLock p) s = .next s) ∧
    (s.dev.mgmt.clk.locks.getLsbD (pllBit p) = true → ∃ t, exec (.pllLossOfLock p) s = .next t ∧ t.pending = s.pending ∧
      pllSet s.dev.mgmt.clk p false true t.dev.mgmt.clk ∧
      (p = .pcie → t.dev = { s.dev with mgmt := { s.dev.mgmt with clk := t.dev.mgmt.clk, faultN := true } }) ∧
      (∀ cause, (p = .array ∧ cause = 1) ∨ (p = .sys ∧ cause = 2) ∨ (p = .mem ∧ cause = 3) → s.dev.dp.step = 0 →
        t.dev = { s.dev with
          mgmt := { s.dev.mgmt with clk := t.dev.mgmt.clk, chip := chipRecord s.dev cause 0 false }
          dp := { s.dev.dp with pending := if s.dev.dp.pending = none then some (3, []) else s.dev.dp.pending } }) ∧
      (∀ e, (p = .disp0 ∧ e = 0) ∨ (p = .disp1 ∧ e = 1) → t.dev.mgmt.chip = chipRecord s.dev 4 e false ∧
        (t.dev.engine e).running = false ∧ (t.dev.engine e).mode.getLsbD 255 = false ∧
        (∀ k, k ≠ e → t.dev.engine k = s.dev.engine k) ∧ t.dev.dp = s.dev.dp ∧ t.dev.mem = s.dev.mem)) ∧
    (p ≠ .pcie → s.dev.mgmt.clk.lost.getLsbD (pllBit p) = true →
      (∃ t, exec (.pllRelock p) s = .next t ∧ pllSet s.dev.mgmt.clk p true false t.dev.mgmt.clk ∧
        t = withDev s { s.dev with mgmt := { s.dev.mgmt with clk := t.dev.mgmt.clk } }) ∧
      (∃ t, exec (.pllFail p) s = .next t ∧ t.pending = s.pending ∧ Stopped s.dev t.dev 6 (pllBit p))) ∧
    ((p = .pcie ∨ s.dev.mgmt.clk.lost.getLsbD (pllBit p) = false) →
      exec (.pllRelock p) s = .next s ∧ exec (.pllFail p) s = .next s)) ∧
  (∀ (s : State), s.dev.mgmt.bring.held = false → s.dev.mgmt.fw.dead = false →
    let dies := fun (c : Instr) (detail : Nat) => ∃ t, exec c s = .next t ∧ t.pending = s.pending ∧ Stopped s.dev t.dev 7 detail ∧
      t.dev.mgmt.fw = { s.dev.mgmt.fw with dead := true } ∧ t.dev.mgmt.reqs = s.dev.mgmt.reqs
    dies (.controlFatal 1) 1 ∧ dies (.controlFatal 2) 2 ∧ dies .controlWatchdog 3) ∧
  (∀ (s : State) (temps : List Nat), temps.length = 72 → s.dev.clocked = true →
    let v := temps.map (signed 16)
    let hot := ((List.range 72).filter (fun i => decide (1840 ≤ (v[i]?).getD 0))).map
      (fun i => (i, min 4 (Tab.get s.dev.mgmt.pow.hot i 0 + 1)))
    let trips := ∃ e ∈ hot, e.2 = 4
    ∃ t top, exec (.sensorSample temps) s = .next t ∧ t.pending = s.pending ∧ top ∈ v ∧ (∀ x ∈ v, x ≤ top) ∧
      t.dev.mgmt.pow = { s.dev.mgmt.pow with sensors := v, hot := hot, tsum := s.dev.mgmt.pow.tsum + top, tn := s.dev.mgmt.pow.tn + 1 } ∧
      (¬ trips → t.dev = { s.dev with mgmt := { s.dev.mgmt with pow := t.dev.mgmt.pow } }) ∧
      (trips → s.dev.mgmt.thermTrip = false → Stopped s.dev t.dev 8 0 ∧ t.dev.mgmt.thermTrip = true)) ∧
  (∀ (s : State), s.dev.clocked = true → s.dev.mgmt.fw.header ≠ none → s.dev.mgmt.fw.dead = false →
    let pow := fun (p : Power) => Host.Outcome.next (withDev s { s.dev with mgmt := { s.dev.mgmt with pow := p } })
    exec (.avsbusTransaction none) s = pow { s.dev.mgmt.pow with avsFails := s.dev.mgmt.pow.avsFails + 1 } ∧
    ∀ mv, mv < 2 ^ 16 → exec (.avsbusTransaction (some mv)) s = pow { s.dev.mgmt.pow with
      avsRead := some mv, avsFails := 0, avsAt := if s.dev.time.phase ≤ 122500 then some mv else s.dev.mgmt.pow.avsAt }) ∧
  (∀ (s : State), exec .dividerSwitchDone s = .next (withDev s { s.dev with
    mgmt := { s.dev.mgmt with clk := { s.dev.mgmt.clk with switching := false } } }))

/-- With no command waiting one k-cycle passes: the timestamp counts up within its epoch. The model's own choice (notes/assumptions/3.md). -/
def Obligations.AnEmptyQueueLetsAKCyclePass : Prop :=
  ∀ (s : State), s.pending = [] →
    (s.dev.clocked = true → s.dev.time.phase + 1 < 125000 → s.dev.time.ts + 1 < 2 ^ 64 → ∃ t, step s = .next t ∧ t.pending = [] ∧
      t.dev.time = { s.dev.time with ts := s.dev.time.ts + 1, phase := s.dev.time.phase + 1 } ∧
      t.dev.cycle = s.dev.cycle + s.dev.aPerK ∧
      (∀ f, (t.dev.func f).flr = (s.dev.func f).flr.map (fun x => { x with waited := x.waited + 1 })) ∧
      t.dev.mgmt = { s.dev.mgmt with reqs := s.dev.mgmt.reqs.map (fun r => if r.accepted then { r with waited := r.waited + 1 } else r) } ∧
      t.dev = { s.dev with
        time := t.dev.time, cycle := t.dev.cycle, cores := t.dev.cores, parts := t.dev.parts, funcs := t.dev.funcs
        moves := t.dev.moves, mgmt := t.dev.mgmt } ∧
      ∀ i slot lane code, t.dev.readW i slot lane code = s.dev.readW i slot lane code) ∧
    (s.dev.clocked = false ∨ 125000 ≤ s.dev.time.phase + 1 ∨ 2 ^ 64 ≤ s.dev.time.ts + 1 → step s = .next s)

/-- The timestamp ends an epoch at each multiple of 125,000 and wraps to zero with its epoch ending short. At a boundary the audit counters
are kept as a snapshot, the budgets start again, pending settings apply, moderation windows close, the operating point follows the one due, and
HEARTBEAT toggles while it is fed (00 R25-R28; 01 R39-R52; 10 R351, R364, R369; 15 R508; 16 R522). -/
def Obligations.EpochBoundaries : Prop :=
  ∀ (s : State) (c : Instr) (ts : Nat),
    ((∃ mw, c = .epochBoundary mw) ∧ ts = s.dev.time.ts + (125000 - s.dev.time.phase) ∧ ts < 2 ^ 64 ∨
      c = .timestampWrap ∧ ts = 0 ∧ 2 ^ 64 ≤ s.dev.time.ts + (125000 - s.dev.time.phase)) →
    (s.dev.clocked = false → exec c s = .next s) ∧
    (s.dev.clocked = true → ∃ t, exec c s = .next t ∧ t.pending = s.pending ∧
      t.dev.time.ts = ts ∧ t.dev.time.epoch = (s.dev.time.epoch + 1) % 2 ^ 47 ∧ t.dev.time.phase = 0 ∧
      t.dev.aud.snap = s.dev.aud.count ∧ t.dev.aud.snapValid = true ∧ t.dev.aud.snapIndex = s.dev.time.epoch ∧
      t.dev.aud.snapWrap = s.dev.aud.wrapEpoch ∧ t.dev.mem = s.dev.mem ∧
      (let due := min s.dev.mgmt.clk.aNext 2
       (due < s.dev.time.aPoint ∨ s.dev.time.aPoint < due ∧ s.dev.supplyReady = true → t.dev.time.aPoint = due ∧
         t.dev.mgmt.clk.switching = true) ∧
       (due = s.dev.time.aPoint ∨ s.dev.time.aPoint < due ∧ s.dev.supplyReady = false → t.dev.time.aPoint = s.dev.time.aPoint)) ∧
      (∀ p, p < 16 → let x := s.dev.part p
        let y := t.dev.part p
        y.dramPrev = x.dramUsed ∧ y.hostPrev = x.hostUsed ∧ y.queriesPrev = x.queriesUsed ∧ y.dramUsed = 0 ∧ y.hostUsed = 0 ∧
        y.queriesUsed = 0 ∧ y.pendCfg = none ∧ y.pendWins = [] ∧
        ((∀ r ∈ s.dev.mgmt.reqs, r.msg ≠ 0x0106) → y.cfg = x.pendCfg.getD x.cfg)) ∧
      t.dev.mgmt.pow.limit = s.dev.mgmt.pow.limitNext.getD s.dev.mgmt.pow.limit ∧ t.dev.mgmt.pow.limitNext = none ∧
      (∀ r ∈ t.dev.mgmt.reqs, r.accepted = true → r.msg ≠ 0x0100 ∧ r.msg ≠ 0x0101 ∧ r.msg ≠ 0x0300 ∧ r.msg ≠ 0x0301) ∧
      (∀ n, t.dev.tally n = { s.dev.tally n with moved := false }) ∧
      (∀ l x, Tab.get? s.dev.launches l = some x → Tab.get? t.dev.launches l = some { x with epochs := x.epochs + 1 }) ∧
      ((∀ p, (s.dev.part p).pendCfg = none) → s.dev.mgmt.reqs = [] →
        t.dev.mgmt.hb.level = (s.dev.mgmt.hb.level != s.dev.fed) ∧
        t.dev.mgmt.hb.missed = if s.dev.mgmt.hb.en = true ∧ s.dev.fed = false then min (s.dev.mgmt.hb.missed + 1) (2 ^ 14 - 1)
          else s.dev.mgmt.hb.missed))

/-- The reset values that the spec states: the timestamp at zero, the a-clock at 100 MHz, partition 0 valid with the physical function and
WEIGHT 0x10, every other partition and context invalid, rings disabled, tallies 0 and unowned, ways open to all, the tag ranges apart (01 R51,
R52; 04 R157; 05 R185; 06 R221; 07 R248, R250; 10 R353).
The time base is consistent after reset (01 R50-R52). -/
def Obligations.ResetLeavesTheStatedValues : Prop :=
  (let d := State.reset.dev
   State.reset.pending = [] ∧ d.time = { ts := 0, epoch := 0, phase := 0, aPoint := 0 } ∧ d.dp.count = 0 ∧ d.dp.step = 0 ∧
   ((d.part 0).cfg.valid = true ∧ (d.part 0).cfg.func = 0 ∧ (d.part 0).cfg.weight = 0x10 ∧ (d.part 0).cfg.safety = false) ∧
   (∀ p, p ≠ 0 → (d.part p).cfg.valid = false) ∧ (∀ c, (d.ctx c).valid = false) ∧
   (∀ f r, (d.ring f r).en = false ∧ (d.ring f r).st = .disabled ∧ (d.ring f r).head = 0 ∧ (d.ring f r).tail = 0 ∧ (d.ring f r).done = 0) ∧
   (∀ f, (d.func f).tagBase = 2560 * f ∧ (d.func f).tagCount = 2560 ∧ (d.func f).flr = none ∧ (d.func f).eventVec = 0) ∧
   (∀ n, (d.tally n).value = 0 ∧ (d.tally n).lost = false ∧ (d.tally n).stale = false ∧ (d.tally n).owner = none) ∧
   (∀ r, d.allocMask r = 0xFFFF) ∧ d.mem.pinned = 0 ∧ d.mgmt.bring.mismatch = 0 ∧ d.mgmt.chip.valid = false ∧ d.faultRec.valid = false ∧
   d.mgmt.hb.lock = false ∧ d.mgmt.hb.en = false ∧ d.mgmt.clk.switching = false ∧ d.aud.count = [] ∧ d.aud.viol = []) ∧
  (TimeOk State.reset.dev.time)

/-- Every step keeps the time base consistent: a 64-bit timestamp, a 47-bit epoch index, a phase that is the timestamp within its epoch, an
operating point that exists (00 R25-R28; 01 R38, R50-R52). -/
def Obligations.EveryStepKeepsTheTimeBaseConsistent : Prop :=
  ∀ (s t : State), TimeOk s.dev.time → step s = .next t → TimeOk t.dev.time

/-- Every step takes exactly the front command off the queue and answers a next state; the time base changes only by a full reset, a boundary
or a k-cycle without a command, and no step ever clears a fuse (00 R25; 14 R490, R491; 15 R496). -/
def Obligations.StepsKeepTheQueueTheTimeAndTheFuses : Prop :=
  ∀ (s : State), ∃ t, step s = .next t ∧ t.pending = s.pending.tail ∧ FusesGrow s.dev.fuses t.dev.fuses ∧
    (∀ c r, s.pending = c :: r → keepsTime c → t.dev.time = s.dev.time) ∧
    (∀ c r, s.pending = c :: r → (∀ f x, c ≠ .svnCommit f x) → (∀ f b, c ≠ .keyRevoke f b) → t.dev.fuses = s.dev.fuses)

/-- The heartbeat's enable and tally change until LOCK is written; a violation counter is cleared as it is read; a sample is recorded in the
ring of its function, or dropped when it is full; an unmasked vector sends the message it holds; an enabled edge of a GPIO pin is captured (10
R369; 15 R509; 16 R527, R530-R532; 17 R556). -/
def Obligations.RegistersOfTheBoard : Prop :=
  (∀ (s : State) (v : Nat), s.dev.clocked = true → s.dev.hostOk 0 = true →
    let h := s.dev.mgmt.hb
    let tally := fld v 27 14
    (h.lock = false → exec (.heartbeatWrite v) s = .next (withDev s { s.dev with mgmt := { s.dev.mgmt with
      hb := { h with en := v.testBit 30, feedTally := tally, lock := v.testBit 31 } } })) ∧
    (h.lock = true → v.testBit 30 = h.en → tally = h.feedTally → exec (.heartbeatWrite v) s = .next s) ∧
    (h.lock = true → (v.testBit 30 ≠ h.en ∨ tally ≠ h.feedTally) →
      exec (.heartbeatWrite v) s = .next (withDev s (counted s.dev 0x70000)))) ∧
  (∀ (s : State) (f k : Nat), f < 16 → k < 5 → s.dev.mgmt.bring.wild = false →
    let off := 0x70000 + 32 * f + 4 * k
    (s.dev.hostOk f = true → exec (.violationCounterRead f (0x20100 + 4 * k)) s = .next (withDev s { s.dev with
      aud := { s.dev.aud with viol := Tab.del s.dev.aud.viol off }, sent := s.dev.sent ++ [.counter f (Tab.get s.dev.aud.viol off 0)] })) ∧
    (s.dev.hostOk f = false → exec (.violationCounterRead f (0x20100 + 4 * k)) s =
      .next (withDev s { s.dev with sent := s.dev.sent ++ [.readUr f] }))) ∧
  (∀ (s : State) (f v : Nat), f < 16 → s.dev.clocked = true → s.dev.hostOk f = true →
    let u := s.dev.func f
    let p := u.pcs
    let allowed := s.dev.bound f (fld v 27 24) = true ∧ s.dev.ownsCtx f (fld v 23 16) = true
    let set := fun (q : Pcs) => Host.Outcome.next (withDev s { s.dev with funcs := Tab.put s.dev.funcs f { u with pcs := q } })
    let code := fun (lo hi x old : Nat) => if lo ≤ x ∧ x ≤ hi then x else old
    let used := (((p.head : Int) - (v % 2 ^ 32 : Nat)) % (2 ^ 32 : Nat)).toNat
    (v.testBit 31 = true → ¬ allowed → exec (.pcsCtrlWrite f v) s = .next (withDev s (counted s.dev (0x70000 + 32 * f)))) ∧
    ((v.testBit 31 = false ∨ allowed) → p.en = true → exec (.pcsCtrlWrite f v) s = set { p with en := v.testBit 31 }) ∧
    ((v.testBit 31 = false ∨ allowed) → p.en = false → exec (.pcsCtrlWrite f v) s = set { p with
      en := v.testBit 31, part := fld v 27 24, ctx := fld v 23 16, periodLog2 := code 10 24 (fld v 12 8) p.periodLog2
      sizeLog2 := code 8 20 (v % 32) p.sizeLog2, head := if v.testBit 31 then 0 else p.head }) ∧
    (used ≤ 2 ^ p.sizeLog2 → exec (.pcsTailWrite f v) s = set { p with tail := v % 2 ^ 32 }) ∧
    (2 ^ p.sizeLog2 < used → exec (.pcsTailWrite f v) s = .next (withDev s (counted s.dev (0x70000 + 32 * f))))) ∧
  (∀ (s : State) (f core k pc grp cyc : Nat) (mx : Bool),
    let p := (s.dev.func f).pcs
    let due := core * 2 ^ p.periodLog2 / 1024
    let fill := (((p.head : Int) - p.tail) % (2 ^ 32 : Nat)).toNat
    let dva := p.base * 64 + 16 * (p.head % 2 ^ p.sizeLog2)
    let d0 := { s.dev with free := s.dev.free + 1 }
    f < 16 → p.en = true → s.dev.running = true → s.dev.plan.coreOk core = true →
    (s.dev.part p.part).held.getLsbD (core / 16) = true → (s.dev.core core).groups ≠ [] → k < max s.dev.aPerK 1 →
    (s.dev.cycle + k) % 2 ^ p.periodLog2 = due → (∀ j, j < k → (s.dev.cycle + j) % 2 ^ p.periodLog2 ≠ due) →
    (s.dev.core core).lastIssue = some (pc, grp, mx, cyc) → s.dev.cycle ≤ cyc + 4 →
    (2 ^ p.sizeLog2 ≤ fill → exec (.pcSample f core) s = .next (withDev s (counted d0 (0x70000 + 32 * f + 16)))) ∧
    (fill < 2 ^ p.sizeLog2 → ∀ pa attr d1, d0.translate p.ctx dva .write = (.ok (pa, attr), d1) →
      ∃ t, exec (.pcSample f core) s = .next t ∧ t.pending = s.pending ∧
        MemorySide { d0 with funcs := t.dev.funcs } t.dev ∧ (t.dev.func f).pcs = { p with head := (p.head + 1) % 2 ^ 32 } ∧
        (∀ g, g ≠ f → (t.dev.func g).pcs = (s.dev.func g).pcs) ∧
        t.dev.mem = (d1.ncWrite (s.dev.rqPart p.part) (attrFor true pa attr) (pa / 128) (spanMask (pa % 128) 16)
          (lineSet 0 (pa % 128) (sampleBytes pc (s.dev.cycle + k) grp core 0 mx)) 0).mem)) ∧
  (∀ (s : State) (f v : Nat), f < 16 → s.dev.clocked = true → v < vecCount f → s.dev.mgmt.bring.wild = false →
    let u := s.dev.func f
    let x := s.dev.vec f v
    let unmasked := fun (pending : Bool) => { s.dev with funcs := Tab.put s.dev.funcs f { u with
      vecs := Tab.put u.vecs v { x with masked := false, pending := pending } } }
    let open_ := u.msixEn = true ∧ u.msixMask = false ∧ u.bme = true ∧ u.d3hot = false
    (x.pending = true → open_ → exec (.msixUnmask f (some v)) s = .next (withDev s { unmasked false with
      sent := s.dev.sent ++ [.msix f v x.addr x.data] })) ∧
    (x.pending = false ∨ ¬ open_ → exec (.msixUnmask f (some v)) s = .next (withDev s (unmasked x.pending))) ∧
    (∃ t, exec (.msixUnmask f none) s = .next t ∧ t.pending = s.pending ∧ (t.dev.func f).msixMask = false ∧
      (x.pending = true → x.masked = false → u.msixEn = true → u.bme = true → u.d3hot = false →
        .msix f v x.addr x.data ∈ t.dev.sent ∧ (t.dev.vec f v).pending = false) ∧
      t.dev = { s.dev with funcs := t.dev.funcs, sent := t.dev.sent } ∧ (∀ g, g ≠ f → t.dev.func g = s.dev.func g))) ∧
  (∀ (s : State) (n : Nat) (level : Bool), n < 16 →
    let g := s.dev.mgmt.gpio
    (s.dev.clocked = false → ∃ t, exec (.gpioEdge n level) s = .next t ∧ t = withDev s { s.dev with mgmt := { s.dev.mgmt with
      gpio := { g with pins := t.dev.mgmt.gpio.pins } } } ∧
      ∀ j, j < 16 → t.dev.mgmt.gpio.pins.getLsbD j = if j = n then level else g.pins.getLsbD j) ∧
    (s.dev.clocked = true → s.dev.engines = [] → ∃ t, exec (.gpioEdge n level) s = .next t ∧ t.pending = s.pending ∧
      t.dev.mgmt = { s.dev.mgmt with gpio := { g with pins := t.dev.mgmt.gpio.pins, cap := t.dev.mgmt.gpio.cap } } ∧
      (∀ j, j < 16 → t.dev.mgmt.gpio.pins.getLsbD j = if j = n then level else g.pins.getLsbD j) ∧
      (∀ j, j < 16 → t.dev.mgmt.gpio.cap.getLsbD j = (g.cap.getLsbD j ||
        (decide (j = n) && (level != g.pins.getLsbD j) && !g.dir.getLsbD j && g.edgeEn.getLsbD j))) ∧
      t.dev = { s.dev with mgmt := t.dev.mgmt, funcs := t.dev.funcs, sent := t.dev.sent, free := t.dev.free } ∧
      (g.irqEn = false → t.dev.funcs = s.dev.funcs ∧ t.dev.sent = s.dev.sent)))

/-- The SMBus target answers each read command with its data from reset release on and acknowledges no write; the TAP takes its instructions,
while PERST_N is deasserted every one but IDCODE as BYPASS; after TAP reset it holds IDCODE (17 R554, R555, Table 17-11). -/
def Obligations.BoardBuses : Prop :=
  (∀ (s : State), (∀ row ∈ smbRows s.dev,
      (s.dev.clocked = true → s.dev.mgmt.bring.wild = false →
        exec row.1 s = .next (withDev s { s.dev with sent := s.dev.sent ++ [.smbus row.2] })) ∧
      (s.dev.clocked = false → exec row.1 s = .next s)) ∧
    (s.dev.clocked = true → s.dev.mgmt.bring.wild = false →
      exec .smbWrite s = .next (withDev s { s.dev with sent := s.dev.sent ++ [.smbusNack] })) ∧
    (s.dev.clocked = false → exec .smbWrite s = .next s)) ∧
  (∀ (s : State), s.dev.mgmt.bring.powered = true →
    let loads := fun (i : TapInsn) (r : Bool) => { s.dev with mgmt := { s.dev.mgmt with tap := i, tapReset := r } }
    (∀ row ∈ tapRows, exec row.1 s = .next (withDev s (loads (if s.dev.mgmt.bring.held then row.2 else .bypass) false))) ∧
    (s.dev.mgmt.bring.wild = false → exec .idcode s = .next (withDev s { loads .idcode false with
      sent := s.dev.sent ++ [.tdo 0x2816016F] })) ∧
    exec .tapReset s = .next (withDev s (loads .idcode true))) ∧
  (∀ (s : State), s.dev.mgmt.bring.powered = false → ∀ row ∈ tapRows, exec row.1 s = .next s)
end

