-- ==== Sys2Proof/Laws/Tab.lean ====
section
/-! SUPPORT. What reading a sparse map or a byte memory gives after each change, and that each change keeps the canonical
form. -/

namespace Sys2Proof

/-! ### Sparse maps: what is read -/

@[simp] theorem Tab.get?_put_self {α : Type} (t : Tab α) (k : Nat) (a : α) : Tab.get? (Tab.put t k a) k = some a := by
  induction t with
  | nil => simp [Tab.put, Tab.get?]
  | cons e r ih => obtain ⟨j, b⟩ := e; simp only [Tab.put]; split <;> (try split) <;> simp_all [Tab.get?]

theorem Tab.get?_put_of_ne {α : Type} (t : Tab α) {k j : Nat} (a : α) (h : j ≠ k) :
    Tab.get? (Tab.put t k a) j = Tab.get? t j := by
  induction t with
  | nil => simp [Tab.put, Tab.get?, Ne.symm h]
  | cons e r ih =>
    obtain ⟨m, b⟩ := e
    simp only [Tab.put]
    split
    · simp [Tab.get?, Ne.symm h]
    · split
      · rename_i hm; subst hm; simp [Tab.get?, Ne.symm h]
      · simp only [Tab.get?, ih]

@[simp] theorem Tab.get_put_self {α : Type} (t : Tab α) (k : Nat) (a d : α) : Tab.get (Tab.put t k a) k d = a := by
  simp [Tab.get]

theorem Tab.get_put_of_ne {α : Type} (t : Tab α) {k j : Nat} (a d : α) (h : j ≠ k) :
    Tab.get (Tab.put t k a) j d = Tab.get t j d := by
  simp [Tab.get, Tab.get?_put_of_ne t a h]

@[simp] theorem Tab.get?_nil {α : Type} (k : Nat) : Tab.get? ([] : Tab α) k = none := rfl

@[simp] theorem Tab.get_nil {α : Type} (k : Nat) (d : α) : Tab.get ([] : Tab α) k d = d := rfl

theorem Tab.get?_del_self {α : Type} (t : Tab α) (k : Nat) : Tab.get? (Tab.del t k) k = none := by
  induction t with
  | nil => rfl
  | cons e r ih =>
    obtain ⟨j, b⟩ := e
    by_cases h : j = k
    · subst h; simpa [Tab.del] using ih
    · simpa [Tab.del, h, Tab.get?] using ih

theorem Tab.get?_del_of_ne {α : Type} (t : Tab α) {k j : Nat} (h : j ≠ k) : Tab.get? (Tab.del t k) j = Tab.get? t j := by
  induction t with
  | nil => rfl
  | cons e r ih =>
    obtain ⟨m, b⟩ := e
    by_cases hm : m = k
    · subst hm
      simp only [Tab.del, List.filter, bne_self_eq_false, Tab.get?, Ne.symm h, ite_false]
      exact ih
    · have : (m != k) = true := by simpa using hm
      simp only [Tab.del, List.filter, this, Tab.get?]
      split
      · rfl
      · exact ih

theorem Tab.get?_mod {α : Type} (t : Tab α) (k j : Nat) (f : α → α) :
    Tab.get? (Tab.mod t k f) j = if j = k then (Tab.get? t j).map f else Tab.get? t j := by
  induction t with
  | nil => simp [Tab.mod]
  | cons e r ih =>
    obtain ⟨m, b⟩ := e
    simp only [Tab.mod, List.map] at ih ⊢
    by_cases hm : m = k
    · subst hm
      by_cases hj : m = j
      · subst hj; simp [Tab.get?]
      · have hj' : ¬ j = m := fun h => hj h.symm
        simp only [Tab.get?, if_true, hj, hj', if_false] at ih ⊢
        exact ih
    · by_cases hj : m = j
      · subst hj; simp [Tab.get?, hm]
      · simp only [Tab.get?, hm, hj, if_false] at ih ⊢
        exact ih

theorem Tab.get_upd_self {α : Type} (t : Tab α) (k : Nat) (d e : α) (f : α → α) :
    Tab.get (Tab.upd t k d f) k e = f (Tab.get t k d) := by simp [Tab.upd]

theorem Tab.get_upd_of_ne {α : Type} (t : Tab α) {k j : Nat} (d e : α) (f : α → α) (h : j ≠ k) :
    Tab.get (Tab.upd t k d f) j e = Tab.get t j e := by simp [Tab.upd, Tab.get_put_of_ne t _ _ h]

/-! ### Sparse maps: the keys stay strictly rising -/

/-- Every key of `t` is above `k`. -/
def Tab.above {α : Type} (k : Nat) (t : Tab α) : Bool := t.all (fun e => decide (k < e.1))

theorem Tab.wf_cons {α : Type} (k : Nat) (a : α) (t : Tab α) :
    Tab.wf ((k, a) :: t) = (Tab.above k t && Tab.wf t) := by
  induction t generalizing k a with
  | nil => simp [Tab.wf, Tab.above]
  | cons e r ih =>
    obtain ⟨j, b⟩ := e
    rw [show Tab.wf ((k, a) :: (j, b) :: r) = (decide (k < j) && Tab.wf ((j, b) :: r)) from rfl, ih j b]
    by_cases h : k < j
    · by_cases h2 : Tab.above j r = true
      · have h3 : Tab.above k r = true := by
          simp only [Tab.above, List.all_eq_true, decide_eq_true_eq] at h2 ⊢
          intro x hx; exact Nat.lt_trans h (h2 x hx)
        have h4 : Tab.above k ((j, b) :: r) = (decide (k < j) && Tab.above k r) := rfl
        rw [h4, h2, h3]; simp [h]
      · have h2' : Tab.above j r = false := by simpa using h2
        simp [h2']
    · simp [Tab.above, h]

theorem Tab.put_above {α : Type} {t : Tab α} {k j : Nat} (a : α) (h : Tab.above j t = true) (hk : j < k) :
    Tab.above j (Tab.put t k a) = true := by
  induction t with
  | nil => simp [Tab.put, Tab.above, hk]
  | cons e r ih =>
    obtain ⟨m, b⟩ := e
    simp only [Tab.above, List.all_cons, Bool.and_eq_true, decide_eq_true_eq] at h ih
    simp only [Tab.put]
    split
    · simp [Tab.above, hk, h.1]; simpa using h.2
    · split
      · simp [Tab.above, hk]; simpa using h.2
      · simp only [Tab.above, List.all_cons, Bool.and_eq_true, decide_eq_true_eq]
        exact ⟨h.1, ih h.2⟩

theorem Tab.put_wf {α : Type} {t : Tab α} (k : Nat) (a : α) (h : Tab.wf t = true) : Tab.wf (Tab.put t k a) = true := by
  induction t with
  | nil => rfl
  | cons e r ih =>
    obtain ⟨m, b⟩ := e
    rw [Tab.wf_cons, Bool.and_eq_true] at h
    simp only [Tab.put]
    split
    · rename_i hlt
      rw [Tab.wf_cons, Tab.wf_cons, h.1, h.2]
      have : Tab.above m r = true := h.1
      simp only [Tab.above, List.all_cons, Bool.and_eq_true, decide_eq_true_eq, Bool.and_true, List.all_eq_true] at this ⊢
      exact ⟨hlt, fun x hx => Nat.lt_trans hlt (this x hx)⟩
    · split
      · rename_i hm; subst hm; rw [Tab.wf_cons, h.1, h.2]; rfl
      · rename_i h1 h2
        rw [Tab.wf_cons, ih h.2, Tab.put_above a h.1 (by omega)]; rfl

theorem Tab.filter_above {α : Type} {t : Tab α} {j : Nat} (p : Nat × α → Bool) (h : Tab.above j t = true) :
    Tab.above j (t.filter p) = true := by
  simp only [Tab.above, List.all_eq_true, decide_eq_true_eq, List.mem_filter] at h ⊢
  exact fun x hx => h x hx.1

theorem Tab.filter_wf {α : Type} {t : Tab α} (p : Nat × α → Bool) (h : Tab.wf t = true) : Tab.wf (t.filter p) = true := by
  induction t with
  | nil => rfl
  | cons e r ih =>
    obtain ⟨m, b⟩ := e
    rw [Tab.wf_cons, Bool.and_eq_true] at h
    rw [List.filter_cons]
    split
    · rw [Tab.wf_cons, Tab.filter_above p h.1, ih h.2]; rfl
    · exact ih h.2

theorem Tab.del_wf {α : Type} {t : Tab α} (k : Nat) (h : Tab.wf t = true) : Tab.wf (Tab.del t k) = true :=
  Tab.filter_wf _ h

theorem Tab.keep_wf {α : Type} {t : Tab α} (p : Nat → α → Bool) (h : Tab.wf t = true) : Tab.wf (Tab.keep t p) = true :=
  Tab.filter_wf _ h

theorem Tab.mod_above {α : Type} {t : Tab α} {j : Nat} (k : Nat) (f : α → α) (h : Tab.above j t = true) :
    Tab.above j (Tab.mod t k f) = true := by
  simp only [Tab.above, List.all_eq_true, decide_eq_true_eq, Tab.mod, List.mem_map] at h ⊢
  rintro x ⟨y, hy, rfl⟩
  have := h y hy
  split <;> exact this

theorem Tab.mod_wf {α : Type} {t : Tab α} (k : Nat) (f : α → α) (h : Tab.wf t = true) : Tab.wf (Tab.mod t k f) = true := by
  induction t with
  | nil => rfl
  | cons e r ih =>
    obtain ⟨m, b⟩ := e
    rw [Tab.wf_cons, Bool.and_eq_true] at h
    have hm : Tab.mod ((m, b) :: r) k f = (m, if m = k then f b else b) :: Tab.mod r k f := by
      simp only [Tab.mod, List.map]; split <;> rfl
    rw [hm, Tab.wf_cons, Tab.mod_above k f h.1, ih h.2]; rfl

theorem Tab.upd_wf {α : Type} {t : Tab α} (k : Nat) (d : α) (f : α → α) (h : Tab.wf t = true) :
    Tab.wf (Tab.upd t k d f) = true := Tab.put_wf k _ h

/-! ### Byte memory -/

/-- Every listed address is above `a`. -/
def Mem.above (a : Nat) (m : Mem) : Bool := m.all (fun e => decide (a < e.1))

theorem Mem.wf_cons (a : Nat) (b : Byte) (m : Mem) : Mem.wf ((a, b) :: m) = (b != 0 && Mem.above a m && Mem.wf m) := by
  induction m generalizing a b with
  | nil => simp [Mem.wf, Mem.above]
  | cons e r ih =>
    obtain ⟨j, c⟩ := e
    rw [show Mem.wf ((a, b) :: (j, c) :: r) = (b != 0 && decide (a < j) && Mem.wf ((j, c) :: r)) from rfl, ih j c]
    by_cases h : a < j
    · by_cases h2 : Mem.above j r = true
      · have h3 : Mem.above a r = true := by
          simp only [Mem.above, List.all_eq_true, decide_eq_true_eq] at h2 ⊢
          intro x hx; exact Nat.lt_trans h (h2 x hx)
        have h4 : Mem.above a ((j, c) :: r) = (decide (a < j) && Mem.above a r) := rfl
        rw [h4, h2, h3]; simp [h, Bool.and_assoc]
      · have h2' : Mem.above j r = false := by simpa using h2
        simp [h2']
    · simp [Mem.above, h]

/-- Nothing listed above its own address reads as anything but the unlisted value. -/
theorem Mem.read_of_above {m : Mem} {a : Nat} (h : Mem.above a m = true) : Mem.read m a = 0 := by
  induction m with
  | nil => rfl
  | cons e r ih =>
    obtain ⟨j, c⟩ := e
    simp only [Mem.above, List.all_cons, Bool.and_eq_true, decide_eq_true_eq] at h
    simp only [Mem.read]
    rw [if_neg (by omega)]
    exact ih h.2

theorem Mem.above_of_lt {m : Mem} {a b : Nat} (h : Mem.above b m = true) (hab : a ≤ b) : Mem.above a m = true := by
  simp only [Mem.above, List.all_eq_true, decide_eq_true_eq] at h ⊢
  exact fun x hx => Nat.lt_of_le_of_lt hab (h x hx)

theorem Mem.read_write_self {m : Mem} (a : Nat) (b : Byte) (h : Mem.wf m = true) : Mem.read (Mem.write m a b) a = b := by
  induction m with
  | nil => simp only [Mem.write]; split <;> simp_all [Mem.read]
  | cons e r ih =>
    obtain ⟨j, c⟩ := e
    rw [Mem.wf_cons, Bool.and_eq_true, Bool.and_eq_true] at h
    simp only [Mem.write]
    split
    · rename_i hlt
      split
      · rename_i hb
        simp only [Mem.read]
        rw [if_neg (by omega), hb]
        exact Mem.read_of_above (Mem.above_of_lt h.1.2 (by omega))
      · simp [Mem.read]
    · split
      · rename_i hj
        split
        · rename_i hb; rw [hb, ← hj]; exact Mem.read_of_above h.1.2
        · simp [Mem.read]
      · rename_i hj
        simp only [Mem.read]
        rw [if_neg hj]
        exact ih h.2

theorem Mem.read_write_of_ne (m : Mem) {a k : Nat} (b : Byte) (h : k ≠ a) : Mem.read (Mem.write m a b) k = Mem.read m k := by
  induction m with
  | nil =>
    simp only [Mem.write]
    split
    · rfl
    · simp [Mem.read, Ne.symm h]
  | cons e r ih =>
    obtain ⟨j, c⟩ := e
    simp only [Mem.write]
    split
    · split
      · rfl
      · simp [Mem.read, Ne.symm h]
    · split
      · rename_i hj
        subst hj
        split
        · simp [Mem.read, Ne.symm h]
        · simp [Mem.read, Ne.symm h]
      · simp only [Mem.read, ih]

theorem Mem.write_above {m : Mem} {a k : Nat} (b : Byte) (h : Mem.above k m = true) (hk : k < a) :
    Mem.above k (Mem.write m a b) = true := by
  induction m with
  | nil => simp only [Mem.write]; split <;> simp [Mem.above, hk]
  | cons e r ih =>
    obtain ⟨j, c⟩ := e
    simp only [Mem.above, List.all_cons, Bool.and_eq_true, decide_eq_true_eq] at h ih
    simp only [Mem.write]
    split
    · split
      · simp [Mem.above, h.1]; simpa using h.2
      · simp [Mem.above, h.1, hk]; simpa using h.2
    · split
      · split
        · simpa [Mem.above] using h.2
        · simp [Mem.above, hk]; simpa using h.2
      · simp only [Mem.above, List.all_cons, Bool.and_eq_true, decide_eq_true_eq]
        exact ⟨h.1, ih h.2⟩

/-- Writing a byte keeps the canonical form. -/
theorem Mem.write_wf {m : Mem} (a : Nat) (b : Byte) (h : Mem.wf m = true) : Mem.wf (Mem.write m a b) = true := by
  induction m with
  | nil => simp only [Mem.write]; split <;> simp_all [Mem.wf]
  | cons e r ih =>
    obtain ⟨j, c⟩ := e
    have h0 := h
    rw [Mem.wf_cons, Bool.and_eq_true, Bool.and_eq_true] at h
    simp only [Mem.write]
    split
    · rename_i hlt
      split
      · exact h0
      · rename_i hb
        rw [Mem.wf_cons, h0]
        have : Mem.above a ((j, c) :: r) = true := by
          have := Mem.above_of_lt h.1.2 (show a ≤ j by omega)
          simp only [Mem.above, List.all_cons, Bool.and_eq_true, decide_eq_true_eq] at this ⊢
          exact ⟨hlt, this⟩
        rw [this]; simpa using hb
    · split
      · rename_i hj
        subst hj
        split
        · exact h.2
        · rename_i hb; rw [Mem.wf_cons, h.1.2, h.2]; simpa using hb
      · rename_i h1 h2
        rw [Mem.wf_cons, ih h.2, Mem.write_above b h.1.2 (by omega)]
        simpa using h.1.1

theorem Mem.writeN_wf {m : Mem} (a : Nat) (bs : List Byte) (h : Mem.wf m = true) : Mem.wf (Mem.writeN m a bs) = true := by
  induction bs generalizing m a with
  | nil => exact h
  | cons b r ih => exact ih (a + 1) (Mem.write_wf a b h)

theorem Mem.setLine_wf {m : Mem} (a : Nat) (l : Line) (h : Mem.wf m = true) : Mem.wf (Mem.setLine m a l) = true :=
  Mem.writeN_wf a _ h

theorem Mem.filter_wf {m : Mem} (p : Host.Cell → Bool) (h : Mem.wf m = true) : Mem.wf (m.filter p) = true := by
  induction m with
  | nil => rfl
  | cons e r ih =>
    obtain ⟨j, c⟩ := e
    rw [Mem.wf_cons, Bool.and_eq_true, Bool.and_eq_true] at h
    rw [List.filter_cons]
    split
    · rw [Mem.wf_cons, ih h.2]
      have : Mem.above j (r.filter p) = true := by
        have := h.1.2
        simp only [Mem.above, List.all_eq_true, decide_eq_true_eq, List.mem_filter] at this ⊢
        exact fun x hx => this x hx.1
      rw [this]; simpa using h.1.1
    · exact ih h.2

theorem Mem.zero_wf {m : Mem} (a n : Nat) (h : Mem.wf m = true) : Mem.wf (Mem.zero m a n) = true := Mem.filter_wf _ h

/-- Bytes outside a written range read as before. -/
theorem Mem.read_writeN_outside (m : Mem) {a k : Nat} (bs : List Byte) (h : k < a ∨ a + bs.length ≤ k) :
    Mem.read (Mem.writeN m a bs) k = Mem.read m k := by
  induction bs generalizing m a with
  | nil => rfl
  | cons b r ih =>
    simp only [List.length_cons] at h
    rw [Mem.writeN, ih (Mem.write m a b) (by omega), Mem.read_write_of_ne m b (by omega)]

end Sys2Proof
end

