-- ==== Sys2Proof/Laws/State.lean ====
section
/-! SUPPORT. What each update of State reads as: the shape of every meaning, and the cores with their groups and strands. -/

namespace Sys2Proof.Machine

/-! ### The shape of every meaning -/

theorem State.on_eq (f : Dev → Dev) (s : State) :
    s.on f = .next { s with dev := { f s.dev with time := s.dev.time, fuses := s.dev.fuses } } := rfl

theorem State.onTime_eq (f : Dev → Dev) (s : State) :
    s.onTime f = .next { s with dev := { f s.dev with fuses := s.dev.fuses } } := rfl

@[simp] theorem State.on_ne_fault (f : Dev → Dev) (s : State) (r : Fault) : (s.on f = .fault r) = False := by
  simp [State.on]

@[simp] theorem State.on_ne_refused (f : Dev → Dev) (s : State) (r : Refusal) : (s.on f = .refused r) = False := by
  simp [State.on]

/-! ### Cores -/

@[simp] theorem Dev.core_setCore_self (d : Dev) (i : Nat) (c : Core) : (d.setCore i c).core i = c := by
  simp [Dev.core, Dev.setCore]

theorem Dev.core_setCore_of_ne (d : Dev) {i j : Nat} (c : Core) (h : j ≠ i) : (d.setCore i c).core j = d.core j := by
  simp [Dev.core, Dev.setCore, Tab.get_put_of_ne _ _ _ h]

@[simp] theorem Dev.core_modCore_self (d : Dev) (i : Nat) (f : Core → Core) : (d.modCore i f).core i = f (d.core i) := by
  simp [Dev.modCore]

theorem Dev.core_modCore_of_ne (d : Dev) {i j : Nat} (f : Core → Core) (h : j ≠ i) : (d.modCore i f).core j = d.core j := by
  simp [Dev.modCore, Dev.core_setCore_of_ne d _ h]

/-! ### Groups -/

/-- Reading a group after one was changed: the change shows where the slot holds a group. -/
theorem Dev.group_modGroup (d : Dev) (ci slot k : Nat) (f : Group → Group) :
    (d.modGroup ci slot f).group ci k =
      if k = slot ∧ Tab.has (d.core ci).groups slot = true then f (d.group ci k) else d.group ci k := by
  simp only [Dev.group, Dev.modGroup, Dev.core_modCore_self, Tab.get, Tab.get?_mod]
  by_cases h : k = slot
  · subst h
    cases hg : Tab.get? (d.core ci).groups k <;> simp [Tab.has, hg]
  · simp [h]

theorem Dev.group_modGroup_of_ne (d : Dev) {ci cj : Nat} (slot k : Nat) (f : Group → Group) (h : cj ≠ ci) :
    (d.modGroup ci slot f).group cj k = d.group cj k := by
  simp [Dev.group, Dev.modGroup, Dev.core_modCore_of_ne d _ h]

@[simp] theorem Dev.has_modGroup (d : Dev) (ci slot k : Nat) (f : Group → Group) :
    Tab.has ((d.modGroup ci slot f).core ci).groups k = Tab.has (d.core ci).groups k := by
  simp only [Dev.modGroup, Dev.core_modCore_self, Tab.has, Tab.get?_mod]
  split <;> simp

/-! ### Strands -/

@[simp] theorem Dev.strand?_setStrand_self (d : Dev) (ci sid : Nat) (s : Strand) :
    (d.setStrand ci sid s).strand? ci sid = some s := by
  simp [Dev.strand?, Dev.setStrand]

theorem Dev.strand?_setStrand_of_ne (d : Dev) (ci : Nat) {sid k : Nat} (s : Strand) (h : k ≠ sid) :
    (d.setStrand ci sid s).strand? ci k = d.strand? ci k := by
  simp [Dev.strand?, Dev.setStrand, Tab.get?_put_of_ne _ _ h]

theorem Dev.strand?_delStrand_of_ne (d : Dev) (ci : Nat) {sid k : Nat} (h : k ≠ sid) :
    (d.delStrand ci sid).strand? ci k = d.strand? ci k := by
  simp [Dev.strand?, Dev.delStrand, Tab.get?_del_of_ne _ h]

@[simp] theorem Dev.strand?_modGroup (d : Dev) (ci slot k : Nat) (f : Group → Group) :
    (d.modGroup ci slot f).strand? ci k = d.strand? ci k := by
  simp [Dev.strand?, Dev.modGroup]

@[simp] theorem Dev.group_setStrand (d : Dev) (ci sid k : Nat) (s : Strand) :
    (d.setStrand ci sid s).group ci k = d.group ci k := by
  simp [Dev.group, Dev.setStrand]

@[simp] theorem Dev.groups_setStrand (d : Dev) (ci sid : Nat) (s : Strand) :
    ((d.setStrand ci sid s).core ci).groups = (d.core ci).groups := by simp [Dev.setStrand]

end Sys2Proof.Machine
end

