-- ==== Sys2Proof/Laws/Issue.lean ====
section
/-! SUPPORT. What the issue of a core instruction and the writing of its results can do. -/

namespace Sys2Proof.Safety
open Sys2Proof.Machine

/-! ### Frames compose -/

theorem CoreSide.refl (d : Dev) : CoreSide d d := rfl

theorem CoreSide.trans {d e f : Dev} (h : CoreSide d e) (k : CoreSide e f) : CoreSide d f := by
  unfold CoreSide at *; rw [k, h]

theorem CoreSide.foldl {β : Type} {f : Dev → β → Dev} (h : ∀ d b, CoreSide d (f d b)) (l : List β) (d : Dev) :
    CoreSide d (l.foldl f d) := by
  induction l generalizing d with
  | nil => exact CoreSide.refl d
  | cons b r ih => exact (h d b).trans (ih (f d b))

/-- Only core `ci` differs, and of it only its groups (as `GroupSide` says), its strands and its last instruction. -/
def IssueOnly (ci : Nat) (d e : Dev) : Prop :=
  CoreSide d e ∧ OneCore ci d e ∧ IssueSide ci d e ∧ (∀ slot, GroupSide (d.group ci slot) (e.group ci slot)) ∧
  ∀ slot, Tab.has (e.core ci).groups slot = Tab.has (d.core ci).groups slot

theorem IssueOnly.refl (ci : Nat) (d : Dev) : IssueOnly ci d d := ⟨rfl, fun _ _ => rfl, rfl, fun _ => rfl, fun _ => rfl⟩

theorem IssueOnly.trans {ci : Nat} {d e f : Dev} (h : IssueOnly ci d e) (k : IssueOnly ci e f) : IssueOnly ci d f := by
  obtain ⟨h1, h2, h3, h4, h5⟩ := h
  obtain ⟨k1, k2, k3, k4, k5⟩ := k
  refine ⟨h1.trans k1, fun j hj => (k2 j hj).trans (h2 j hj), ?_, ?_, fun s => (k5 s).trans (h5 s)⟩
  · unfold IssueSide at *; rw [k3, h3]
  · intro s
    have a := h4 s
    have b := k4 s
    unfold GroupSide at *; rw [b, a]

theorem IssueOnly.foldl {β : Type} {ci : Nat} {f : Dev → β → Dev} (h : ∀ d b, IssueOnly ci d (f d b)) (l : List β) (d : Dev) :
    IssueOnly ci d (l.foldl f d) := by
  induction l generalizing d with
  | nil => exact IssueOnly.refl ci d
  | cons b r ih => exact (h d b).trans (ih (f d b))

theorem count_coreSide (d : Dev) (off n : Nat) : CoreSide d (d.count off n) := by
  unfold CoreSide Dev.count; split <;> rfl

theorem count_core (d : Dev) (off n j : Nat) : (d.count off n).core j = d.core j := by
  unfold Dev.count; split <;> rfl

theorem count_group (d : Dev) (off n ci k : Nat) : (d.count off n).group ci k = d.group ci k := by
  simp [Dev.group, count_core]

@[simp] theorem countCore_core (d : Dev) (i e n j : Nat) : (d.countCore i e n).core j = d.core j := by
  simp [Dev.countCore, count_core]

@[simp] theorem countCore_strand? (d : Dev) (i e n ci k : Nat) : (d.countCore i e n).strand? ci k = d.strand? ci k := by
  simp [Dev.strand?]

@[simp] theorem countCore_group (d : Dev) (i e n ci k : Nat) : (d.countCore i e n).group ci k = d.group ci k := by
  simp [Dev.group]

theorem countCore_issueOnly (d : Dev) (ci i e n : Nat) : IssueOnly ci d (d.countCore i e n) := by
  refine ⟨?_, fun j _ => by simp, by simp [IssueSide], fun s => by simp [GroupSide], fun s => by simp⟩
  exact (count_coreSide _ _ _).trans (count_coreSide _ _ _)

/-- A change of one core's strands and last instruction. -/
theorem modCore_issueOnly (d : Dev) (ci : Nat) (f : Core → Core)
    (h : ∀ c, f c = { c with strands := (f c).strands, lastIssue := (f c).lastIssue }) :
    IssueOnly ci d (d.modCore ci f) := by
  have hg : (f (d.core ci)).groups = (d.core ci).groups := by rw [h (d.core ci)]
  refine ⟨rfl, fun j hj => Dev.core_modCore_of_ne d f hj, ?_, fun s => ?_, fun s => ?_⟩
  · simp only [IssueSide, Dev.core_modCore_self]
    conv => lhs; rw [h (d.core ci)]
    rw [hg]
  · simp [GroupSide, Dev.group, hg]
  · simp [hg]

theorem setStrand_issueOnly (d : Dev) (ci sid : Nat) (s : Strand) : IssueOnly ci d (d.setStrand ci sid s) :=
  modCore_issueOnly d ci _ (fun _ => rfl)

theorem delStrand_issueOnly (d : Dev) (ci sid : Nat) : IssueOnly ci d (d.delStrand ci sid) :=
  modCore_issueOnly d ci _ (fun _ => rfl)

/-- A change of one group's registers, predicates, uniform registers and watchdog. -/
theorem modGroup_issueOnly (d : Dev) (ci slot : Nat) (f : Group → Group) (h : ∀ g, GroupSide g (f g)) :
    IssueOnly ci d (d.modGroup ci slot f) := by
  refine ⟨rfl, fun j hj => Dev.core_modCore_of_ne d _ hj, by simp [IssueSide, Dev.modGroup], fun s => ?_, fun s => by simp⟩
  rw [Dev.group_modGroup]
  split
  · exact h _
  · rfl

/-! ### Merging and arriving (02 R62, R64) -/

theorem absorb_issueOnly (d : Dev) (ci sid o : Nat) : IssueOnly ci d (d.absorb ci sid o) := by
  unfold Dev.absorb
  split
  · exact ((setStrand_issueOnly _ _ _ _).trans (delStrand_issueOnly _ _ _)).trans (countCore_issueOnly _ _ _ _ _)
  · exact IssueOnly.refl ci d

theorem mergeHere_issueOnly (d : Dev) (ci sid : Nat) (w : Wait) : IssueOnly ci d (d.mergeHere ci sid w) := by
  unfold Dev.mergeHere
  refine IssueOnly.foldl (fun e o => ?_) _ d
  split
  · split
    · exact absorb_issueOnly _ _ _ _
    · exact IssueOnly.refl ci e
  · exact IssueOnly.refl ci e

theorem countIssue_issueOnly (d : Dev) (ci : Nat) (s : Strand) (w : BitVec 64) : IssueOnly ci d (d.countIssue ci s w) := by
  have h : ∀ (n m : Nat) (e : Dev) (x : Core → Nat × Nat × Bool × Nat), IssueOnly ci e
      (((e.countCore ci n 1).countCore ci 3 m).modCore ci (fun c => { c with lastIssue := some (x c) })) := fun n m e x =>
    ((countCore_issueOnly e ci ci n 1).trans (countCore_issueOnly _ ci ci 3 m)).trans
      (modCore_issueOnly _ ci _ (fun _ => rfl))
  unfold Dev.countIssue
  cases s.pair with
  | none => exact h _ _ d _
  | some p =>
    simp only
    split
    · exact h _ _ d _
    · exact (h _ _ d _).trans (countCore_issueOnly _ _ _ _ _)

theorem countIssue_strand? (d : Dev) (ci : Nat) (s : Strand) (w : BitVec 64) (k : Nat) :
    (d.countIssue ci s w).strand? ci k = d.strand? ci k := by
  unfold Dev.countIssue
  cases s.pair with
  | none => simp [Dev.strand?]
  | some p =>
    simp only
    split <;> simp [Dev.strand?]

/-- Nothing of an arrival shows outside the strands, the last instruction and the counters. -/
theorem arrive_issueOnly (d : Dev) (ci sid : Nat) (w : BitVec 64) : IssueOnly ci d (d.arrive ci sid w) := by
  have h : IssueOnly ci d (if wf w 50 50 = 1 then d.mergeHere ci sid .ready else d) := by
    split
    · exact mergeHere_issueOnly _ _ _ _
    · exact IssueOnly.refl ci d
  unfold Dev.arrive
  simp only
  split
  · exact h
  · exact (h.trans (countIssue_issueOnly _ _ _ _)).trans (setStrand_issueOnly _ _ _ _)

theorem mergeHere_strand (d : Dev) (ci sid : Nat) (w : Wait) (h : (d.strand? ci sid).isSome) :
    ((d.mergeHere ci sid w).strand? ci sid).isSome := by
  unfold Dev.mergeHere
  generalize (List.map (fun x => x.1) (d.core ci).strands) = l
  induction l generalizing d with
  | nil => exact h
  | cons o r ih =>
    refine ih _ ?_
    show ((match d.strand? ci sid, d.strand? ci o with
      | some a, some b => if (o != sid && b.wait == w && d.mergeable ci a b) = true then d.absorb ci sid o else d
      | _, _ => d).strand? ci sid).isSome
    split
    · rename_i a b ha hb
      split
      · rename_i hc
        have ho : sid ≠ o := by
          simp only [Bool.and_eq_true, bne_iff_ne] at hc; exact fun e => hc.1.1 e.symm
        unfold Dev.absorb
        rw [ha, hb]
        simp [Dev.strand?_delStrand_of_ne _ _ ho]
      · exact h
    · exact h

/-- The issuing strand is there when its instruction has arrived. -/
theorem arrive_strand (d : Dev) (ci sid : Nat) (w : BitVec 64) (h : (d.strand? ci sid).isSome) :
    ((d.arrive ci sid w).strand? ci sid).isSome := by
  have h2 : ((if wf w 50 50 = 1 then d.mergeHere ci sid .ready else d).strand? ci sid).isSome := by
    split
    · exact mergeHere_strand _ _ _ _ h
    · exact h
  unfold Dev.arrive
  simp only
  split
  · rename_i hn; rw [hn] at h2; simp at h2
  · simp

/-- The one spec of an issue: where `Issues` holds, the effect acts on the arrived strand and its active lanes. -/
theorem issue_spec {d : Dev} {i : Issue} {o : Nat} (h : Issues d i o) (takes : BitVec 64 → Bool)
    (eff : Dev → Strand → List (Nat × Nat) → Dev) (ht : takes i.word = true) :
    ∃ st, Arrives d i st ∧ d.issue i takes eff =
      eff (d.arrive i.core i.strand i.word) st ((d.arrive i.core i.strand i.word).active i.core st i.word) := by
  obtain ⟨s0, h1, h2, -, h4, h5, h6⟩ := h
  have ha := arrive_strand d i.core i.strand i.word (by rw [h1]; rfl)
  obtain ⟨st, hst⟩ := Option.isSome_iff_exists.mp ha
  refine ⟨st, hst, ?_⟩
  unfold Dev.issue
  simp [h1, h2, h4, h5, h6, ht, hst]

end Sys2Proof.Safety
end

