-- ==== Sys2Proof/Laws/Registers.lean ====
section
/-! SUPPORT. What the registers of a core read as after a result is written (02 R65, R80, R81). -/

namespace Sys2Proof.Safety
open Sys2Proof.Machine

/-! ### One word -/

theorem writeW_issueOnly (d : Dev) (ci slot lane code v : Nat) : IssueOnly ci d (d.writeW ci slot lane code v) := by
  unfold Dev.writeW
  split
  · exact modGroup_issueOnly _ _ _ _ (fun _ => rfl)
  · split
    · exact modGroup_issueOnly _ _ _ _ (fun _ => rfl)
    · split
      · exact modGroup_issueOnly _ _ _ _ (fun _ => rfl)
      · exact IssueOnly.refl ci d

theorem writeN_issueOnly (d : Dev) (ci slot lane code v n : Nat) : IssueOnly ci d (d.writeN ci slot lane code v n) := by
  induction n generalizing d code v with
  | zero => exact IssueOnly.refl ci d
  | succ n ih => exact (writeW_issueOnly _ _ _ _ _ _).trans (ih _ _ _)

theorem writeLanes_issueOnly (d : Dev) (ci : Nat) (act : List (Nat × Nat)) (code n : Nat) (v : Nat → Nat → Nat) :
    IssueOnly ci d (d.writeLanes ci act code n v) := by
  unfold Dev.writeLanes
  split
  · exact IssueOnly.refl ci d
  · exact IssueOnly.foldl (fun e x => writeN_issueOnly e ci _ _ _ _ _) _ d

/-- Reading depends on nothing but the group's registers, its place in its launch, and what `IssueOnly` keeps. -/
theorem readW_congr {d e : Dev} {ci slot : Nat} (h : CoreSide d e) (hg : GroupSide (d.group ci slot) (e.group ci slot))
    {lane code : Nat}
    (hr : code < 0x80 → Tab.get (e.group ci slot).regs (lane * 128 + code) 0 = Tab.get (d.group ci slot).regs (lane * 128 + code) 0)
    (hu : 0x80 ≤ code → code < 0xC0 →
      Tab.get (e.group ci slot).uni (code - 0x80) 0 = Tab.get (d.group ci slot).uni (code - 0x80) 0)
    (hp : 0xC0 ≤ code → code < 0xC7 →
      Tab.get (e.group ci slot).preds (lane * 8 + (code - 0xC0)) false =
        Tab.get (d.group ci slot).preds (lane * 8 + (code - 0xC0)) false) :
    e.readW ci slot lane code = d.readW ci slot lane code := by
  have hl : e.launches = d.launches := by rw [h]
  have hc : e.cycle = d.cycle := by rw [h]
  have ht : e.time = d.time := by rw [h]
  have hi : (e.group ci slot).index = (d.group ci slot).index := by rw [hg]
  have hn : (e.group ci slot).launch = (d.group ci slot).launch := by rw [hg]
  unfold Dev.readW
  by_cases c1 : code < 0x80
  · simp only [c1, if_true, hr c1]
  · by_cases c2 : code < 0xC0
    · simp only [c1, c2, if_true, if_false, hu (by omega) c2]
    · by_cases c3 : code < 0xC7
      · simp [c1, c2, c3, hp (by omega) c3]
      · simp [c1, c2, c3, Dev.launch, hl, hc, ht, hi, hn]

/-- The word written reads back, where the slot holds a group. -/
theorem readW_writeW_hit (d : Dev) {ci slot lane code : Nat} (v : Nat) {l : Nat}
    (hh : Tab.has (d.core ci).groups slot = true) (hc : code < 0xC7) (hl : l = lane ∨ 0x80 ≤ code ∧ code < 0xC0) :
    (d.writeW ci slot lane code v).readW ci slot l code = if code < 0xC0 then v % 2 ^ 32 else v % 2 := by
  unfold Dev.writeW Dev.readW
  by_cases c1 : code < 0x80
  · have hl' : l = lane := by omega
    subst hl'
    simp [c1, Dev.group_modGroup, hh, show code < 0xC0 by omega]
  · by_cases c2 : code < 0xC0
    · simp [c1, c2, Dev.group_modGroup, hh]
    · have hl' : l = lane := by omega
      subst hl'
      simp only [c1, c2, hc, if_true, if_false, Dev.group_modGroup, hh, and_self, Tab.get_put_self]
      rcases Nat.mod_two_eq_zero_or_one v with h | h <;> simp [h, b2n]

/-- Any other word reads as before. -/
theorem readW_writeW_miss (d : Dev) {ci slot lane code : Nat} (v : Nat) {k l c : Nat} (hc : c < 0xC7)
    (h : ¬ (k = slot ∧ c = code ∧ (l = lane ∨ 0x80 ≤ c ∧ c < 0xC0))) :
    (d.writeW ci slot lane code v).readW ci k l c = d.readW ci k l c := by
  have hw := writeW_issueOnly d ci slot lane code v
  refine readW_congr hw.1 (hw.2.2.2.1 k) ?_ ?_ ?_
  all_goals intro h1
  all_goals unfold Dev.writeW
  all_goals try intro h2
  · by_cases c1 : code < 0x80
    · simp only [c1, if_true, Dev.group_modGroup]
      split
      · rename_i hk
        refine Tab.get_put_of_ne _ _ _ ?_
        intro he; apply h; omega
      · rfl
    · by_cases c2 : code < 0xC0
      · simp only [c1, c2, if_true, if_false, Dev.group_modGroup]; split <;> rfl
      · by_cases c3 : code < 0xC7
        · simp only [c1, c2, c3, if_true, if_false, Dev.group_modGroup]; split <;> rfl
        · simp [c1, c2, c3]
  · by_cases c1 : code < 0x80
    · simp only [c1, if_true, Dev.group_modGroup]; split <;> rfl
    · by_cases c2 : code < 0xC0
      · simp only [c1, c2, if_true, if_false, Dev.group_modGroup]
        split
        · rename_i hk
          refine Tab.get_put_of_ne _ _ _ ?_
          intro he; apply h; omega
        · rfl
      · by_cases c3 : code < 0xC7
        · simp only [c1, c2, c3, if_true, if_false, Dev.group_modGroup]; split <;> rfl
        · simp [c1, c2, c3]
  · by_cases c1 : code < 0x80
    · simp only [c1, if_true, Dev.group_modGroup]; split <;> rfl
    · by_cases c2 : code < 0xC0
      · simp only [c1, c2, if_true, if_false, Dev.group_modGroup]; split <;> rfl
      · by_cases c3 : code < 0xC7
        · simp only [c1, c2, c3, if_true, if_false, Dev.group_modGroup]
          split
          · rename_i hk
            refine Tab.get_put_of_ne _ _ _ ?_
            intro he; apply h; omega
          · rfl
        · simp [c1, c2, c3]

/-! ### One lane's value -/

/-- A destination that a result of `n` words can have: one code, or an even pair of word registers. -/
def DstOk (dst n : Nat) : Prop := dst < 0xC7 ∧ (n = 1 ∨ n = 2 ∧ dst % 2 = 0 ∧ dst < 0xC0)

theorem readW_writeN_miss (d : Dev) {ci slot lane dst n : Nat} (v : Nat) {k l c : Nat} (hc : c < 0xC7)
    (h : ¬ (k = slot ∧ dst ≤ c ∧ c < dst + n ∧ (l = lane ∨ 0x80 ≤ c ∧ c < 0xC0))) :
    (d.writeN ci slot lane dst v n).readW ci k l c = d.readW ci k l c := by
  induction n generalizing d dst v with
  | zero => rfl
  | succ n ih =>
    rw [Dev.writeN, ih _ _ (by omega), readW_writeW_miss d _ hc (by omega)]

theorem rdVal_writeN_hit (d : Dev) {ci slot lane dst n : Nat} (v : Nat) {l : Nat} (ho : DstOk dst n)
    (hh : Tab.has (d.core ci).groups slot = true) (hl : l = lane ∨ 0x80 ≤ dst ∧ dst < 0xC0) :
    (d.writeN ci slot lane dst v n).rdVal ci slot l dst n = if dst < 0xC0 then v % 2 ^ (32 * n) else v % 2 := by
  obtain ⟨hc, rfl | ⟨rfl, h2, h3⟩⟩ := ho
  · simp only [Dev.writeN, Dev.rdVal]
    rw [if_neg (by decide), readW_writeW_hit d _ hh hc hl]
    split
    · simp
    · omega
  · have hh2 : Tab.has ((d.writeW ci slot lane dst (v % 2 ^ 32)).core ci).groups slot = true := by
      rw [(writeW_issueOnly d ci slot lane dst (v % 2 ^ 32)).2.2.2.2]; exact hh
    simp only [Dev.writeN, Dev.rdVal, Dev.readP, isReg, h3, if_true, decide_true]
    rw [readW_writeW_miss _ _ hc (by omega), readW_writeW_hit d _ hh hc hl,
      readW_writeW_hit _ _ hh2 (by omega) (by omega)]
    simp only [h3, if_true, show dst + 1 < 0xC0 by omega]
    omega

/-! ### All lanes -/

theorem foldl_writeN_issueOnly (d : Dev) (ci : Nat) (ws : List (Nat × Nat)) (dst n : Nat) (v : Nat → Nat → Nat) :
    IssueOnly ci d (ws.foldl (fun e x => e.writeN ci x.2 x.1 dst (v x.1 x.2) n) d) :=
  IssueOnly.foldl (fun e _ => writeN_issueOnly e ci _ _ _ _ _) ws d

theorem readW_foldl_miss (d : Dev) {ci dst n : Nat} (ws : List (Nat × Nat)) (v : Nat → Nat → Nat) {k l c : Nat} (hc : c < 0xC7)
    (h : ¬ Hit ws dst n k l c) :
    (ws.foldl (fun e x => e.writeN ci x.2 x.1 dst (v x.1 x.2) n) d).readW ci k l c = d.readW ci k l c := by
  induction ws generalizing d with
  | nil => rfl
  | cons x r ih =>
    rw [List.foldl_cons, ih]
    · refine readW_writeN_miss d _ hc ?_
      rintro ⟨h1, h2, h3, h4⟩
      exact h ⟨h2, h3, x, List.mem_cons_self, h1.symm, h4.imp Eq.symm id⟩
    · rintro ⟨h1, h2, e, he, h3⟩
      exact h ⟨h1, h2, e, List.mem_cons_of_mem _ he, h3⟩

theorem rdVal_foldl_hit (d : Dev) {ci dst n : Nat} (ws : List (Nat × Nat)) (v : Nat → Nat → Nat) (ho : DstOk dst n)
    (hh : ∀ e ∈ ws, Tab.has (d.core ci).groups e.2 = true)
    (hu : 0x80 ≤ dst → dst < 0xC0 → ∀ e ∈ ws, ∀ f ∈ ws, e.2 = f.2 → e = f) {e : Nat × Nat} (he : e ∈ ws) :
    (ws.foldl (fun e x => e.writeN ci x.2 x.1 dst (v x.1 x.2) n) d).rdVal ci e.2 e.1 dst n =
      if dst < 0xC0 then v e.1 e.2 % 2 ^ (32 * n) else v e.1 e.2 % 2 := by
  induction ws generalizing d with
  | nil => simp at he
  | cons x r ih =>
    rw [List.foldl_cons]
    have hw := writeN_issueOnly d ci x.2 x.1 dst (v x.1 x.2) n
    by_cases her : e ∈ r
    · exact ih _ (fun f hf => by rw [hw.2.2.2.2]; exact hh f (List.mem_cons_of_mem _ hf))
        (fun h1 h2 f hf g hg => hu h1 h2 f (List.mem_cons_of_mem _ hf) g (List.mem_cons_of_mem _ hg)) her
    · have hex : e = x := by simpa [her] using he
      subst hex
      have hmiss : ∀ c, dst ≤ c → c < dst + n → ¬ Hit r dst n e.2 e.1 c := by
        rintro c h1 h2 ⟨-, -, f, hf, h3, h4⟩
        refine her ?_
        have hfe : f = e := by
          rcases h4 with h4 | h4
          · exact Prod.ext h4 h3
          · refine hu ?_ ?_ f (List.mem_cons_of_mem _ hf) e he h3
            all_goals obtain ⟨h8, rfl | ⟨rfl, h9, h10⟩⟩ := ho <;> omega
        rw [← hfe]; exact hf
      rw [← rdVal_writeN_hit d (l := e.1) (v e.1 e.2) ho (hh e List.mem_cons_self) (Or.inl rfl)]
      obtain ⟨hc, rfl | ⟨rfl, h2, h3⟩⟩ := ho
      · simp only [Dev.rdVal]
        rw [if_neg (by decide), if_neg (by decide)]
        exact readW_foldl_miss _ r v hc (hmiss dst (by omega) (by omega))
      · simp only [Dev.rdVal, Dev.readP, isReg, h3, if_true, decide_true]
        rw [readW_foldl_miss _ r v hc (hmiss dst (by omega) (by omega)),
          readW_foldl_miss _ r v (by omega) (hmiss (dst + 1) (by omega) (by omega))]

theorem writers_sub {act : List (Nat × Nat)} {code : Nat} {e : Nat × Nat} (h : e ∈ writers act code) : e ∈ act := by
  unfold writers at h
  split at h
  · exact (List.mem_filter.mp h).1
  · exact h

/-- A uniform register has one writer in each group: its lowest active lane. -/
theorem writers_uniform {act : List (Nat × Nat)} {code : Nat} (h1 : 0x80 ≤ code) (h2 : code < 0xC0) :
    ∀ e ∈ writers act code, ∀ f ∈ writers act code, e.2 = f.2 → e = f := by
  intro e he f hf hef
  simp only [writers, h1, h2, decide_true, Bool.and_self, if_true, List.mem_filter] at he hf
  rw [hef] at he
  cases hfind : List.find? (fun x => x.2 == f.2) act with
  | none => rw [hfind] at he; simp at he
  | some x =>
    rw [hfind] at he hf
    simp only [Option.any_some, beq_iff_eq] at he hf
    exact Prod.ext (he.2.symm.trans hf.2) hef

theorem writeW_strand? (d : Dev) (ci slot lane code v k : Nat) : (d.writeW ci slot lane code v).strand? ci k = d.strand? ci k := by
  unfold Dev.writeW
  split
  · simp
  · split
    · simp
    · split <;> simp

theorem writeN_strand? (d : Dev) (ci slot lane code v n k : Nat) :
    (d.writeN ci slot lane code v n).strand? ci k = d.strand? ci k := by
  induction n generalizing d code v with
  | zero => rfl
  | succ n ih => rw [Dev.writeN, ih, writeW_strand?]

theorem writeLanes_strand? (d : Dev) (ci : Nat) (act : List (Nat × Nat)) (code n : Nat) (v : Nat → Nat → Nat) (k : Nat) :
    (d.writeLanes ci act code n v).strand? ci k = d.strand? ci k := by
  unfold Dev.writeLanes
  split
  · rfl
  · generalize writers act code = ws
    induction ws generalizing d with
    | nil => rfl
    | cons x r ih => rw [List.foldl_cons, ih, writeN_strand?]

/-! ### Going on -/

theorem retire_issueOnly (d : Dev) (ci : Nat) (s : Strand) : IssueOnly ci d (d.retire ci s) :=
  IssueOnly.foldl (f := fun e g => e.modGroup ci g (fun x => { x with watch := 0 }))
    (fun e g => modGroup_issueOnly e ci g _ (fun _ => rfl)) _ d

theorem retire_strand? (d : Dev) (ci : Nat) (s : Strand) (k : Nat) : (d.retire ci s).strand? ci k = d.strand? ci k := by
  unfold Dev.retire
  generalize s.slots = l
  induction l generalizing d with
  | nil => rfl
  | cons g r ih => rw [List.foldl_cons, ih]; simp

theorem retire_readW (d : Dev) (ci : Nat) (s : Strand) (k l c : Nat) : (d.retire ci s).readW ci k l c = d.readW ci k l c := by
  have h := retire_issueOnly d ci s
  have hr : ∀ k, ((d.retire ci s).group ci k).regs = (d.group ci k).regs ∧ ((d.retire ci s).group ci k).uni = (d.group ci k).uni ∧
      ((d.retire ci s).group ci k).preds = (d.group ci k).preds := by
    intro k
    unfold Dev.retire
    generalize s.slots = l
    induction l generalizing d with
    | nil => exact ⟨rfl, rfl, rfl⟩
    | cons g r ih =>
      rw [List.foldl_cons]
      have := ih (d.modGroup ci g (fun x => { x with watch := 0 })) (retire_issueOnly _ ci s)
      rw [Dev.group_modGroup] at this
      split at this <;> exact this
  exact readW_congr h.1 (h.2.2.2.1 k) (fun _ => by rw [(hr k).1]) (fun _ _ => by rw [(hr k).2.1]) (fun _ _ => by rw [(hr k).2.2])

theorem setStrand_readW (d : Dev) (ci sid : Nat) (s : Strand) (k l c : Nat) :
    (d.setStrand ci sid s).readW ci k l c = d.readW ci k l c := by
  have h := setStrand_issueOnly d ci sid s
  exact readW_congr h.1 (h.2.2.2.1 k) (fun _ => by simp) (fun _ _ => by simp) (fun _ _ => by simp)

/-- A strand goes on at an address: what it and the registers are then. -/
theorem goto_spec {d : Dev} {ci sid : Nat} {s : Strand} (h : d.strand? ci sid = some s) (pc : Nat) :
    IssueOnly ci d (d.goto ci sid pc) ∧
    (d.goto ci sid pc).strand? ci sid = some { s with pc := pc % 2 ^ 48, wait := .ready, backoff := 0 } ∧
    (∀ k, k ≠ sid → (d.goto ci sid pc).strand? ci k = d.strand? ci k) ∧
    ∀ k l c, (d.goto ci sid pc).readW ci k l c = d.readW ci k l c := by
  have he : d.goto ci sid pc =
      (d.setStrand ci sid { s with pc := pc % 2 ^ 48, wait := .ready, backoff := 0 }).retire ci s := by
    unfold Dev.goto; rw [h]
  rw [he]
  refine ⟨(setStrand_issueOnly _ _ _ _).trans (retire_issueOnly _ _ _), ?_, ?_, ?_⟩
  · rw [retire_strand?]; simp
  · intro k hk; rw [retire_strand?, Dev.strand?_setStrand_of_ne _ _ _ hk]
  · intro k l c; rw [retire_readW, setStrand_readW]

end Sys2Proof.Safety
end

