-- ==== Sys2Proof/Laws/Result.lean ====
section
/-! SUPPORT. The one spec of every instruction that computes a result for its lanes and goes on. -/

namespace Sys2Proof.Safety
open Sys2Proof.Machine

/-! ### An arrival keeps the groups, and its lanes are lanes of the core's strands -/

theorem mem_put {α : Type} {t : Tab α} {k : Nat} {a : α} {e : Nat × α} (h : e ∈ Tab.put t k a) : e = (k, a) ∨ e ∈ t := by
  induction t with
  | nil => simpa [Tab.put] using h
  | cons x r ih =>
    obtain ⟨j, b⟩ := x
    simp only [Tab.put] at h
    split at h
    · simpa using h
    · split at h
      · simp only [List.mem_cons] at h ⊢; exact h.imp id Or.inr
      · simp only [List.mem_cons] at h ⊢
        rcases h with h | h
        · exact Or.inr (Or.inl h)
        · exact (ih h).imp id Or.inr

theorem mem_foldl_put {α : Type} {l t : Tab α} {e : Nat × α} (h : e ∈ l.foldl (fun t e => Tab.put t e.1 e.2) t) :
    e ∈ l ∨ e ∈ t := by
  induction l generalizing t with
  | nil => exact Or.inr h
  | cons x r ih =>
    rcases ih h with h | h
    · exact Or.inl (List.mem_cons_of_mem _ h)
    · rcases mem_put h with h | h
      · exact Or.inl (by rw [h]; exact List.mem_cons_self)
      · exact Or.inr h

theorem mem_of_get? {α : Type} {t : Tab α} {k : Nat} {a : α} (h : Tab.get? t k = some a) : (k, a) ∈ t := by
  induction t with
  | nil => simp at h
  | cons x r ih =>
    obtain ⟨j, b⟩ := x
    simp only [Tab.get?] at h
    split at h
    · rename_i hj; subst hj; simp at h; subst h; exact List.mem_cons_self
    · exact List.mem_cons_of_mem _ (ih h)

/-- Every lane of a strand of `e` belongs to a strand of `d`, and the groups are those of `d`. -/
def SameLanes (ci : Nat) (d e : Dev) : Prop :=
  (∀ k s, e.strand? ci k = some s → ∀ x ∈ s.lanes, ∃ k0 s0, d.strand? ci k0 = some s0 ∧ x ∈ s0.lanes) ∧
  (e.core ci).groups = (d.core ci).groups

theorem SameLanes.refl (ci : Nat) (d : Dev) : SameLanes ci d d := ⟨fun k s h _ hx => ⟨k, s, h, hx⟩, rfl⟩

theorem SameLanes.trans {ci : Nat} {d e f : Dev} (h : SameLanes ci d e) (k : SameLanes ci e f) : SameLanes ci d f := by
  refine ⟨fun n s hs x hx => ?_, k.2.trans h.2⟩
  obtain ⟨k0, s0, h0, hx0⟩ := k.1 n s hs x hx
  exact h.1 k0 s0 h0 x hx0

theorem absorb_sameLanes (d : Dev) (ci sid o : Nat) : SameLanes ci d (d.absorb ci sid o) := by
  unfold Dev.absorb
  split
  · rename_i a b ha hb
    refine ⟨fun k s hs x hx => ?_, by simp [Dev.delStrand]⟩
    simp only [countCore_strand?] at hs
    by_cases hk : k = o
    · subst hk; simp [Dev.strand?, Dev.delStrand, Tab.get?_del_self] at hs
    · rw [Dev.strand?_delStrand_of_ne _ _ hk] at hs
      by_cases hk2 : k = sid
      · subst hk2
        simp only [Dev.strand?_setStrand_self, Option.some.injEq] at hs
        subst hs
        rcases mem_foldl_put hx with h | h
        · exact ⟨o, b, hb, h⟩
        · exact ⟨k, a, ha, h⟩
      · rw [Dev.strand?_setStrand_of_ne _ _ _ hk2] at hs
        exact ⟨k, s, hs, hx⟩
  · exact SameLanes.refl ci d

theorem mergeHere_sameLanes (d : Dev) (ci sid : Nat) (w : Wait) : SameLanes ci d (d.mergeHere ci sid w) := by
  unfold Dev.mergeHere
  generalize (List.map (fun x => x.1) (d.core ci).strands) = l
  induction l generalizing d with
  | nil => exact SameLanes.refl ci d
  | cons o r ih =>
    refine SameLanes.trans ?_ (ih _)
    show SameLanes ci d (match d.strand? ci sid, d.strand? ci o with
      | some a, some b => if (o != sid && b.wait == w && d.mergeable ci a b) = true then d.absorb ci sid o else d
      | _, _ => d)
    split
    · split
      · exact absorb_sameLanes _ _ _ _
      · exact SameLanes.refl ci d
    · exact SameLanes.refl ci d

theorem countIssue_groups (d : Dev) (ci : Nat) (s : Strand) (w : BitVec 64) :
    ((d.countIssue ci s w).core ci).groups = (d.core ci).groups := by
  unfold Dev.countIssue
  cases s.pair with
  | none => simp
  | some p => simp only; split <;> simp

theorem arrive_sameLanes (d : Dev) (ci sid : Nat) (w : BitVec 64) : SameLanes ci d (d.arrive ci sid w) := by
  have h : SameLanes ci d (if wf w 50 50 = 1 then d.mergeHere ci sid .ready else d) := by
    split
    · exact mergeHere_sameLanes _ _ _ _
    · exact SameLanes.refl ci d
  unfold Dev.arrive
  simp only
  split
  · exact h
  · rename_i s hs
    refine h.trans ⟨fun k t ht x hx => ?_, by simp [countIssue_groups]⟩
    by_cases hk : k = sid
    · subst hk
      simp only [Dev.strand?_setStrand_self, Option.some.injEq] at ht
      subst ht
      exact ⟨k, s, hs, hx⟩
    · rw [Dev.strand?_setStrand_of_ne _ _ _ hk, countIssue_strand?] at ht
      exact ⟨k, t, ht, hx⟩

theorem arrive_group (d : Dev) (ci sid : Nat) (w : BitVec 64) (k : Nat) : (d.arrive ci sid w).group ci k = d.group ci k := by
  simp [Dev.group, (arrive_sameLanes d ci sid w).2]

/-- Operands read the same once the instruction has arrived. -/
theorem arrive_readW (d : Dev) (ci sid : Nat) (w : BitVec 64) (k l c : Nat) :
    (d.arrive ci sid w).readW ci k l c = d.readW ci k l c := by
  have h := arrive_issueOnly d ci sid w
  refine readW_congr h.1 (h.2.2.2.1 k) ?_ ?_ ?_ <;> intros <;> rw [arrive_group]

theorem arrive_rdVal (d : Dev) (ci sid : Nat) (w : BitVec 64) (k l c n : Nat) :
    (d.arrive ci sid w).rdVal ci k l c n = d.rdVal ci k l c n := by
  simp [Dev.rdVal, Dev.readP, arrive_readW]

theorem arrive_rdB (d : Dev) (ci sid : Nat) (x : BitVec 64) (k l : Nat) (w : BitVec 64) (n : Nat) :
    (d.arrive ci sid x).rdB ci k l w n = d.rdB ci k l w n := by
  simp [Dev.rdB, arrive_rdVal]

theorem arrive_actives (d : Dev) (i : Issue) (st : Strand) :
    (d.arrive i.core i.strand i.word).active i.core st i.word = actives d i st := by
  unfold actives Dev.active
  congr 1
  funext e
  simp [Dev.readPred, arrive_readW]

/-- An active lane belongs to a resident group. -/
theorem actives_resident {d : Dev} {i : Issue} {st : Strand} (hr : Resident d i.core) (ha : Arrives d i st) :
    ∀ e ∈ actives d i st, Tab.has (d.core i.core).groups e.2 = true := by
  intro e he
  obtain ⟨k0, s0, h0, hx⟩ := (arrive_sameLanes d i.core i.strand i.word).1 i.strand st ha e (List.mem_filter.mp he).1
  exact hr (k0, s0) (mem_of_get? h0) e hx

/-- The result of the active lanes written and the strand gone on, from the state in which the instruction has arrived. -/
theorem result_spec {d : Dev} {i : Issue} {st : Strand} {n : Nat} (hr : Resident d i.core) (ha : Arrives d i st)
    (hd : dstOf i.word = 0xFF ∨ DstOk (dstOf i.word) n) (v : Nat → Nat → Nat) :
    RegisterEffect d ((d.arrive i.core i.strand i.word).result i (actives d i st) n v) i st n v := by
  have hA := arrive_issueOnly d i.core i.strand i.word
  have hL := writeLanes_issueOnly (d.arrive i.core i.strand i.word) i.core (actives d i st) (dstOf i.word) n v
  have hst : ((d.arrive i.core i.strand i.word).writeLanes i.core (actives d i st) (dstOf i.word) n v).strand? i.core i.strand
      = some st := by
    rw [writeLanes_strand?]; exact ha
  have hadv : (d.arrive i.core i.strand i.word).result i (actives d i st) n v =
      ((d.arrive i.core i.strand i.word).writeLanes i.core (actives d i st) (dstOf i.word) n v).goto i.core i.strand (st.pc + 8) := by
    unfold Dev.result Dev.advance; rw [hst]
  obtain ⟨g1, g2, g3, g4⟩ := goto_spec hst (st.pc + 8)
  rw [hadv]
  refine ⟨⟨fun e he hne => ?_, fun slot lane code hc hmiss => ?_⟩, ⟨g2, fun k hk => ?_⟩, ?_⟩
  · have ho := hd.resolve_left hne
    have : ∀ (c m : Nat), (((d.arrive i.core i.strand i.word).writeLanes i.core (actives d i st) (dstOf i.word) n v).goto i.core
        i.strand (st.pc + 8)).rdVal i.core e.2 e.1 c m =
        ((d.arrive i.core i.strand i.word).writeLanes i.core (actives d i st) (dstOf i.word) n v).rdVal i.core e.2 e.1 c m := by
      intro c m; simp [Dev.rdVal, Dev.readP, g4]
    rw [this]
    unfold Dev.writeLanes
    rw [if_neg hne]
    refine rdVal_foldl_hit _ _ v ho (fun f hf => ?_) (fun h1 h2 => writers_uniform h1 h2) he
    rw [hA.2.2.2.2]
    exact actives_resident hr ha f (writers_sub hf)
  · rw [g4, ← arrive_readW d i.core i.strand i.word]
    unfold Dev.writeLanes
    split
    · rfl
    · exact readW_foldl_miss _ _ v hc hmiss
  · rw [g3 k hk, writeLanes_strand?]
  · have h := (hA.trans hL).trans g1
    exact ⟨h.1, h.2.1, h.2.2.1, h.2.2.2.1⟩

end Sys2Proof.Safety
end

