-- ==== Sys2Proof/WellFormed.lean ====
section
/-! DEFINITION. Which commands are well formed: every operand lies in the range that its table gives it. -/

namespace Sys2Proof

/-- An issued instruction names a core (00 R22). -/
def Issue.wf (i : Issue) : Bool := decide (i.core < 1024)

/-- A ring command names a function, a ring and a count (07 R243, R249, Table 7-11). -/
def CmdId.wf (x : CmdId) : Bool := decide (x.fn < 16) && decide (x.ring < 16) && decide (x.count < 2 ^ 32)

/-- A register write is one access of 1 to 8 bytes through one function (00 R18; 07 R240). -/
def RegWrite.wf (w : RegWrite) : Bool :=
  decide (w.fn < 16) && decide (w.value < 2 ^ 64) &&
  (match w.target with
   | .bar0 off width => decide (off < 2 ^ 22) && decide (1 ≤ width) && decide (width ≤ 8)
   | .config _ | .poisoned => true)

def HostReader.wf (a : HostReader) : Bool :=
  match a with
  | .fill line | .refuse line | .accept line => decide (2 ^ 40 ≤ line) && decide (line < 2 ^ 41)

/-- A command is well formed. -/
def Instr.wf (c : Instr) : Bool :=
  match c with
  | .nop i | .movi i | .mov i | .iadd i | .isub i | .imul i | .imulh i | .imad i | .imin i | .imax i | .andOp i
  | .orOp i | .xorOp i | .shl i | .shr i | .rot i | .popc i | .clz i | .brev i | .bfx i | .bfi i | .fadd i | .fsub i
  | .fmul i | .ffma i | .fmin i | .fmax i | .frcp i | .frsq i | .fsqrt i | .fexp2 i | .flog2 i | .fsin i | .fcos i
  | .cmp i | .sel i | .cvt i | .plop i | .shfl i | .vote i | .movs i | .bra i | .brx i | .call i | .ret i | .join i
  | .exit i | .gsync i | .mxbegin i | .mxend i | .lckAcq i | .lckTry i | .lckRel i | .ld i | .st i | .atom i | .fence i
  | .cflush i | .cinv i | .mld i | .mst i | .mma i | .mzero i | .send i | .recv i | .tsig i | .twait i | .tread i
  | .malloc i | .mfree i | .linsReserve i | .linsCommit i | .linsAbandon i | .levc i | .lqryQuery i | .lqryRelease i
  | .lqryPrune i | .ilkb i | .ilke i | .rayq i | .rayw i => Issue.wf i
  | .commandComplete x | .wait x | .waitTimeout x | .rearm x | .batch x | .enq x | .copy x | .fill x | .maint x
  | .tlbInv x | .mintLoad x | .soInstall x | .soRemove x | .soPatch x | .soSeal x | .soRun x | .soArm x | .soDisarm x
  | .soCancel x | .ldgStream x | .ldgEvict x | .ldgMigrate x | .ldgTransfer x | .ldgRelease x | .ldgReconcile x
  | .rndPass x | .ingConfig x | .cmpCommit x | .cmpCoef x | .cmpStrong x => CmdId.wf x
  | .fullReset _ => true
  | .timestampWrap => true
  | .epochBoundary powerMw => decide (powerMw < 2 ^ 32)
  | .dividerSwitchDone => true
  | .pllLossOfLock _ => true
  | .pllRelock _ => true
  | .pllFail _ => true
  | .jobFault _ => true
  | .dataPlaneReset => true
  | .dpQuiesce => true
  | .dpClear => true
  | .dpCheck _ _ => true
  | .dpRelease => true
  | .joinWindowExpiry core _ => decide (core < 1024)
  | .mxSlotBind core => decide (core < 1024)
  | .lckRetry core _ => decide (core < 1024)
  | .coreWatchdog core _ => decide (core < 1024)
  | .memoryResponse core line _ => decide (core < 1024) && decide (line < 2 ^ 41)
  | .dirReadMiss core line => decide (core < 1024) && decide (line < 2 ^ 41)
  | .dirWriteMiss core line => decide (core < 1024) && decide (line < 2 ^ 41)
  | .dirWtStore core _ => decide (core < 1024)
  | .purseEvict core line => decide (core < 1024) && decide (line < 2 ^ 41)
  | .nonCoreRead req line => decide (req < 64) && decide (line < 2 ^ 41)
  | .nonCoreWrite req line _ _ => decide (req < 64) && decide (line < 2 ^ 41)
  | .dirAck line => decide (line < 2 ^ 41)
  | .vaultFill line _ => decide (line < 2 ^ 41)
  | .nextLinePrefetch _ => true
  | .sliceScrub slice _ => decide (slice < 64)
  | .mxPipeStart core _ => decide (core < 1024)
  | .creditRequest _ => true
  | .creditGrant _ => true
  | .messageArrival _ => true
  | .twaitTimeout core _ _ => decide (core < 1024)
  | .tallyOperation _ => true
  | .tallyWake _ => true
  | .tlySet f n v => decide (f < 16) && decide (n < 16384) && decide (v < 2 ^ 64)
  | .tlyAdd f n v => decide (f < 16) && decide (n < 16384) && decide (v < 2 ^ 64)
  | .tlyRearm f n v => decide (f < 16) && decide (n < 16384) && decide (v < 2 ^ 64)
  | .mintCall _ => true
  | .hostReadError a => HostReader.wf a
  | .faultRecordClear f n v => decide (f < 16) && decide (n < 256) && decide (v < 2 ^ 64)
  | .mmuInvRange f v => decide (f < 16) && decide (v < 2 ^ 32)
  | .mmuInvContext f v => decide (f < 16) && decide (v < 2 ^ 32)
  | .mmuInvAll f v => decide (f < 16) && decide (v < 2 ^ 32)
  | .invalidationComplete _ => true
  | .maintFlush f v => decide (f < 16) && decide (v < 2 ^ 32)
  | .maintInvalidate f v => decide (f < 16) && decide (v < 2 ^ 32)
  | .maintFlushInv f v => decide (f < 16) && decide (v < 2 ^ 32)
  | .maintFill f v => decide (f < 16) && decide (v < 2 ^ 32)
  | .maintLine _ => true
  | .registerWrite w => RegWrite.wf w
  | .hifWinWrite f v => decide (f < 16) && decide (v < 2 ^ 64)
  | .tagWrite f i v => decide (f < 16) && decide (i < 65536) && decide (v < 2 ^ 64)
  | .bar2Read f off n => decide (f < 16) && decide (off < 2 ^ 36) && decide (1 ≤ n)
  | .bar2Write f off data _ => decide (f < 16) && decide (off < 2 ^ 36) && !data.isEmpty
  | .ringEnable f r v => decide (f < 16) && decide (r < 16) && decide (v < 2 ^ 32)
  | .ringIdle f r => decide (f < 16) && decide (r < 16)
  | .ringDisable f r v => decide (f < 16) && decide (r < 16) && decide (v < 2 ^ 32)
  | .ringDrained f r => decide (f < 16) && decide (r < 16)
  | .doorbell f r v => decide (f < 16) && decide (r < 16) && decide (v < 2 ^ 32)
  | .commandFetch f r => decide (f < 16) && decide (r < 16)
  | .slotRead f r => decide (f < 16) && decide (r < 16)
  | .commandStart f r => decide (f < 16) && decide (r < 16)
  | .trigger _ => true
  | .activationStart _ => true
  | .nodeStart _ _ _ => true
  | .groupDispatch _ core => decide (core < 1024)
  | .launchComplete _ => true
  | .signalComplete _ _ _ => true
  | .waitNodeTimeout _ _ => true
  | .activationEnd _ _ => true
  | .launchOverrun _ => true
  | .migrationCopyComplete _ => true
  | .queryJoin q => decide (q < 64)
  | .sweepEnd q => decide (q < 64)
  | .queryComplete q => decide (q < 64)
  | .incrementalFlush p => decide (p < 16)
  | .tileHandout p => decide (p < 16)
  | .tileStored p core => decide (p < 16) && decide (core < 1024)
  | .roundEnd p => decide (p < 16)
  | .groupCloseTimeout core => decide (core < 1024)
  | .ilkGrant core _ => decide (core < 1024)
  | .rayAccept core _ => decide (core < 1024)
  | .rayLineArrival _ => true
  | .hitRecordWrite _ => true
  | .frameStart port vc frameNum => decide (port < 8) && decide (vc < 16) && decide (frameNum < 65536)
  | .linePacket port vc dt data _ _ => decide (port < 8) && decide (vc < 16) && decide (dt < 64) && decide (data.length < 65536)
  | .frameEnd port vc => decide (port < 8) && decide (vc < 16)
  | .frameTimeout port stream => decide (port < 8) && decide (stream < 4)
  | .latch e => decide (e < 2)
  | .refreshStart e => decide (e < 2)
  | .strongroomCheck e _ _ => decide (e < 2)
  | .tearingEffect gpio => decide (gpio < 16)
  | .getVersion f => decide (f < 16)
  | .getState f => decide (f < 16)
  | .getFloorplan f => decide (f < 16)
  | .fwLoad f => decide (f < 16)
  | .imageVerify => true
  | .svnCommit f _ => decide (f < 16)
  | .keyRevoke f _ => decide (f < 16)
  | .partSet f => decide (f < 16)
  | .partWindow f => decide (f < 16)
  | .clusterMove f => decide (f < 16)
  | .clusterDrained c => decide (c < 64)
  | .clusterMoveTimeout c => decide (c < 64)
  | .vaultAlloc f => decide (f < 16)
  | .vaultPin f => decide (f < 16)
  | .tallyOwn f => decide (f < 16)
  | .partRelease f => decide (f < 16)
  | .reserveSet f => decide (f < 16)
  | .reserveLend f => decide (f < 16)
  | .hotsetLoad f => decide (f < 16)
  | .hotsetReady r => decide (r < 4)
  | .ctxSet f => decide (f < 16)
  | .tagRange f => decide (f < 16)
  | .powerPoint f => decide (f < 16)
  | .powerLimit f => decide (f < 16)
  | .telemetry f => decide (f < 16)
  | .ingestPort f => decide (f < 16)
  | .displayMode f => decide (f < 16)
  | .displayLayer f => decide (f < 16)
  | .displayDcs f => decide (f < 16)
  | .panelReply e _ => decide (e < 2)
  | .panelTimeout e => decide (e < 2)
  | .dpReset f => decide (f < 16)
  | .noticeTailWrite f v => decide (f < 16) && decide (v < 2 ^ 32)
  | .doeDiscovery index => decide (index < 256)
  | .getCert kind => decide (kind < 256)
  | .getEvidence _ => true
  | .doeAbort => true
  | .controlFatal detail => decide (detail < 256)
  | .controlWatchdog => true
  | .flr f => decide (f < 16)
  | .flrDrained f => decide (f < 16)
  | .flrEscalation f => decide (f < 16)
  | .romStartEnd _ => true
  | .memTrainEnd _ => true
  | .memInitEnd => true
  | .selfTestEnd r => r.cores.length == 64
  | .topologyCheck => true
  | .heartbeatWrite v => decide (v < 2 ^ 32)
  | .violationCounterRead f off => decide (f < 16) && decide (off < 2 ^ 36)
  | .pcsCtrlWrite f v => decide (f < 16) && decide (v < 2 ^ 32)
  | .pcSample f core => decide (f < 16) && decide (core < 1024)
  | .pcsTailWrite f v => decide (f < 16) && decide (v < 2 ^ 32)
  | .dramRead line _ => decide (line < 2 ^ 41)
  | .dramWrite line _ _ => decide (line < 2 ^ 41)
  | .dramPartialWrite line _ _ _ => decide (line < 2 ^ 41)
  | .dramRefresh ch => decide (ch < 16)
  | .dramScrub ch errs => decide (ch < 16) && errs.all (fun x => decide (x.1 < 7))
  | .gpioEdge n _ => decide (n < 16)
  | .smbDeviceId => true
  | .smbSerial => true
  | .smbTemperature => true
  | .smbPower => true
  | .smbChipFault => true
  | .smbPinStatus => true
  | .smbWrite => true
  | .bypass => true
  | .idcode => true
  | .samplePreload => true
  | .extest => true
  | .extestPulse => true
  | .extestTrain => true
  | .highz => true
  | .clamp => true
  | .tapReset => true
  | .sensorSample t => t.length == 72 && t.all (fun x => decide (x < 65536))
  | .resetRelease _ => true
  | .powerDown => true
  | .railOutOfRange => true
  | .csi2LinkUp n => decide (n < 8)
  | .csi2LinkDown n => decide (n < 8)
  | .vfEnableClear => true
  | .msixUnmask f v => decide (f < 16) && decide (v.getD 0 < (if f = 0 then 64 else 8))
  | .invalidationAtCore core line => decide (core < 1024) && decide (line < 2 ^ 41)
  | .forwardAtCore core line => decide (core < 1024) && decide (line < 2 ^ 41)
  | .creditReturn _ => true
  | .ledgerScrub bank _ => decide (bank < 16)
  | .ctxSetTimeout f => decide (f < 16)
  | .partReleaseTimeout f => decide (f < 16)
  | .zeroingComplete c => decide (c < 64)
  | .outputLineStart e _ => decide (e < 2)
  | .mxInstructionComplete core _ _ => decide (core < 1024)
  | .avsbusTransaction readMv => decide (readMv.getD 0 < 65536)
  | .displayPllLock e => decide (e < 2)
  | .unknownMessage f => decide (f < 16)

end Sys2Proof
end

