-- ==== Sys2Proof/Tests/Slice0.lean ====
section
/-! SUPPORT. The model's own tests: small states, ill-formed commands that WellFormed refuses, and a witness for the hypotheses of
each statement: `witness_<Statement>` gives, clause by clause, operands and a state that meet them. -/

namespace Sys2Proof.Tests
set_option Elab.async false
open Sys2Proof.Machine Sys2Proof.Safety

/-! ### A small running device -/

/-- Page tables at 0x1000 to 0x4000 that map DVA 0 to physical page 0x5000, valid, writable and executable (05 Table 5-3). -/
def tables : Mem := [(0x1000, 0x01), (0x1001, 0x20), (0x2000, 0x01), (0x2001, 0x30), (0x3000, 0x01), (0x3001, 0x40),
  (0x4000, 0x1B), (0x4001, 0x50)]

/-- A device that runs, with one core, one context and one window. -/
def demo : Dev :=
  { Dev.blank with
    plan := { Dev.blank.plan with clusters := 1, cores := [(0, 0xFFFF)], slices := 1, banks := 1, channels := 1 }
    mmu := { Dev.blank.mmu with dramSize := 2 ^ 21, ctxs := [(0, { valid := true, part := 0, func := 0, root := 1 })] }
    parts := [(0, { Part.zero with wins := [(0, { v := true, w := true, base := 0, size := 1 })], held := 1 })]
    launches := [(0, { Launch.empty with regs := 64, groups := 1, live := 1, threads := 32, lsGroup := 1, from_ := .node 0 0 0 })]
    mem := { MemSys.blank with dramLost := false, dram := tables }
    mgmt := { Mgmt.blank with bring := { Mgmt.blank.bring with st := .ready, held := false }, numVfs := 15, vfEnable := true } }

/-- A strand at address 0 that is ready. -/
def ready (lanes : Tab Nat) : Strand := { pc := 0, lanes := lanes, wait := .ready, pair := none, backoff := 0 }

/-- Registers of lanes 0 and 1; predicate p0 of lane 0 is 1. -/
def someRegs : Group := { Group.empty with regs := [(1, 5), (2, 7), (129, 9)], preds := [(0, true)] }

/-- A core with these groups and strands. -/
def coreOf (groups : Tab Group) (strands : Tab Strand) : Core :=
  { Core.empty with groups := groups, strands := strands, nextStrand := Tab.freshFrom strands }

/-- The demo device with core 0 `c`. -/
def devOf (c : Core) : Dev := { demo with cores := [(0, c)] }

/-- The block with this device and an empty queue. -/
def blockOf (d : Dev) : State := { pending := [], dev := d }

/-- One group of two lanes in one strand. -/
def core2 : Core := coreOf [(0, someRegs)] [(0, ready [(0, 0), (1, 0)])]
/-- The same in a matrix region, with the divergence stack `stack`. -/
def coreMx (stack : List DivEntry) : Core :=
  { coreOf [(0, { someRegs with inRegion := true, slot := some 0, stack := stack })] [(0, ready [(0, 0), (1, 0)])] with
    slots := [(0, { MxSlot.empty with group := some 0 })] }
/-- The same with one lane. -/
def core1 : Core := coreOf [(0, someRegs)] [(0, ready [(0, 0)])]

/-- A word: guard, opcode, DST, SRCA, SRCB, SRCC and bits [15:0] (02 Tables 2-4, 2-5). -/
def wordIf (p op dst a b c low : Nat) : BitVec 64 :=
  BitVec.ofNat 64 (op * 2 ^ 56 + p * 2 ^ 52 + dst * 2 ^ 40 + a * 2 ^ 32 + b * 2 ^ 24 + c * 2 ^ 16 + low)

/-- A word with the guard p7, which always holds. -/
def word (op dst a b c low : Nat) : BitVec 64 := wordIf 7 op dst a b c low

/-- Strand 0 of core 0 issues the word. -/
def issue (w : BitVec 64) : Issue := { core := 0, strand := 0, word := w }

/-- Strand 0 of core 0 is `st` and can issue any word that is legal with 64 registers. -/
def canB (d : Dev) (st : Strand) : Bool :=
  d.strand? 0 0 == some st && d.canIssue 0 st && (d.core 0).mxAll.isEmpty && d.fetchFail 0 st == none && d.strandRegs 0 st == 64

/-- The word has opcode `o` and is legal. -/
def legal (w : BitVec 64) (o : Nat) : Bool := opcOf w == o && illegal 64 w == none

theorem issues_of {d : Dev} {st : Strand} {w : BitVec 64} {o : Nat} (h : canB d st = true) (g : legal w o = true) :
    Issues d (issue w) o := by
  simp only [canB, legal, Bool.and_eq_true, beq_iff_eq, List.isEmpty_iff] at h g
  exact ⟨st, h.1.1.1.1, h.1.1.1.2, g.1, by simp [Dev.mxHazard, issue, h.1.1.2], h.1.2, by
    show illegal (d.strandRegs 0 st) w = none
    rw [h.2]; exact g.2⟩

theorem issues_rows {α : Type} {d : Dev} {st : Strand} {f : Nat → BitVec 64} {rows : List (Nat × α)} (h : canB d st = true)
    (g : (rows.map (·.1)).all (fun o => legal (f o) o) = true) : ∀ row ∈ rows, Issues d (issue (f row.1)) row.1 :=
  fun row m => issues_of h (List.all_eq_true.mp g row.1 (List.mem_map_of_mem m))

theorem resident_of {d : Dev} {ci : Nat}
    (h : (d.core ci).strands.all (fun x => x.2.lanes.all (fun e => Tab.has (d.core ci).groups e.2)) = true) : Resident d ci :=
  fun x m e n => List.all_eq_true.mp (List.all_eq_true.mp h x m) e n

theorem numbered_of {d : Dev} {ci : Nat} (h : (d.core ci).strands.all (fun x => decide (x.1 < (d.core ci).nextStrand)) = true) :
    Numbered d ci :=
  fun x m => of_decide_eq_true (List.all_eq_true.mp h x m)

theorem arrives_of {d : Dev} {i : Issue} {st : Strand}
    (h : ((d.arrive i.core i.strand i.word).strand? i.core i.strand == some st) = true) : Arrives d i st := eq_of_beq h

theorem core2_resident : Resident (devOf core2) 0 := resident_of (by decide +kernel)
theorem core1_resident : Resident (devOf core1) 0 := resident_of (by decide +kernel)

theorem core2_can : canB (devOf core2) (ready [(0, 0), (1, 0)]) = true := by decide +kernel
theorem core1_can : canB (devOf core1) (ready [(0, 0)]) = true := by decide +kernel
/-- Two strands of one group. -/
def coreTwo : Core := coreOf [(0, someRegs)] [(0, ready [(0, 0)]), (1, ready [(1, 0)])]
theorem coreTwo_resident : Resident (devOf coreTwo) 0 := resident_of (by decide +kernel)
theorem coreTwo_can : canB (devOf coreTwo) (ready [(0, 0)]) = true := by decide +kernel
/-- An entry of a divergence stack, with tag 7. -/
def entry (running : Bool) : DivEntry :=
  { tag := 7, resumePc := 16, resumeMask := 4, parked := 8, joinPc := some 32, running := running }
theorem mx_resident (s : List DivEntry) : Resident (devOf (coreMx s)) 0 := by
  intro x m e n
  simp [devOf, Dev.core, Tab.get, Tab.get?, coreMx, coreOf] at m
  subst m
  simp [ready] at n
  obtain rfl | rfl := n <;> rfl
theorem mx_can : canB (devOf (coreMx [])) (ready [(0, 0), (1, 0)]) = true := by decide +kernel
theorem mx1_can : canB (devOf (coreMx [entry true])) (ready [(0, 0), (1, 0)]) = true := by decide +kernel

theorem maskOf_of {m : Mask} {l : Tab Nat}
    (h : (List.range 32).all (fun k => m.getLsbD k == l.any (fun e => e.1 == k)) = true) : MaskOf m l := by
  intro k hk
  have := eq_of_beq (List.all_eq_true.mp h k (List.mem_range.mpr hk))
  rw [this, List.any_eq_true]
  simp [holdsLane]
/-- The demo device whose launch shades pixels. -/
def devPx (c : Core) : Dev := { devOf c with launches := [(0, { Launch.empty with regs := 64, live := 1 })] }
/-- Lane 0 of the issuing group has pixel (3, 4); with `blocked`, so has a fragment of an earlier group. -/
def corePx (held : Mask) (blocked : Bool) : Core :=
  coreOf ((0, { someRegs with index := 1, pixels := [(0, (3, 4))], held := held }) ::
      (if blocked then [(1, { Group.empty with pixels := [(5, (3, 4))] })] else [])) [(0, ready [(0, 0)])]
theorem px_resident (h : Mask) (b : Bool) : Resident (devPx (corePx h b)) 0 := by
  intro x m e n
  simp [devPx, devOf, Dev.core, Tab.get, Tab.get?, corePx, coreOf] at m
  subst m
  simp [ready] at n
  subst n
  rfl
/-- Lane 0 holds the address of byte 8 of local store in w2 and w3; the launch's local store holds `b` there. -/
def coreLs (b : Byte) : Core :=
  { coreOf [(0, { Group.empty with regs := [(2, 8), (3, 0xFF00)] })] [(0, ready [(0, 0)])] with
    ls := [(0, [(8, b)])], lsZero := [0] }
theorem ls0_can : canB (devOf (coreLs 0)) (ready [(0, 0)]) = true := by decide +kernel
theorem ls1_can : canB (devOf (coreLs 1)) (ready [(0, 0)]) = true := by decide +kernel
theorem ls_resident (b : Byte) : Resident (devOf (coreLs b)) 0 := by
  intro x m e n
  simp [devOf, Dev.core, Tab.get, Tab.get?, coreLs, coreOf] at m
  subst m
  simp [ready] at n
  subst n
  rfl
theorem demo_tiles (c : Core) : TilesOk (devOf c) := fun _ => rfl

/-- An outstanding operation of lane 0 at physical address `pa`, of 4 bytes. -/
def opAt (pa : Nat) (kind : MemKind) (atHome : Bool) : MemOp :=
  { strand := 0, lane := 0, group := 0, kind := kind, dva := pa, pa := pa, size := 4, attr := 0, ctx := 0, part := 0, launch := 0
    gindex := 0, pc := 0, rel := false, atHome := atHome }
/-- A line of a purse and one of the vault. -/
def purseLine (st : L1State) : L1Line := { st := st, way := 0, data := 5, poison := 0, streaming := false, attr := 0 }
def vaultLine : VLine := { way := 0, data := 7, dirty := false, streaming := false, poison := 0 }
/-- A miss that the directory has not seen. -/
def missOf (write : Bool) : Miss := { write := write, granted := false, attr := 0, part := 0 }
/-- The demo device with core 0 `c`, lines in the vault and entries in the directory. -/
def devMem (c : Core) (vault : Tab VLine) (dir : Tab DirEnt) : Dev := { devOf c with mem := { demo.mem with vault := vault, dir := dir } }
theorem dirRoom_of {d : Dev} {line : Nat} (h : d.mem.dir = []) : DirRoom d line :=
  .inr ⟨0, by decide, by simp [h]⟩

/-- An access that succeeds, and then `k`. -/
def thenOk {ε α : Type} (x : Except ε α × Dev) (k : α → Dev → Bool) : Bool :=
  match x with
  | (.ok a, d) => k a d
  | (.error _, _) => false

/-- What `thenOk` says: the access answers some `a` and device, for which `k` holds. -/
theorem thenOk_spec {ε α : Type} {x : Except ε α × Dev} {k : α → Dev → Bool} (h : thenOk x k = true) :
    ∃ a d, x = (.ok a, d) ∧ k a d = true := by
  obtain ⟨r, d⟩ := x
  cases r with
  | error e => cases h
  | ok a => exact ⟨a, d, rfl, h⟩

/-- A command of a ring: opcode, phase, and fields of its 64 bytes by their low bit. -/
def cmdOf (op : Nat) (phase : CmdPhase) (fields : List (Nat × Nat)) : Cmd :=
  { count := 0, inner := 0, raw := BitVec.ofNat 512 (op + (fields.map (fun e => e.2 * 2 ^ e.1)).sum), ctx := some 0, part := 0
    bad := false, phase := phase, status := 0, detail := 0, epochs := 0, batch := none, discarded := false }

/-- The command's name: function 0, ring 0, the first of the ring. -/
def cid : CmdId := { fn := 0, ring := 0, count := 0, inner := 0 }

/-- An active host-written ring of 64 entries at DVA 0. -/
def ring (cmds : List Cmd) : Ring := { Ring.empty with en := true, st := .active, cmds := cmds }

/-- A device whose function 0 has these rings. -/
def withRings (d : Dev) (rs : Tab Ring) : Dev := { d with funcs := [(0, { Func.reset 0 with rings := rs, bme := true })] }

/-- The demo device with the command in ring 0. -/
def devCmd (c : Cmd) : Dev := withRings demo [(0, ring [c])]

/-- What `Started` asks, evaluated. -/
def startedB (d : Dev) (x : CmdId) (o : Nat) (c : Cmd) : Bool := d.running && d.cmd? x == some c && c.phase == .started && c.op == o
theorem started_of {d : Dev} {x : CmdId} {o : Nat} {c : Cmd} (h : startedB d x o c = true) : Started d x o c := by
  simpa [startedB, Started, and_assoc] using h

/-! ### A page that stays mapped: several accesses of a unit, whatever the translation caches hold -/

/-- The entries that a walk of `tables` caches. -/
def cachedEntries : List TlbEnt := [⟨0, 0, 0, 0x501B⟩, ⟨0, 3, 0, 0x4001⟩, ⟨0, 4, 0, 0x3001⟩, ⟨0, 5, 0, 0x2001⟩]

/-- DVA page 0 of context 0 is physical page 0x5000, with the tables in the vault and nothing on its way. -/
structure Mapped (d : Dev) : Prop where
  ctx : d.ctx 0 = { valid := true, part := 0, func := 0, root := 1 }
  wins : (d.part 0).wins = [(0, { v := true, w := true, base := 0, size := 1 })]
  size : d.mmu.dramSize = 2 ^ 21
  txns : d.mem.txns = []
  miss : d.mem.missRegs = []
  resps : d.mem.resps = []
  dir : d.mem.dir = []
  tlb : ∀ t ∈ d.mmu.tlb, t ∈ cachedEntries
  outer : d.outerOff = false
  t4 : Tab.get? d.mem.vault 32 = some { vaultLine with data := 0x2001 }
  t3 : Tab.get? d.mem.vault 64 = some { vaultLine with data := 0x3001 }
  t2 : Tab.get? d.mem.vault 96 = some { vaultLine with data := 0x4001 }
  t1 : Tab.get? d.mem.vault 128 = some { vaultLine with data := 0x501B }

/-- Nothing but counters and cached translations differs. -/
def Alike (d e : Dev) : Prop := e = { d with aud := e.aud, mmu := { d.mmu with tlb := e.mmu.tlb } }

theorem Alike.trans {d e f : Dev} (h : Alike d e) (k : Alike e f) : Alike d f := by
  unfold Alike at *
  rw [k, h]

theorem Mapped.alike {d e : Dev} (m : Mapped d) (h : Alike d e) (t : ∀ t ∈ e.mmu.tlb, t ∈ cachedEntries) : Mapped e := by
  unfold Alike at h
  have hm : e.mem = d.mem := by rw [h]
  have hx : e.mmu.ctxs = d.mmu.ctxs := by rw [h]
  have hd : e.mmu.dramSize = d.mmu.dramSize := by rw [h]
  have hp : e.parts = d.parts := by rw [h]
  constructor
  · simpa [Dev.ctx, hx] using m.ctx
  · simpa [Dev.part, hp] using m.wins
  · rw [hd]; exact m.size
  · rw [hm]; exact m.txns
  · rw [hm]; exact m.miss
  · rw [hm]; exact m.resps
  · rw [hm]; exact m.dir
  · exact t
  · have : e.outerOff = d.outerOff := by rw [h]
    rw [this]; exact m.outer
  · rw [hm]; exact m.t4
  · rw [hm]; exact m.t3
  · rw [hm]; exact m.t2
  · rw [hm]; exact m.t1

theorem count_alike (d : Dev) (off n : Nat) : Alike d (d.count off n) := by
  unfold Alike Dev.count
  split
  · rfl
  · rfl

theorem count_mmu (d : Dev) (off n : Nat) : (d.count off n).mmu = d.mmu := by
  unfold Dev.count
  split <;> rfl

theorem deliverLine_nil {d : Dev} (line : Nat) (h : d.mem.resps = []) : d.deliverLine line = d := by
  have e : d.deliverLine line = { d with mem := { d.mem with resps := [] } } := by simp [Dev.deliverLine, h]
  rw [e, ← h]

theorem settle_mapped {d : Dev} (m : Mapped d) (line n : Nat) : d.settle line n = d := by
  cases n with
  | zero => rfl
  | succ n => simp [Dev.settle, Dev.fill, m.miss, deliverLine_nil line m.resps, m.txns]

theorem ncRead_mapped {d : Dev} (m : Mapped d) (rq : Rq) (attr : Nat) {line : Nat} {v : VLine} (h : Tab.get? d.mem.vault line = some v) :
    d.ncRead rq attr line = (v.data, v.poison, d.countSlice (d.sliceOf line) 0 1) := by
  simp [Dev.ncRead, Dev.ownerShares, settle_mapped m, Dev.dirOf, m.dir, Dev.sliceRead, h]

theorem find_good {T : List TlbEnt} (t : ∀ t ∈ T, t ∈ cachedEntries) (lv tag : Nat) :
    T.find? (fun x => x.ctx == 0 && x.level == lv && x.tag == tag) = none ∨
    ∃ x ∈ cachedEntries, x.level = lv ∧ x.tag = tag ∧ T.find? (fun x => x.ctx == 0 && x.level == lv && x.tag == tag) = some x := by
  cases h : T.find? (fun x => x.ctx == 0 && x.level == lv && x.tag == tag) with
  | none => exact .inl rfl
  | some x =>
    have := List.find?_some h
    simp only [Bool.and_eq_true, beq_iff_eq] at this
    exact .inr ⟨x, t x (List.mem_of_find?_eq_some h), this.1.2, this.2, rfl⟩

/-- A lookup finds nothing or the entry of that level, whichever the caches still hold. -/
theorem tlbFind_mapped {d : Dev} (m : Mapped d) (lv dva : Nat) :
    d.tlbFind 0 lv dva = none ∨ ∃ x ∈ cachedEntries, x.level = lv ∧ d.tlbFind 0 lv dva = some x.entry := by
  simp only [Dev.tlbFind]
  rcases find_good m.tlb lv (dva / 2 ^ tlbShift lv) with h | ⟨x, hx, hl, -, h⟩
  · rw [h]; exact .inl rfl
  · rw [h]
    simp only
    split
    · exact .inr ⟨x, hx, hl, rfl⟩
    · exact .inl rfl

theorem tlbFind_entry {d : Dev} (m : Mapped d) (dva : Nat) {lv e : Nat} (k : (⟨0, lv, 0, e⟩ : TlbEnt) ∈ cachedEntries) :
    d.tlbFind 0 lv dva = none ∨ d.tlbFind 0 lv dva = some e := by
  rcases tlbFind_mapped m lv dva with h | ⟨x, hx, hl, h⟩
  · exact .inl h
  · refine .inr (h.trans ?_)
    simp only [cachedEntries, List.mem_cons, List.not_mem_nil, or_false, TlbEnt.mk.injEq, true_and] at k hx
    rcases hx with rfl | rfl | rfl | rfl <;> rcases k with k | k | k | k <;> simp_all

theorem tlbPut_mapped {d : Dev} (m : Mapped d) {lv dva e : Nat} (hd : dva < 4096) (k : (⟨0, lv, 0, e⟩ : TlbEnt) ∈ cachedEntries) :
    Mapped (d.tlbPut 0 lv dva e) ∧ Alike d (d.tlbPut 0 lv dva e) := by
  have hs : dva / 2 ^ tlbShift lv = 0 := by
    apply Nat.div_eq_of_lt
    simp only [cachedEntries, List.mem_cons, List.not_mem_nil, or_false, TlbEnt.mk.injEq, true_and] at k
    rcases k with k | k | k | k <;> (rw [k.1]; exact Nat.lt_of_lt_of_le hd (by decide))
  have ha : Alike d (d.tlbPut 0 lv dva e) := rfl
  refine ⟨m.alike ha fun t ht => ?_, ha⟩
  simp only [Dev.tlbPut, hs, List.mem_cons, List.mem_filter] at ht
  rcases ht with rfl | ht
  · exact k
  · exact m.tlb t ht.1

theorem read64_mapped {d : Dev} (m : Mapped d) {ea : Nat} {v : VLine} (h : Tab.get? d.mem.vault (ea / 128) = some v) :
    ∃ e, d.read64 ea = (leNat (lineBytes v.data (ea % 128) 8), v.poison.getLsbD (ea % 128 / 8), e) ∧ Alike d e ∧ Mapped e := by
  have a1 : Alike d (d.countGlobal 15 1) := count_alike _ _ _
  have m1 : Mapped (d.countGlobal 15 1) := m.alike a1 (by rw [Dev.countGlobal, count_mmu]; exact m.tlb)
  have h1 : Tab.get? (d.countGlobal 15 1).mem.vault (ea / 128) = some v := by rw [a1]; exact h
  have a2 := count_alike (d.countGlobal 15 1) (0x68000 + 64 * (d.countGlobal 15 1).sliceOf (ea / 128) + 8 * 0) 1
  refine ⟨(d.countGlobal 15 1).countSlice ((d.countGlobal 15 1).sliceOf (ea / 128)) 0 1, by
    simp only [Dev.read64, ncRead_mapped m1 rqWalk 0 h1], a1.trans a2, m1.alike a2 ?_⟩
  rw [Dev.countSlice, count_mmu]; exact m1.tlb

theorem inWindow_mapped {d : Dev} (m : Mapped d) (pa : Nat) (w : Bool) :
    d.inWindow 0 pa w = ({ v := true, w := true, base := 0, size := 1 } : Window).covers pa := by
  simp [Dev.inWindow, m.wins]

theorem index_zero {dva : Nat} (hd : dva < 4096) (l : Nat) : fld dva (20 + 9 * l) (12 + 9 * l) = 0 := by
  have h : dva < 2 ^ (12 + 9 * l) := Nat.lt_of_lt_of_le hd (Nat.pow_le_pow_right (by decide : 2 > 0) (Nat.le_add_right 12 (9 * l)))
  simp [fld, Nat.shiftRight_eq_div_pow, Nat.div_eq_of_lt h]

theorem walk_step {d : Dev} (m : Mapped d) {dva l t e : Nat} (hd : dva < 4096) (hl : l ≠ 0) (k : (⟨0, l + 2, 0, e⟩ : TlbEnt) ∈ cachedEntries)
    (hv : Tab.get? d.mem.vault (t / 128) = some { vaultLine with data := BitVec.ofNat 1024 e }) (ht : t % 128 = 0) (ht' : t < 2 ^ 21)
    (he : leNat (lineBytes (BitVec.ofNat 1024 e) 0 8) = e) (hb : bitOf e 0 = true) (hc : badEntry l e = false) (hf : bitOf e 1 = false) :
    ∃ d', Mapped d' ∧ Alike d d' ∧ d.walk 0 0 dva t (l + 1) = d'.walk 0 0 dva (ptePa e) l := by
  have h0 : t + 8 * fld dva (20 + 9 * l) (12 + 9 * l) = t := by rw [index_zero hd]; rfl
  rcases tlbFind_entry m dva k with h | h
  · obtain ⟨d1, hr, a1, m1⟩ := read64_mapped m hv
    rw [ht, he] at hr
    have hw : d.inWindow 0 t false = true := by rw [inWindow_mapped m]; simp [Window.covers]; omega
    obtain ⟨m2, a2⟩ := tlbPut_mapped m1 hd k
    refine ⟨d1.tlbPut 0 (l + 2) dva e, m2, a1.trans a2, ?_⟩
    rw [Dev.walk]
    simp only [h0, hl, if_false, h, hw, Bool.not_true, Bool.false_eq_true, hr, hb, hc, hf]
    simp [vaultLine]
  · refine ⟨d, m, rfl, ?_⟩
    rw [Dev.walk]
    simp only [hl, if_false, h]

theorem walk_mapped {d : Dev} (m : Mapped d) {dva : Nat} (hd : dva < 4096) :
    ∃ e, Mapped e ∧ Alike d e ∧ d.walk 0 0 dva 0x1000 4 = (.ok (0x501B, 0, 0x4000), e) := by
  obtain ⟨d1, m1, a1, h1⟩ := walk_step (l := 3) (t := 0x1000) (e := 0x2001) m hd (by decide) (by decide) m.t4 rfl (by decide) (by decide +kernel)
    (by decide) (by decide +kernel) (by decide)
  obtain ⟨d2, m2, a2, h2⟩ := walk_step (l := 2) (t := 0x2000) (e := 0x3001) m1 hd (by decide) (by decide) m1.t3 rfl (by decide) (by decide +kernel)
    (by decide) (by decide +kernel) (by decide)
  obtain ⟨d3, m3, a3, h3⟩ := walk_step (l := 1) (t := 0x3000) (e := 0x4001) m2 hd (by decide) (by decide) m2.t2 rfl (by decide) (by decide +kernel)
    (by decide) (by decide +kernel) (by decide)
  obtain ⟨d4, hr, a4, m4⟩ := read64_mapped (ea := 0x4000) m3 m3.t1
  refine ⟨d4, m4, ((a1.trans a2).trans a3).trans a4, ?_⟩
  rw [h1, show ptePa 0x2001 = 0x2000 by decide, h2, show ptePa 0x3001 = 0x3000 by decide, h3, show ptePa 0x4001 = 0x4000 by decide, Dev.walk]
  have h0 : 0x4000 + 8 * fld dva (20 + 9 * 0) (12 + 9 * 0) = 0x4000 := by rw [index_zero hd]
  have hw : d3.inWindow 0 0x4000 false = true := by rw [inWindow_mapped m3]; decide
  have hr' : d3.read64 0x4000 = (0x501B, false, d4) := hr.trans (by
    rw [show leNat (lineBytes (0x501B : Line) (0x4000 % 128) 8) = 0x501B by decide +kernel]; rfl)
  simp only [h0, if_true, hw, Bool.not_true, Bool.false_eq_true, if_false, hr']
  rw [if_neg (by decide), if_neg (by decide +kernel), if_pos (by decide), if_neg (by decide), if_neg (by decide)]

theorem translate_mapped {d : Dev} (m : Mapped d) {dva : Nat} (hd : dva < 4096) (k : Acc) :
    ∃ e, Mapped e ∧ Alike d e ∧ d.translate 0 dva k = (.ok (0x5000 + dva, 0), e) := by
  have hx : fld dva 47 40 ≠ 0xFF := by
    have : fld dva 47 40 = 0 := by
      unfold fld
      rw [Nat.shiftRight_eq_div_pow, Nat.div_eq_of_lt (by omega), Nat.zero_mod]
    rw [this]; decide
  have hp : leafPa 0 0x501B dva = 0x5000 + dva := by
    simp [leafPa, tlbShift, Nat.mod_eq_of_lt hd, show alignDown (ptePa 0x501B) 4096 = 0x5000 by decide]
  have hf : ∀ e : Dev, Mapped e → e.leafFail 0 k 0x501B (0x5000 + dva) = none := by
    intro e me
    have hw : e.inWindow 0 (0x5000 + dva) k.needsW = true := by
      rw [inWindow_mapped me]; simp [Window.covers]; omega
    have h1 : ¬ (0x5000 + dva ≥ 2 ^ 47) := by omega
    have h2 : ¬ (0x5000 + dva ≥ 2 ^ 21) := by omega
    simp only [Dev.leafFail, me.size, hw, h1, h2, if_false]
    cases k <;> decide
  rcases tlbFind_entry m dva (lv := 0) (e := 0x501B) (by decide) with h | h
  · have h1 : d.tlbFind 0 1 dva = none := by
      rcases tlbFind_mapped m 1 dva with h | ⟨x, hx, hl, -⟩
      · exact h
      · simp [cachedEntries] at hx; rcases hx with rfl | rfl | rfl | rfl <;> simp at hl
    have h2 : d.tlbFind 0 2 dva = none := by
      rcases tlbFind_mapped m 2 dva with h | ⟨x, hx, hl, -⟩
      · exact h
      · simp [cachedEntries] at hx; rcases hx with rfl | rfl | rfl | rfl <;> simp at hl
    have a1 : Alike d (d.countGlobal 14 1) := count_alike _ _ _
    have m1 : Mapped (d.countGlobal 14 1) := m.alike a1 (by rw [Dev.countGlobal, count_mmu]; exact m.tlb)
    obtain ⟨e, me, ae, hw⟩ := walk_mapped m1 hd
    obtain ⟨m2, a2⟩ := tlbPut_mapped (lv := 0) (e := 0x501B) me hd (by decide)
    refine ⟨e.tlbPut 0 0 dva 0x501B, m2, (a1.trans ae).trans a2, ?_⟩
    simp only [Dev.translate, hx, if_false, m.ctx, Bool.not_true, Bool.false_eq_true, List.findSome?, h, h1, h2, Option.map_none,
      Nat.one_mul, hw, hp, hf e me]
    rfl
  · refine ⟨d, m, rfl, ?_⟩
    simp only [Dev.translate, hx, if_false, m.ctx, Bool.not_true, Bool.false_eq_true, List.findSome?, h, Option.map_some, hp, hf d m]
    rfl

/-- Nothing but counters, cached translations and lines of the vault differs. -/
def Stored (d e : Dev) : Prop := e = { d with aud := e.aud, mmu := { d.mmu with tlb := e.mmu.tlb }, mem := { d.mem with vault := e.mem.vault } }

theorem Alike.stored {d e : Dev} (h : Alike d e) : Stored d e := by
  unfold Alike at h
  unfold Stored
  rw [h]

theorem Stored.trans {d e f : Dev} (h : Stored d e) (k : Stored e f) : Stored d f := by
  unfold Stored at *
  rw [k, h]

/-- Every byte of a range of the page is in a line of the vault without poison. -/
def pageOk (d : Dev) (dva n : Nat) : Bool :=
  (piecesOf dva n).all (fun p => decide (p.1 < 4096) && (Tab.get? d.mem.vault ((0x5000 + p.1) / 128)).any (fun v => v.poison == 0))

/-- The line of the vault, which `pageOk` says is there. -/
def lineAt (d : Dev) (line : Nat) : VLine := (Tab.get? d.mem.vault line).getD vaultLine

theorem piece_ok {d : Dev} {p : Nat × Nat}
    (h : (decide (p.1 < 4096) && (Tab.get? d.mem.vault ((0x5000 + p.1) / 128)).any (fun v => v.poison == 0)) = true) :
    p.1 < 4096 ∧ Tab.get? d.mem.vault ((0x5000 + p.1) / 128) = some (lineAt d ((0x5000 + p.1) / 128)) ∧
    (lineAt d ((0x5000 + p.1) / 128)).poison = 0 := by
  simp only [Bool.and_eq_true, decide_eq_true_eq, Option.any_eq_true, beq_iff_eq] at h
  obtain ⟨h1, v, h2, h3⟩ := h
  simp [lineAt, h1, h2, h3]

theorem read1_mapped {d : Dev} (m : Mapped d) {a : Agent} (ha : a.ctx = 0) (u : Bool) {p : Nat × Nat}
    (h : (decide (p.1 < 4096) && (Tab.get? d.mem.vault ((0x5000 + p.1) / 128)).any (fun v => v.poison == 0)) = true) :
    ∃ e, Mapped e ∧ Alike d e ∧
      d.agentRead1 a u p.1 p.2 = (.ok (lineBytes (lineAt d ((0x5000 + p.1) / 128)).data ((0x5000 + p.1) % 128) p.2), e) := by
  obtain ⟨h1, h2, h3⟩ := piece_ok h
  obtain ⟨d1, m1, a1, ht⟩ := translate_mapped m h1 .read
  have hv : Tab.get? d1.mem.vault ((0x5000 + p.1) / 128) = some (lineAt d ((0x5000 + p.1) / 128)) := by rw [a1]; exact h2
  have hx : d.xlate a p.1 .read = (.ok (0x5000 + p.1, 0), d1) := by simp [Dev.xlate, ha, ht]
  have a2 := count_alike d1 (0x68000 + 64 * d1.sliceOf ((0x5000 + p.1) / 128) + 8 * 0) 1
  refine ⟨d1.countSlice (d1.sliceOf ((0x5000 + p.1) / 128)) 0 1, m1.alike a2 ?_, a1.trans a2, ?_⟩
  · rw [Dev.countSlice, count_mmu]; exact m1.tlb
  · have hh : d1.hostRefuses a.rq.func ((0x5000 + p.1) / 128) = false := by
      simp only [Dev.hostRefuses, isHostLine, decide_eq_false (show ¬ 2 ^ 40 ≤ (0x5000 + p.1) / 128 by omega), Bool.false_and]
    simp only [Dev.agentRead1, hx, hh, Bool.false_eq_true, if_false, ncRead_mapped m1 _ _ hv, h3]
    rfl

theorem delDir_nil {d : Dev} (line : Nat) (h : d.mem.dir = []) : d.delDir line = d := by
  have e : d.delDir line = { d with mem := { d.mem with dir := [] } } := by simp [Dev.delDir, h, Tab.del]
  rw [e, ← h]

theorem ncWrite_mapped {d : Dev} (m : Mapped d) (rq : Rq) {line : Nat} {v : VLine} (h : Tab.get? d.mem.vault line = some v)
    (mask : LineMask) (data : Line) (poison : BitVec 16) :
    d.ncWrite rq 0 line mask data poison = (d.countSlice (d.sliceOf line) 0 1).putVault line
      { v with data := mergeLine mask v.data data, poison := mergePoison mask v.poison poison, dirty := true, streaming := v.streaming } := by
  simp [Dev.ncWrite, settle_mapped m, Dev.sharersOf, Dev.dirOf, m.dir, delDir_nil line m.dir, Dev.sliceWrite, h]

theorem mergePoison_zero (mask : LineMask) : mergePoison mask 0 0 = 0 := by
  have : (List.range 16).filter (fun k => if (0 : BitVec 16).getLsbD k && touchesGranule mask k then true
      else if wholeGranule mask k then false else (0 : BitVec 16).getLsbD k) = [] := by
    rw [List.filter_eq_nil_iff]
    intro k _
    simp
  rw [mergePoison, this]
  rfl

/-- A line of the vault written anew. -/
theorem putVault_mapped {d : Dev} (m : Mapped d) {line : Nat} (v : VLine) (h : 160 ≤ line) : Mapped (d.putVault line v) := by
  have k : ∀ l, l < 160 → Tab.get? (d.putVault line v).mem.vault l = Tab.get? d.mem.vault l := fun l hl =>
    Tab.get?_put_of_ne _ _ (by omega)
  exact ⟨m.ctx, m.wins, m.size, m.txns, m.miss, m.resps, m.dir, m.tlb, m.outer, (k _ (by decide)).trans m.t4, (k _ (by decide)).trans m.t3,
    (k _ (by decide)).trans m.t2, (k _ (by decide)).trans m.t1⟩

theorem countSlice_mapped {d : Dev} (m : Mapped d) (s e n : Nat) : Mapped (d.countSlice s e n) ∧ Alike d (d.countSlice s e n) :=
  ⟨m.alike (count_alike _ _ _) (by rw [Dev.countSlice, count_mmu]; exact m.tlb), count_alike _ _ _⟩

theorem write1_mapped {d : Dev} (m : Mapped d) {a : Agent} (ha : a.ctx = 0) (u : Bool) {p : Nat × Nat} (bs : List Byte)
    (h : (decide (p.1 < 4096) && (Tab.get? d.mem.vault ((0x5000 + p.1) / 128)).any (fun v => v.poison == 0)) = true) :
    ∃ e, Mapped e ∧ Stored d e ∧ d.agentWrite1 a u p.1 bs false = (.ok (), e) ∧
      (∀ l, l ≠ (0x5000 + p.1) / 128 → Tab.get? e.mem.vault l = Tab.get? d.mem.vault l) ∧
      (Tab.get? e.mem.vault ((0x5000 + p.1) / 128)).any (fun v => v.poison == 0) = true := by
  obtain ⟨h1, h2, h3⟩ := piece_ok h
  obtain ⟨d1, m1, a1, ht⟩ := translate_mapped m h1 .write
  have hv : Tab.get? d1.mem.vault ((0x5000 + p.1) / 128) = some (lineAt d ((0x5000 + p.1) / 128)) := by rw [a1]; exact h2
  have hx : d.xlate a p.1 .write = (.ok (0x5000 + p.1, 0), d1) := by simp [Dev.xlate, ha, ht]
  have hat : attrFor u (0x5000 + p.1) 0 = 0 := by
    simp only [attrFor, ge_iff_le]
    split <;> first | rfl | (rename_i h; simp at h; omega)
  have hl : 160 ≤ (0x5000 + p.1) / 128 := by omega
  have hw := ncWrite_mapped m1 a.rq hv (spanMask ((0x5000 + p.1) % 128) bs.length) (lineSet 0 ((0x5000 + p.1) % 128) bs) 0
  obtain ⟨m2, a2⟩ := countSlice_mapped m1 (d1.sliceOf ((0x5000 + p.1) / 128)) 0 1
  rw [h3, mergePoison_zero] at hw
  generalize hln : (0x5000 + p.1) / 128 = line at *
  generalize hd2 : d1.countSlice (d1.sliceOf line) 0 1 = d2 at *
  generalize hx : ({ lineAt d line with
    data := mergeLine (spanMask ((0x5000 + p.1) % 128) bs.length) (lineAt d line).data (lineSet 0 ((0x5000 + p.1) % 128) bs)
    poison := 0, dirty := true, streaming := (lineAt d line).streaming } : VLine) = v' at *
  have hm : d2.mem.vault = d.mem.vault := by rw [a2]; show d1.mem.vault = _; rw [a1]
  have hs : Stored d1 (d2.putVault line v') := by
    have e : d2.putVault line v' = { d2 with mem := { d2.mem with vault := Tab.put d2.mem.vault line v' } } := rfl
    unfold Stored
    rw [e, a2]
  refine ⟨d2.putVault line v', putVault_mapped m2 v' hl, a1.stored.trans hs, ?_, ?_, ?_⟩
  · have hh : d1.hostRefuses a.rq.func line = false := by
      simp only [Dev.hostRefuses, isHostLine, decide_eq_false (show ¬ 2 ^ 40 ≤ line by omega), Bool.false_and]
    simp_all [Dev.agentWrite1]
  · intro l hne
    show Tab.get? (Tab.put d2.mem.vault line v') l = _
    rw [Tab.get?_put_of_ne _ _ hne, hm]
  · show (Tab.get? (Tab.put d2.mem.vault line v') line).any _ = true
    rw [Tab.get?_put_self, ← hx]
    rfl

theorem read_mapped_aux (a : Agent) (ha : a.ctx = 0) (u : Bool) (ps : List (Nat × Nat)) : ∀ (d : Dev) (acc : List Byte), Mapped d →
    ps.all (fun p => decide (p.1 < 4096) && (Tab.get? d.mem.vault ((0x5000 + p.1) / 128)).any (fun v => v.poison == 0)) = true →
    ∃ e, Mapped e ∧ Alike d e ∧
      ps.foldl (fun (r : Except AccFail (List Byte) × Dev) p =>
        match r with
        | (.error f, d) => (.error f, d)
        | (.ok bs, d) => match d.agentRead1 a u (p.1 % 2 ^ 48) p.2 with
          | (.error f, d) => (.error f, d)
          | (.ok x, d) => (.ok (bs ++ x), d)) (.ok acc, d) =
        (.ok (acc ++ ps.flatMap (fun p => lineBytes (lineAt d ((0x5000 + p.1) / 128)).data ((0x5000 + p.1) % 128) p.2)), e) := by
  induction ps with
  | nil => exact fun d acc m _ => ⟨d, m, rfl, by simp⟩
  | cons p r ih =>
    intro d acc m h
    rw [List.all_cons, Bool.and_eq_true] at h
    obtain ⟨d1, m1, a1, e1⟩ := read1_mapped m ha u h.1
    have hv : d1.mem = d.mem := by rw [a1]
    obtain ⟨d2, m2, a2, e2⟩ := ih d1 (acc ++ lineBytes (lineAt d ((0x5000 + p.1) / 128)).data ((0x5000 + p.1) % 128) p.2) m1 (by rw [hv]; exact h.2)
    refine ⟨d2, m2, a1.trans a2, ?_⟩
    have hp : p.1 % 2 ^ 48 = p.1 := Nat.mod_eq_of_lt (by have := (piece_ok h.1).1; omega)
    simp only [List.foldl_cons, hp, e1]
    rw [e2]
    simp [lineAt, hv]

/-- A range of the page is read, and the page stays mapped. -/
theorem read_mapped {d : Dev} (m : Mapped d) {a : Agent} (ha : a.ctx = 0) (u : Bool) {dva n : Nat} (h : pageOk d dva n = true) :
    ∃ e, Mapped e ∧ Alike d e ∧ d.agentRead a u dva n =
      (.ok ((piecesOf dva n).flatMap (fun p => lineBytes (lineAt d ((0x5000 + p.1) / 128)).data ((0x5000 + p.1) % 128) p.2)), e) := by
  obtain ⟨e, m1, a1, h1⟩ := read_mapped_aux a ha u (piecesOf dva n) d [] m h
  exact ⟨e, m1, a1, h1⟩

theorem write_mapped_aux (a : Agent) (ha : a.ctx = 0) (u : Bool) (dva : Nat) (bs : List Byte) (ps : List (Nat × Nat)) : ∀ (d : Dev), Mapped d →
    ps.all (fun p => decide (p.1 < 4096) && (Tab.get? d.mem.vault ((0x5000 + p.1) / 128)).any (fun v => v.poison == 0)) = true →
    ∃ e, Mapped e ∧ Stored d e ∧
      ps.foldl (fun (r : Except AccFail Unit × Dev) p =>
        match r with
        | (.error f, d) => (.error f, d)
        | (.ok _, d) => d.agentWrite1 a u (p.1 % 2 ^ 48) ((bs.drop (p.1 - dva)).take p.2) false) (.ok (), d) = (.ok (), e) ∧
      (∀ l, (∀ p ∈ ps, l ≠ (0x5000 + p.1) / 128) → Tab.get? e.mem.vault l = Tab.get? d.mem.vault l) ∧
      ∀ l, (Tab.get? d.mem.vault l).any (fun v => v.poison == 0) = true → (Tab.get? e.mem.vault l).any (fun v => v.poison == 0) = true := by
  induction ps with
  | nil => exact fun d m _ => ⟨d, m, rfl, rfl, fun _ _ => rfl, fun _ h => h⟩
  | cons p r ih =>
    intro d m h
    rw [List.all_cons, Bool.and_eq_true] at h
    have hp : p.1 % 2 ^ 48 = p.1 := Nat.mod_eq_of_lt (by have := (piece_ok h.1).1; omega)
    obtain ⟨d1, m1, s1, e1, k1, l1⟩ := write1_mapped m ha u ((bs.drop (p.1 - dva)).take p.2) h.1
    have keep : ∀ l, (Tab.get? d.mem.vault l).any (fun v => v.poison == 0) = true → (Tab.get? d1.mem.vault l).any (fun v => v.poison == 0) = true := by
      intro l hl
      by_cases hx : l = (0x5000 + p.1) / 128
      · rw [hx]; exact l1
      · rw [k1 l hx]; exact hl
    obtain ⟨d2, m2, s2, e2, k2, l2⟩ := ih d1 m1 (by
      rw [List.all_eq_true] at *
      intro q hq
      have := h.2 q hq
      rw [Bool.and_eq_true] at *
      exact ⟨this.1, keep _ this.2⟩)
    refine ⟨d2, m2, s1.trans s2, ?_, ?_, fun l hl => l2 l (keep l hl)⟩
    · simp only [List.foldl_cons, hp, e1]
      exact e2
    · intro l hl
      rw [k2 l (fun q hq => hl q (List.mem_cons_of_mem _ hq)), k1 l (hl p (List.mem_cons_self ..))]

/-- A range of the page is written, and the page stays mapped. -/
theorem write_mapped {d : Dev} (m : Mapped d) {a : Agent} (ha : a.ctx = 0) (u : Bool) {dva : Nat} {bs : List Byte}
    (h : pageOk d dva bs.length = true) :
    ∃ e, Mapped e ∧ Stored d e ∧ d.agentWrite a u dva bs = (.ok (), e) ∧
      (∀ l, (∀ p ∈ piecesOf dva bs.length, l ≠ (0x5000 + p.1) / 128) → Tab.get? e.mem.vault l = Tab.get? d.mem.vault l) ∧
      ∀ l, (Tab.get? d.mem.vault l).any (fun v => v.poison == 0) = true → (Tab.get? e.mem.vault l).any (fun v => v.poison == 0) = true :=
  write_mapped_aux a ha u dva bs (piecesOf dva bs.length) d m h

theorem pageOk_alike {d e : Dev} (h : Alike d e) (dva n : Nat) : pageOk e dva n = pageOk d dva n := by
  have hm : e.mem = d.mem := by rw [h]
  simp [pageOk, hm]

theorem pageOk_keep {d e : Dev} {dva n : Nat} (h : pageOk d dva n = true)
    (k : ∀ l, (Tab.get? d.mem.vault l).any (fun v => v.poison == 0) = true → (Tab.get? e.mem.vault l).any (fun v => v.poison == 0) = true) :
    pageOk e dva n = true := by
  simp only [pageOk, List.all_eq_true, Bool.and_eq_true] at *
  exact fun p hp => ⟨(h p hp).1, k _ (h p hp).2⟩

/-- The demo device with the tables and these lines of physical page 0x5000 in the vault. -/
def devPage (lines : Tab Line) : Dev :=
  let pages : Tab VLine := [(32, { vaultLine with data := 0x2001 }), (64, { vaultLine with data := 0x3001 }),
    (96, { vaultLine with data := 0x4001 }), (128, { vaultLine with data := 0x501B })]
  let data : Tab VLine := lines.map (fun e => (160 + e.1, { vaultLine with data := e.2 }))
  { demo with mem := { demo.mem with vault := pages ++ data } }

theorem devPage_mapped (lines : Tab Line) (rs : Tab Ring) : Mapped (withRings (devPage lines) rs) :=
  ⟨rfl, rfl, rfl, rfl, rfl, rfl, rfl, (by intro t h; cases h), rfl, rfl, rfl, rfl, rfl⟩

/-- What has no part in `Mapped`: DRAM and its poison, the mint, the free values' counter and the functions. -/
theorem Mapped.other {d e : Dev} (m : Mapped d) (hm : e.mem = { d.mem with dram := e.mem.dram, dpoison := e.mem.dpoison })
    (h : e = { d with mem := e.mem, mint := e.mint, free := e.free, funcs := e.funcs, aud := e.aud, mmu := e.mmu }) (k : e.mmu = d.mmu) :
    Mapped e := by
  rw [h, k, hm]
  exact ⟨m.ctx, m.wins, m.size, m.txns, m.miss, m.resps, m.dir, m.tlb, m.outer, m.t4, m.t3, m.t2, m.t1⟩

theorem countGlobal_same (d : Dev) (k n : Nat) : d.countGlobal k n = { d with aud := (d.countGlobal k n).aud } := by
  unfold Dev.countGlobal Dev.count
  split <;> rfl

theorem dramWrite_same {d : Dev} (ho : d.outerOff = false) (rq : Rq) (l : Nat) (mask : LineMask) (data : Line) (poison : BitVec 16) :
    ∃ a x y, d.dramWrite rq l mask data poison = { d with aud := a, mem := { d.mem with dram := x, dpoison := y } } := by
  have key : ∀ (e : Dev) (k : Nat), ∃ a, e.countGlobal k 1 = { e with aud := a } := fun e k => ⟨_, countGlobal_same e k 1⟩
  by_cases hw : (mask == fullMask) = true
  · obtain ⟨a, ha⟩ := key d 9
    refine ⟨a, ?_⟩
    simp only [Dev.dramWrite, hw, if_true, ha]
    rw [if_neg (by rw [ho]; decide)]
    exact ⟨_, _, rfl⟩
  · obtain ⟨b, hb⟩ := key d 8
    obtain ⟨a, ha⟩ := key { d with aud := b } 9
    refine ⟨a, ?_⟩
    simp only [Dev.dramWrite, hw, Dev.dramRead, hb, ha, Bool.false_eq_true, if_false]
    rw [if_neg (by rw [ho]; decide)]
    exact ⟨_, _, rfl⟩

theorem mapByte_mapped {d : Dev} (m : Mapped d) {x : Pool} (hx : x.ctx = 0) {k : Nat}
    (h : (decide (x.metaDva + k < 4096) && (Tab.get? d.mem.vault ((0x5000 + (x.metaDva + k)) / 128)).any (fun v => v.poison == 0)) = true) :
    ∃ e, Mapped e ∧ Alike d e ∧ d.mapByte x k =
      ((lineByte (lineAt d ((0x5000 + (x.metaDva + k)) / 128)).data ((0x5000 + (x.metaDva + k)) % 128)).toNat, e) := by
  obtain ⟨h1, h2, h3⟩ := piece_ok (p := (x.metaDva + k, 1)) h
  obtain ⟨d1, m1, a1, ht⟩ := translate_mapped m h1 .write
  have hv : Tab.get? d1.mem.vault ((0x5000 + (x.metaDva + k)) / 128) = some (lineAt d ((0x5000 + (x.metaDva + k)) / 128)) := by
    rw [a1]; exact h2
  obtain ⟨m2, a2⟩ := countSlice_mapped m1 (d1.sliceOf ((0x5000 + (x.metaDva + k)) / 128)) 0 1
  refine ⟨_, m2, a1.trans a2, ?_⟩
  simp only at h3
  simp only [Dev.mapByte, hx, ht, ncRead_mapped m1 _ _ hv, h3]
  simp

theorem setMapByte_mapped {d : Dev} (m : Mapped d) {x : Pool} (hx : x.ctx = 0) {k : Nat} (v : Nat)
    (h : (decide (x.metaDva + k < 4096) && (Tab.get? d.mem.vault ((0x5000 + (x.metaDva + k)) / 128)).any (fun v => v.poison == 0)) = true) :
    Mapped (d.setMapByte x k v) ∧ (d.setMapByte x k v).mint = d.mint ∧
    ∀ l, l ≠ (0x5000 + (x.metaDva + k)) / 128 → Tab.get? (d.setMapByte x k v).mem.vault l = Tab.get? d.mem.vault l := by
  obtain ⟨h1, h2, h3⟩ := piece_ok (p := (x.metaDva + k, 1)) h
  obtain ⟨d1, m1, a1, ht⟩ := translate_mapped m h1 .write
  simp only at h1 h2 h3 ht
  have hl : 160 ≤ (0x5000 + (x.metaDva + k)) / 128 := by omega
  have hh : isHostLine ((0x5000 + (x.metaDva + k)) / 128) = false := by simp [isHostLine]; omega
  have hv : Tab.get? d1.mem.vault ((0x5000 + (x.metaDva + k)) / 128) = some (lineAt d ((0x5000 + (x.metaDva + k)) / 128)) := by
    rw [a1]; exact h2
  obtain ⟨m2, a2⟩ := countSlice_mapped m1 (d1.sliceOf ((0x5000 + (x.metaDva + k)) / 128)) 0 1
  have hmem : (d1.countSlice (d1.sliceOf ((0x5000 + (x.metaDva + k)) / 128)) 0 1).mem = d.mem := by rw [a2]; show d1.mem = _; rw [a1]
  have hmint : (d1.countSlice (d1.sliceOf ((0x5000 + (x.metaDva + k)) / 128)) 0 1).mint = d.mint := by rw [a2]; show d1.mint = _; rw [a1]
  generalize hb : (0x5000 + (x.metaDva + k)) / 128 = line at *
  generalize hd2 : d1.countSlice (d1.sliceOf line) 0 1 = d2 at *
  let mask := spanMask ((0x5000 + (x.metaDva + k)) % 128) 1
  let data := lineSet 0 ((0x5000 + (x.metaDva + k)) % 128) (toLe 1 v)
  let v' : VLine := { lineAt d line with data := mergeLine mask (lineAt d line).data data, poison := mergePoison mask (lineAt d line).poison 0 }
  have m3 : Mapped (d2.putVault line v') := putVault_mapped m2 v' hl
  have hw : d.setMapByte x k v = (d2.putVault line v').dramWrite (rqUnit 35 0) line mask data 0 := by
    have e := delDir_nil line m1.dir
    simp only [Dev.setMapByte, hx, ht, hb, Dev.ncWrite, settle_mapped m1, Dev.sharersOf, Dev.dirOf, m1.dir, Tab.get?, Option.map_none, List.foldl_nil, e,
      Dev.sliceWrite, hv]
    simp [Dev.memWrite, hh, Dev.useDram, rqUnit, hd2, v', mask, data]
  obtain ⟨a, y, z, hd⟩ := dramWrite_same m3.outer (rqUnit 35 0) line mask data 0
  rw [hw, hd]
  refine ⟨m3.other rfl rfl rfl, hmint, fun l hne => ?_⟩
  show Tab.get? (Tab.put d2.mem.vault line v') l = _
  rw [Tab.get?_put_of_ne _ _ hne, hmem]

/-- An object of a pool whose bitmap, of 8 bits in the page, is clear. -/
theorem mint_mapped {d : Dev} (m : Mapped d) {p i user : Nat} {x : Pool} (hp : d.pool p i = x) (hv : x.valid = true)
    (hu : bitOf x.users user = true) (hx : x.ctx = 0) (hf : x.free ≠ 0) (hc : x.cursor = 0) (hn : x.count = 8) (hw : x.lowWater = 0)
    (h : (decide (x.metaDva + 0 < 4096) && (Tab.get? d.mem.vault ((0x5000 + (x.metaDva + 0)) / 128)).any (fun v => v.poison == 0)) = true)
    (hb : lineByte (lineAt d ((0x5000 + (x.metaDva + 0)) / 128)).data ((0x5000 + (x.metaDva + 0)) % 128) = 0) :
    ∃ e, Mapped e ∧ d.mintCall p i user = (some x.base, e) ∧ (e.pool p i).ctx = 0 ∧
      ∀ l, l ≠ (0x5000 + (x.metaDva + 0)) / 128 → Tab.get? e.mem.vault l = Tab.get? d.mem.vault l := by
  have a0 : Alike d (d.countGlobal 3 1) := count_alike _ _ _
  have m0 : Mapped (d.countGlobal 3 1) := m.alike a0 (by rw [Dev.countGlobal, count_mmu]; exact m.tlb)
  have e0 : (d.countGlobal 3 1).mem = d.mem ∧ (d.countGlobal 3 1).mint = d.mint := by
    unfold Alike at a0
    constructor <;> rw [a0]
  generalize hd0 : d.countGlobal 3 1 = d0 at *
  have hp0 : d0.pool p i = x := by rw [← hp]; simp [Dev.pool, e0.2]
  obtain ⟨d1, m1, a1, r1⟩ := mapByte_mapped m0 hx (k := 0) (by rw [e0.1]; exact h)
  have e1 : d1.mem = d.mem ∧ d1.mint = d.mint := by
    unfold Alike at a1
    exact ⟨by rw [a1]; exact e0.1, by rw [a1]; exact e0.2⟩
  obtain ⟨d2, m2, a2, r2⟩ := mapByte_mapped m1 hx (k := 0) (by rw [e1.1]; exact h)
  have e2 : d2.mem = d.mem ∧ d2.mint = d.mint := by
    unfold Alike at a2
    exact ⟨by rw [a2]; exact e1.1, by rw [a2]; exact e1.2⟩
  have q : ∀ e : Dev, e.mem = d.mem → lineByte (lineAt e ((0x5000 + (x.metaDva + 0)) / 128)).data ((0x5000 + (x.metaDva + 0)) % 128) = 0 :=
    fun e he => by rw [← hb]; simp [lineAt, he]
  rw [q d0 e0.1] at r1
  rw [q d1 e1.1] at r2
  obtain ⟨m3, i3, k3⟩ := setMapByte_mapped m2 hx (k := 0) 1 (by rw [e2.1]; exact h)
  let y : Pool := { x with cursor := 1, free := x.free - 1, minFree := min x.minFree (x.free - 1), below := x.below }
  refine ⟨(d2.setMapByte x 0 1).setPool p i y, m3.other rfl rfl rfl, ?_, ?_, fun l hl => (k3 l hl).trans (by rw [e2.1])⟩
  · have hfc : d0.firstClear x x.cursor x.count = (some 0, d1) := by
      rw [hc, hn, Dev.firstClear]
      simp [Dev.mapBit, hn, r1, bitOf]
    have hset : d1.setMapBit x 0 true = d2.setMapByte x 0 1 := by
      simp [Dev.setMapBit, r2, setFld, fld, b2n]
    rw [hn] at hfc
    have hcg : d.mintCall p i user = (match d0.mintTake p i with
        | (some a, d) => (some a, d)
        | (none, d) => (none, d.mintEmpty p i)) := by
      simp [Dev.mintCall, hd0, hp0, hv, hu] <;> rfl
    rw [hcg]
    simp [Dev.mintTake, hp0, hf, hfc, hset, hw, hn, y]
  · simp [Dev.pool, Dev.setPool, Tab.get, y, hx]

/-- A range of the page whose bytes are known is read. -/
theorem read_bytes {d : Dev} (m : Mapped d) {a : Agent} (ha : a.ctx = 0) (u : Bool) {dva n : Nat} (h : pageOk d dva n = true) {bs : List Byte}
    (hb : (piecesOf dva n).flatMap (fun p => lineBytes (lineAt d ((0x5000 + p.1) / 128)).data ((0x5000 + p.1) % 128) p.2) = bs) :
    ∃ e, Mapped e ∧ Alike d e ∧ d.agentRead a u dva n = (.ok bs, e) := hb ▸ read_mapped m ha u h

theorem lineAt_alike {d e : Dev} (h : Alike d e) (l : Nat) : lineAt e l = lineAt d l := by
  have hm : e.mem = d.mem := by rw [h]
  simp [lineAt, hm]

/-- Lines other than `L` are as before. -/
theorem pageOk_but {d e : Dev} {L dva n : Nat} (k : ∀ l, l ≠ L → Tab.get? e.mem.vault l = Tab.get? d.mem.vault l)
    (h : (pageOk d dva n && (piecesOf dva n).all (fun p => (0x5000 + p.1) / 128 != L)) = true) : pageOk e dva n = true := by
  simp only [pageOk, Bool.and_eq_true, List.all_eq_true] at *
  intro p hp
  rw [k _ (by simpa using h.2 p hp)]
  exact h.1 p hp

/-! ### The witnesses -/

theorem witness_StepRunsTheFrontCommand : { blockOf demo with pending := [.epochBoundary 0] }.pending = .epochBoundary 0 :: [] := rfl

theorem witness_IntegerInstructionsWriteTheirResult :
    Resident (devOf core2) 0 ∧ ∀ row ∈ integerRows, Issues (devOf core2) (issue (word row.1 63 1 2 2 0)) row.1 :=
  ⟨core2_resident, issues_rows core2_can (f := fun o => word o 63 1 2 2 0) (by decide +kernel)⟩

theorem witness_FloatingPointInstructionsWriteTheirResult :
    Resident (devOf core2) 0 ∧ (∀ row ∈ floatRows, Issues (devOf core2) (issue (word row.1 0 1 2 2 0x2000)) row.1) ∧
    ∀ row ∈ transRows, Issues (devOf core2) (issue (word row.1 0 1 0 0 0x2000)) row.1 :=
  ⟨core2_resident, issues_rows core2_can (f := fun o => word o 0 1 2 2 0x2000) (by decide +kernel),
   issues_rows core2_can (f := fun o => word o 0 1 0 0 0x2000) (by decide +kernel)⟩

/-- A word of each instruction that moves. -/
def moveWord (o : Nat) : BitVec 64 :=
  if o = 0x33 then word o 0xC0 0xC0 0xC1 0xC2 0xE8
  else if o = 0x39 then word o 0 0xC0 0 0 0
  else if o = 0x3A then word o 0xBF 0xCF 0 0 0
  else word o 0 1 2 (if o = 0x31 then 0xC2 else 0) 0

theorem witness_MovesAndConversionsWriteTheirResult :
    (Resident (devOf core2) 0 ∧ ∀ row ∈ moveRows, Issues (devOf core2) (issue (moveWord row.1)) row.1) ∧
    (tyFloat (fld 0 7 4) = false ∧ tyFloat 6 = false ∧ bitOf 0 2 = false) ∧
    (tyFloat (fld 0x64 7 4) = false ∧ tyFloat 1 = false ∧ bitOf 0x64 2 = true) ∧
    (tyFloat (fld 0x20 7 4) = true ∧ tyFloat 5 = false ∧ (tyFmt (fld 0x20 7 4)).decode 0x7F800001 = .nan) ∧
    (tyFloat (fld 0x30 7 4) = true ∧ tyFloat 2 = true ∧ (tyFmt (fld 0x30 7 4)).decode (0xABCD7E00 % 2 ^ 16) = .nan) :=
  ⟨⟨core2_resident, issues_rows core2_can (f := moveWord) (by decide +kernel)⟩, by decide +kernel⟩

theorem witness_CompareAndNopHaveOnlyTheirEffect :
    Resident (devOf core2) 0 ∧ Issues (devOf core2) (issue (word 0x30 0xC0 1 2 0 0x12)) 0x30 ∧
    Issues (devOf core2) (issue (word 0 0 0 0 0 0)) 0 :=
  ⟨core2_resident, issues_of core2_can (by decide +kernel), issues_of core2_can (by decide +kernel)⟩

/-- A word of each instruction that accesses memory, SRCA = w2, of 4 bytes. -/
def memWord (o : Nat) : BitVec 64 := word o (if o = 0x4A ∨ o = 0x52 then 0xFF else 0) 2 0x20 0 0

theorem witness_IllegalAndMisalignedInstructionsFault :
    (let d := devOf core2
     let st := ready [(0, 0), (1, 0)]
     d.strand? 0 0 = some st ∧ d.canIssue 0 st = true ∧ d.fetchFail 0 st = none ∧
     d.mxHazard 0 st (word 0x04 0 1 2 0 0x2000) = false ∧ illegal 64 (word 0x04 0 1 2 0 0x2000) = some 2 ∧
     d.mxHazard 0 st (word 0x04 64 1 2 0 0) = false ∧ illegal 64 (word 0x04 64 1 2 0 0) = some 3 ∧
     d.mxHazard 0 st (word 0x0B 0 0 0 0 0) = false ∧ opcodeDefined 0x0B = false) ∧
    (Resident (devOf core1) 0 ∧ ((devOf core1).core 0).ops = [] ∧
     (∀ row ∈ memoryRows, Issues (devOf core1) (issue (memWord row.1)) row.1) ∧
     (memoryRows.map (·.1)).all (fun o => (actives (devOf core1) (issue (memWord o)) (ready [(0, 0)])).any (fun e =>
       (accessOf (devOf core1) (issue (memWord o)) e).2.2 % (accessOf (devOf core1) (issue (memWord o)) e).2.1 != 0)) = true) :=
  ⟨by decide +kernel, core1_resident, rfl, issues_rows core1_can (f := memWord) (by decide +kernel), by decide +kernel⟩

/-- A word of each branch, guarded by p0. -/
def branchWord (o : Nat) : BitVec 64 := wordIf 0 o 2 2 0 0 0

theorem witness_BranchesSplitTheStrandOrDeferLanes :
    (Resident (devOf coreTwo) 0 ∧ Numbered (devOf coreTwo) 0 ∧ (∀ row ∈ branchRows, Issues (devOf coreTwo) (issue (branchWord row.1)) row.1) ∧
     (devOf coreTwo).inRegion 0 (ready [(0, 0)]) = false ∧
     ((devOf coreTwo).arrive 0 0 (branchWord 0x42)).strand? 0 1 = some (ready [(1, 0)]) ∧
     actives (devOf coreTwo) (issue (branchWord 0x42)) (ready [(0, 0)]) = [(0, 0)] ∧ dstOf (branchWord 0x42) < 0x80) ∧
    (Resident (devOf (coreMx [])) 0 ∧ (∀ row ∈ branchRows, Issues (devOf (coreMx [])) (issue (branchWord row.1)) row.1) ∧
     (devOf (coreMx [])).inRegion 0 (ready [(0, 0), (1, 0)]) = true ∧
     (∃ e ∈ (ready [(0, 0), (1, 0)]).lanes, nextOf (devOf (coreMx [])) (issue (branchWord 0x41)) (ready [(0, 0), (1, 0)]) e ≠
       nextOf (devOf (coreMx [])) (issue (branchWord 0x41)) (ready [(0, 0), (1, 0)]) (0, 0)) ∧
     (∀ e ∈ (ready [(0, 0), (1, 0)]).lanes, nextOf (devOf (coreMx [])) (issue (word 0x40 0 0 0 0 4)) (ready [(0, 0), (1, 0)]) e =
       nextOf (devOf (coreMx [])) (issue (word 0x40 0 0 0 0 4)) (ready [(0, 0), (1, 0)]) (0, 0))) :=
  ⟨⟨coreTwo_resident, numbered_of (by decide +kernel), issues_rows coreTwo_can (f := branchWord) (by decide +kernel), by decide +kernel⟩,
   mx_resident [], issues_rows mx_can (f := branchWord) (by decide +kernel), by decide +kernel⟩

theorem witness_JoinMergesLanes :
    (Issues (devOf (coreMx [entry true])) (issue (word 0x44 0 7 0 0 0)) 0x44 ∧ Resident (devOf (coreMx [entry true])) 0 ∧
     (devOf (coreMx [entry true])).inRegion 0 (ready [(0, 0), (1, 0)]) = true ∧ (ready [(0, 0), (1, 0)]).lanes ≠ [] ∧
     (∀ e ∈ (ready [(0, 0), (1, 0)]).lanes, e.1 < 32) ∧ MaskOf 3 (ready [(0, 0), (1, 0)]).lanes) ∧
    (Issues (devOf core2) (issue (word 0x44 0 7 0 0 0)) 0x44 ∧ Resident (devOf core2) 0 ∧
     (devOf core2).inRegion 0 (ready [(0, 0), (1, 0)]) = false) ∧
    (let s := blockOf (devOf (coreOf [(0, someRegs)] [(0, { ready [(0, 0)] with wait := .join })]))
     s.dev.strand? 0 0 = some { ready [(0, 0)] with wait := .join } ∧ s.dev.running = true ∧ (s.dev.core 0).stopped = false) :=
  ⟨⟨issues_of mx1_can (by decide +kernel), mx_resident _, rfl, by decide, by decide, maskOf_of (by decide +kernel)⟩,
   ⟨issues_of core2_can (by decide +kernel), core2_resident, rfl⟩, by decide +kernel⟩

theorem witness_GroupsSynchroniseAndHoldMatrixSlots :
    (∀ o ∈ [0x4B, 0x46], Issues (devOf (coreMx [])) (issue (word o 0 0 0 0 0)) o ∧ Issues (devOf coreTwo) (issue (word o 0 0 0 0 0)) o ∧
      Issues (devOf core1) (issue (word o 0 0 0 0 0)) o) ∧
    (devOf (coreMx [])).inRegion 0 (ready [(0, 0), (1, 0)]) = true ∧
    (Numbered (devOf coreTwo) 0 ∧ (devOf coreTwo).inRegion 0 (ready [(0, 0)]) = false ∧
     ∀ g ∈ (ready [(0, 0)]).slots, ∃ x ∈ ((devOf coreTwo).arrive 0 0 (word 0x46 0 0 0 0 0)).strandsOf 0 g,
       x.1 ≠ 0 ∧ isGsync x.2.wait = false) ∧
    (Numbered (devOf core1) 0 ∧ ((devOf core1).arrive 0 0 (word 0x46 0 0 0 0 0)).strandsOf 0 0 = [(0, ready [(0, 0)])] ∧
     Tab.wf (ready [(0, 0)]).lanes = true ∧ (∀ e ∈ (ready [(0, 0)]).lanes, e.2 = 0) ∧
     Tab.wf ((devOf core1).core 0).strands = true ∧ ((devOf core1).core 0).slotWait = [] ∧
     ((devOf core1).core 0).freeSlot = some 0 ∧
     ({ core1 with slots := [(0, MxSlot.empty), (1, MxSlot.empty), (2, MxSlot.empty), (3, MxSlot.empty)] } : Core).freeSlot = none) ∧
    (let s := blockOf (devOf { core1 with slotWait := [0] })
     s.dev.running = true ∧ (s.dev.core 0).stopped = false ∧ (s.dev.core 0).slotWait = 0 :: [] ∧
     (s.dev.core 0).freeSlot = some 0 ∧ Tab.has (s.dev.core 0).groups 0 = true) ∧
    (Issues (devOf (coreMx [])) (issue (word 0x47 0 0 0 0 0)) 0x47 ∧ Resident (devOf (coreMx [])) 0 ∧
     Issues (devOf (coreMx [entry true])) (issue (word 0x47 0 0 0 0 0)) 0x47 ∧
     (regionGroup (devOf (coreMx [entry true])) 0 (ready [(0, 0), (1, 0)])).stack ≠ [] ∧
     (regionGroup (devOf (coreMx [])) 0 (ready [(0, 0), (1, 0)])).stack = [] ∧
     ((devOf (coreMx [])).core 0).mxAll.any (fun m => m.group == (ready [(0, 0), (1, 0)]).slots.headD 0) = false ∧
     ∀ x ∈ ((devOf (coreMx [])).core 0).strands, x.2.wait ≠ .mxEnd) := by
  refine ⟨fun o m => ?_, by decide +kernel, ⟨numbered_of (by decide +kernel), by decide +kernel⟩,
    ⟨numbered_of (by decide +kernel), by decide +kernel⟩, by decide +kernel, issues_of mx_can (by decide +kernel), mx_resident _,
    issues_of mx1_can (by decide +kernel), by decide +kernel⟩
  have h : legal (word o 0 0 0 0 0) o = true := by
    simp only [List.mem_cons, List.not_mem_nil, or_false] at m
    obtain rfl | rfl := m <;> decide +kernel
  exact ⟨issues_of mx_can h, issues_of coreTwo_can h, issues_of core1_can h⟩

theorem witness_ThreadsExitAndInterlock :
    (Issues (devOf core2) (issue (wordIf 0 0x45 0 0 0 0 0)) 0x45 ∧ Resident (devOf core2) 0 ∧ Numbered (devOf core2) 0 ∧
     Tab.wf ((devOf core2).core 0).strands = true ∧
     (∃ e ∈ (ready [(0, 0), (1, 0)]).lanes, e ∉ actives (devOf core2) (issue (wordIf 0 0x45 0 0 0 0 0)) (ready [(0, 0), (1, 0)])) ∧
     ∀ e ∈ (ready [(0, 0), (1, 0)]).lanes, e.2 ∉ ((devOf core2).core 0).slotWait) ∧
    (let d := devOf core1
     Issues d (issue (word 0x45 0 0 0 0 0)) 0x45 ∧ Numbered d 0 ∧
     d.inRegion 0 (ready [(0, 0)]) = false ∧ (ready [(0, 0)]).lanes = actives d (issue (word 0x45 0 0 0 0 0)) (ready [(0, 0)]) ∧
     (d.arrive 0 0 (word 0x45 0 0 0 0 0)).strandsOf 0 0 = [(0, ready [(0, 0)])] ∧ (∀ e ∈ (ready [(0, 0)]).lanes, e.2 = 0) ∧
     (d.group 0 0).stack = []) ∧
    (let d := devOf (coreMx [entry true])
     let st := ready [(0, 0), (1, 0)]
     Issues d (issue (word 0x45 0 0 0 0 0)) 0x45 ∧ d.inRegion 0 st = true ∧ st.lanes = actives d (issue (word 0x45 0 0 0 0 0)) st ∧
     (d.core 0).mxAll.any (fun m => m.group == st.slots.headD 0) = false ∧ (∀ e ∈ st.lanes, e.2 = st.slots.headD 0) ∧
     (regionGroup d 0 st).stack = entry true :: [] ∧ (regionExit (entry true)).1 = some 32 ∧ (regionExit (entry true)).2 ≠ 0) ∧
    (Issues (devOf core1) (issue (word 0x6E 0xFF 0xFF 0xFF 0xFF 0)) 0x6E ∧ (devOf core1).isPixel 0 0 = false ∧
     Issues (devOf core1) (issue (word 0x6F 0xFF 0xFF 0xFF 0xFF 0)) 0x6F) ∧
    (∀ blocked, Issues (devPx (corePx 0 blocked)) (issue (word 0x6E 0xFF 0xFF 0xFF 0xFF 0)) 0x6E ∧
      (devPx (corePx 0 blocked)).isPixel 0 0 = true ∧ ((devPx (corePx 0 blocked)).group 0 0).held.getLsbD 0 = false ∧
      (devPx (corePx 0 blocked)).ilkBlocked 0 (0, 0) = blocked ∧
      actives (devPx (corePx 0 blocked)) (issue (word 0x6E 0xFF 0xFF 0xFF 0xFF 0)) (ready [(0, 0)]) = [(0, 0)]) ∧
    (let st : Strand := { ready [(0, 0)] with wait := .op (word 0x6E 0xFF 0xFF 0xFF 0xFF 0) [0] [] }
     let d := devPx { corePx 0 true with strands := [(0, st)] }
     d.running = true ∧ (d.core 0).stopped = false ∧ d.strand? 0 0 = some st ∧ opcOf (word 0x6E 0xFF 0xFF 0xFF 0xFF 0) = 0x6E ∧
     d.ilkBlocked 0 (0, 0) = true ∧ (devPx { corePx 0 false with strands := [(0, st)] }).ilkBlocked 0 (0, 0) = false) ∧
    (Issues (devPx (corePx 1 false)) (issue (word 0x6F 0xFF 0xFF 0xFF 0xFF 0)) 0x6F ∧ Resident (devPx (corePx 1 false)) 0 ∧
     (devPx (corePx 1 false)).isPixel 0 0 = true ∧ ((devPx (corePx 1 false)).group 0 0).held.getLsbD 0 = true ∧
     ((devPx (corePx 1 false)).core 0).ops = []) := by
  refine ⟨⟨issues_of core2_can (by decide +kernel), core2_resident, numbered_of (by decide +kernel), by decide +kernel⟩,
    ⟨issues_of core1_can (by decide +kernel), numbered_of (by decide +kernel), by decide +kernel⟩,
    ⟨issues_of mx1_can (by decide +kernel), by decide +kernel⟩,
    ⟨issues_of core1_can (by decide +kernel), by decide +kernel, issues_of core1_can (by decide +kernel)⟩,
    fun b => ?_, by decide +kernel,
    ⟨ready [(0, 0)], by decide +kernel⟩, px_resident _ _, by decide +kernel⟩
  cases b <;> exact ⟨⟨ready [(0, 0)], by decide +kernel⟩, by decide +kernel⟩

/-- A word of each matrix instruction that takes its operands from registers: 8-bit rows, a 32-bit accumulator. -/
def mxWord (o : Nat) : BitVec 64 :=
  word o (if o = 0x71 then 0 else 0xFF) (if o = 0x70 then 2 else 0xFF) 0xFF 0xFF (if o = 0x70 then 0x0008 else if o = 0x71 then 0xC040 else 0)

/-- A queued or running matrix instruction of slot 0 and group 0, with one row. -/
def mxInsn (o : Nat) : MxInsn :=
  { seq := 0, word := mxWord o, slot := 0, group := 0, mask := 1, pc := 0, rows := [(0, .value 3)], scales := [] }

theorem witness_MatrixInstructionsAreQueuedAndRun :
    ((∀ row ∈ matrixRows, Issues (devOf core2) (issue (mxWord row.1)) row.1) ∧ (devOf core2).inRegion 0 (ready [(0, 0), (1, 0)]) = false) ∧
    ((∀ row ∈ matrixRows, Issues (devOf (coreMx [])) (issue (mxWord row.1)) row.1) ∧ Resident (devOf (coreMx [])) 0 ∧
     (devOf (coreMx [])).inRegion 0 (ready [(0, 0), (1, 0)]) = true ∧ ((devOf (coreMx [])).core 0).mxQueue.length < 8 ∧
     (matrixRows.map (·.1)).all (fun o => opcOf (mxWord o) == 0x72 || opcOf (mxWord o) == 0x73 ||
       opcOf (mxWord o) == 0x70 && (subOf (mxWord o)).testBit 3 ||
       opcOf (mxWord o) == 0x71 && (subOf (mxWord o)).testBit 6 && !(subOf (mxWord o)).testBit 11 &&
         decide (dstOf (mxWord o) + mstBytes (subOf (mxWord o)) none / 4 + ceilDiv (mstScaleBytes (subOf (mxWord o)) none) 4 ≤
           (devOf (coreMx [])).strandRegs 0 (ready [(0, 0), (1, 0)]))) = true) ∧
    (Issues (devOf { coreMx [] with mxQueue := List.replicate 8 (mxInsn 0x73) }) (issue (mxWord 0x73)) 0x73 ∧
     8 ≤ ((devOf { coreMx [] with mxQueue := List.replicate 8 (mxInsn 0x73) }).core 0).mxQueue.length) ∧
    (let d := devOf { coreMx [] with mxQueue := [mxInsn 0x73] }
     (d.core 0).mxQueue[0]? = some (mxInsn 0x73) ∧ d.running = true ∧ (d.core 0).stopped = false ∧
     (if onMul (mxWord 0x73) then (d.core 0).mxMul else (d.core 0).mxXfer) = none ∧
     (∀ a ∈ (d.core 0).mxQueue.take 0, onMul a.word ≠ onMul (mxWord 0x73)) ∧ (d.core 0).mxRaw (mxInsn 0x73) = false ∧
     d.mxBad 0 (mxInsn 0x73) = false) ∧
    ((let d := devOf { coreMx [] with mxMul := some (mxInsn 0x72) }
      (d.core 0).mxMul = some (mxInsn 0x72) ∧ d.running = true ∧ (d.core 0).stopped = false ∧ (d.core 0).mxWar (mxInsn 0x72) = false ∧
      (Tab.get? (d.core 0).slots 0).isSome = true ∧ (∀ e ∈ (d.core 0).strands, e.2.wait ≠ .mxEnd)) ∧
     (let d := devOf { coreMx [] with mxXfer := some (mxInsn 0x70) }
      (d.core 0).mxXfer = some (mxInsn 0x70) ∧ (d.core 0).mxWar (mxInsn 0x70) = false ∧
      fld (subOf (mxWord 0x70)) 11 8 = fld (subOf (mxWord 0x70)) 15 12 ∧ (subOf (mxWord 0x70)).testBit 3 = true)) :=
  ⟨⟨issues_rows core2_can (f := mxWord) (by decide +kernel), by decide +kernel⟩,
   ⟨issues_rows mx_can (f := mxWord) (by decide +kernel), mx_resident _, by decide +kernel⟩,
   ⟨⟨ready [(0, 0), (1, 0)], by decide +kernel⟩, by decide +kernel⟩, by decide +kernel, by decide +kernel, by decide +kernel⟩

/-- A word of each instruction that accesses memory, SRCA = w2, of 4 bytes; ATOM returns the old value. -/
def memWord' (o : Nat) : BitVec 64 := word o (if o = 0x4A then 0xFF else 8) 2 0x20 0 (if o = 0x52 then 0x200 else 0)

theorem witness_OnchipAccessesTakeEffect :
    (∀ row ∈ memoryRows, Issues (devOf (coreLs 0)) (issue (memWord' row.1)) row.1 ∧ Issues (devOf (coreLs 1)) (issue (memWord' row.1)) row.1) ∧
    (∀ b, Resident (devOf (coreLs b)) 0 ∧ ((devOf (coreLs b)).core 0).ops = [] ∧ TilesOk (devOf (coreLs b))) ∧
    (memoryRows.map (·.1)).all (fun o => [0, 1].all (fun b =>
      let d := devOf (coreLs (BitVec.ofNat 8 b))
      let a := accessOf d (issue (memWord' o)) (0, 0)
      actives d (issue (memWord' o)) (ready [(0, 0)]) == [(0, 0)] && Tab.wf (ready [(0, 0)]).lanes && a.2.2 % a.2.1 == 0 &&
      isOnchip a.2.2 && d.onchipPlace 0 0 a.2.2 a.2.1 a.1.acc.needsW == some (.ls 8) &&
      leNat (d.onchipRead 0 0 4 (.ls 8)) == b)) = true ∧
    ((subOf (memWord' 0x52)).testBit 9 = true ∧ dstOf (memWord' 0x52) < 0x80 ∧ dstOf (memWord' 0x50) < 0x80 ∧ dstOf (memWord' 0x49) < 0xC7) :=
  ⟨fun row m => ⟨issues_rows ls0_can (f := memWord') (by decide +kernel) row m, issues_rows ls1_can (f := memWord') (by decide +kernel) row m⟩,
   fun b => ⟨ls_resident b, rfl, demo_tiles _⟩, by decide +kernel⟩

theorem witness_RetriesAndWatchdogs :
    (let w := memWord' 0x48
     let st : Strand := { ready [(0, 0)] with wait := .backoff w 0 }
     (∀ b, TilesOk (devOf { coreLs b with strands := [(0, st)] })) ∧
     [0, 1].all (fun b =>
       let d := devOf { coreLs (BitVec.ofNat 8 b) with strands := [(0, st)] }
       let a := accessOf d (issue w) (0, 0)
       d.running && !(d.core 0).stopped && (d.core 0).ops.isEmpty && d.strand? 0 0 == some st && opcOf w == 0x48 &&
       d.active 0 st w == [(0, 0)] && Tab.has (d.core 0).groups 0 && a.2.2 % 4 == 0 && isOnchip a.2.2 &&
       d.onchipPlace 0 0 a.2.2 4 true == some (.ls 8) && leNat (d.onchipRead 0 0 4 (.ls 8)) == b) = true) ∧
    (let d := devOf (coreOf [(0, { someRegs with watch := 2000000 })] [(0, ready [(1, 0)]), (1, ready [(0, 0)])])
     d.running = true ∧ (d.core 0).stopped = false ∧ (Tab.get? (d.core 0).groups 0).isSome = true ∧ Tab.wf (d.core 0).strands = true ∧
     (1, ready [(0, 0)]) ∈ (d.core 0).strands ∧ (0, 0) ∈ (ready [(0, 0)]).lanes ∧
     ∀ x ∈ (d.core 0).strands, ∀ e ∈ x.2.lanes, e.2 = 0 → 0 < e.1 ∨ x.1 = 1 ∧ 0 ≤ e.1) :=
  ⟨⟨fun _ _ => rfl, by decide +kernel⟩, by decide +kernel⟩

theorem witness_FencesAndCacheOperations :
    (Issues (devOf core1) (issue (word 0x53 0 0 0 0 0x60)) 0x53 ∧ fld (subOf (word 0x53 0 0 0 0 0x60)) 7 6 = 1 ∧
     Issues (devOf core1) (issue (word 0x53 0 0 0 0 0x80)) 0x53 ∧ fld (subOf (word 0x53 0 0 0 0 0x80)) 5 4 = 0 ∧
     Issues (devOf core1) (issue (word 0x53 0 0 0 0 0xB0)) 0x53 ∧ ((devOf core1).core 0).ops = []) ∧
    (let d := devOf { core1 with ops := [(4, opAt 0x5000 .load false)] }
     Issues d (issue (word 0x53 0 0 0 0 0xB0)) 0x53 ∧ Resident d 0 ∧ fld (subOf (word 0x53 0 0 0 0 0xB0)) 7 6 ≠ 1 ∧
     fld (subOf (word 0x53 0 0 0 0 0xB0)) 5 4 ≠ 0 ∧ (4, opAt 0x5000 .load false) ∈ (d.core 0).ops ∧
     ∃ e ∈ actives d (issue (word 0x53 0 0 0 0 0xB0)) (ready [(0, 0)]), e.2 = (opAt 0x5000 .load false).group) ∧
    ((∀ row ∈ [(0x54, Instr.cflush), (0x55, Instr.cinv)], Issues (devOf (coreLs 0)) (issue (word row.1 0 2 0 0 0)) row.1) ∧
     isOnchip ((devOf (coreLs 0)).laneAddr 0 0 0 (word 0x54 0 2 0 0 0) 0) = true ∧
     ((devOf (coreLs 0)).onchipPlace 0 0 ((devOf (coreLs 0)).laneAddr 0 0 0 (word 0x54 0 2 0 0 0) 0) 1 true).isSome = true) ∧
    (let d := devOf { core1 with l1 := [(160, purseLine .m)] }
     (∀ row ∈ [(0x54, Instr.cflush), (0x55, Instr.cinv)], Issues d (issue (word row.1 0 8 0 0 0)) row.1) ∧
     actives d (issue (word 0x54 0 8 0 0 0)) (ready [(0, 0)]) = [(0, 0)] ∧ d.laneAddr 0 0 0 (word 0x54 0 8 0 0 0) 0 = 0 ∧
     isOnchip 0 = false ∧ ordOf (word 0x54 0 8 0 0 0) % 4 = 0 ∧ (d.core 0).ops = [] ∧
     ((d.arrive 0 0 (word 0x54 0 8 0 0 0)).translate (d.strandCtx 0 (ready [(0, 0)])) 0 .maint).1.toOption = some (0x5000, 0) ∧
     ((d.arrive 0 0 (word 0x54 0 8 0 0 0)).translate (d.strandCtx 0 (ready [(0, 0)])) 0 .maint).2.core 0 =
       (d.arrive 0 0 (word 0x54 0 8 0 0 0)).core 0 ∧ Tab.get? (d.core 0).l1 (0x5000 / 128) = some (purseLine .m)) :=
  ⟨⟨issues_of core1_can (by decide +kernel), by decide +kernel, issues_of core1_can (by decide +kernel), by decide +kernel,
    issues_of core1_can (by decide +kernel), rfl⟩,
   ⟨⟨ready [(0, 0)], by decide +kernel⟩, resident_of (by decide +kernel), by decide +kernel⟩,
   ⟨issues_rows ls0_can (f := fun o => word o 0 2 0 0 0) (by decide +kernel), by decide +kernel⟩,
   issues_rows (st := ready [(0, 0)]) (by decide +kernel) (f := fun o => word o 0 8 0 0 0) (by decide +kernel), by decide +kernel⟩

theorem witness_HomeSlicesServeCoresAndUnits :
    (let d := devMem { core1 with misses := [(160, missOf false)] } [(160, vaultLine)] []
     NewMiss d 0 160 (missOf false) false ∧ d.dirOf 160 = none ∧ DirRoom d 160 ∧ Tab.has (d.core 0).l1 160 = false ∧
     Tab.get? d.mem.vault 160 = some vaultLine) ∧
    (let d := devMem { core1 with misses := [(160, missOf false)] } [(160, vaultLine)] [(160, { way := 0, st := .x 3 })]
     NewMiss d 0 160 (missOf false) false ∧ d.dirOf 160 = some (.x 3)) ∧
    (let d := devMem { core1 with misses := [(160, missOf true)] } [(160, vaultLine)] []
     NewMiss d 0 160 (missOf true) true ∧ (d.sharersOf 160).filter (fun c => c != 0) = [] ∧ DirRoom d 160) ∧
    (let d := devMem { core1 with misses := [(160, missOf true)] } [(160, vaultLine)] [(160, { way := 0, st := .sp [0, 3] })]
     NewMiss d 0 160 (missOf true) true ∧ (d.sharersOf 160).filter (fun c => c != 0) ≠ []) ∧
    (∀ dir ∈ [[], [(160, ({ way := 0, st := .sp [3] } : DirEnt))]],
     let d := devMem { core1 with ops := [(0, opAt 0x5000 (.store 9) true)] } [(160, vaultLine)] dir
     Tab.get? (d.core 0).ops 0 = some (opAt 0x5000 (.store 9) true) ∧ (d.core 0).opClear 0 (opAt 0x5000 (.store 9) true) = true ∧
     Tab.get? d.mem.txns 160 = none ∧ (∀ r ∈ d.mem.resps, ¬ (r.core = 0 ∧ r.op = some 0)) ∧
     (dir = [] → d.sharersOf 160 = []) ∧ (dir ≠ [] → d.sharersOf 160 ≠ [])) ∧
    (let d := devMem core1 [(2 ^ 41 - 1, vaultLine)] []
     d.running = true ∧ Quiet d (2 ^ 41 - 1) ∧ Tab.get? d.mem.vault (2 ^ 41 - 1) = some vaultLine) := by
  unfold NewMiss Quiet
  exact ⟨⟨by decide +kernel, rfl, dirRoom_of rfl, by decide +kernel⟩, by decide +kernel, ⟨by decide +kernel, rfl, dirRoom_of rfl⟩,
    by decide +kernel, by decide +kernel, by decide +kernel⟩

theorem witness_PursesAnswerAndAreAnswered :
    (let x : Txn := opened (.write 3) [0] none
     let d := { devMem { core1 with l1 := [(160, purseLine .m)] } [(160, vaultLine)] [] with mem := { demo.mem with txns := [(160, x)] } }
     d.grantInFlight 0 160 = false ∧ Tab.get? d.mem.txns 160 = some x ∧ Tab.get? (d.core 0).l1 160 = some (purseLine .m) ∧
     x.inv.contains 0 = true ∧ x.req = .write 3) ∧
    (let x : Txn := opened (.read 3) [] (some 0)
     let d := { devOf { core1 with l1 := [(160, purseLine .m)] } with
       mem := { demo.mem with txns := [(160, x)], dir := [(160, { way := 0, st := .x 0 })] } }
     d.grantInFlight 0 160 = false ∧ Tab.get? d.mem.txns 160 = some x ∧ Tab.get? (d.core 0).l1 160 = some (purseLine .m) ∧
     x.fwd = some 0 ∧ (d.dirOf 160).isSome = true) ∧
    (let d := devMem { core1 with leaving := [(160, purseLine .m)] } [(160, vaultLine)] [(160, { way := 0, st := .x 0 })]
     Tab.get? (d.core 0).leaving 160 = some (purseLine .m) ∧ Tab.get? d.mem.vault 160 = some vaultLine ∧ d.dirOf 160 = some (.x 0)) ∧
    (let x : Txn := opened (.write 0) [3] none
     let d := { demo with mem := { demo.mem with txns := [(160, x)] } }
     Tab.get? d.mem.txns 160 = some x ∧ ¬ (x.inv = [] ∧ x.fwd = none ∧ x.wb = none)) ∧
    (let x : Txn := opened (.write 0) [] none
     let d := { devOf { core1 with misses := [(160, missOf true)] } with mem := { demo.mem with txns := [(160, x)] } }
     Tab.get? d.mem.txns 160 = some x ∧ x.inv = [] ∧ x.fwd = none ∧ x.wb = none ∧ x.queue = [] ∧ x.req = .write 0 ∧
     Tab.get? (d.core 0).misses 160 = some (missOf true) ∧ DirRoom d 160) ∧
    (let r : Resp := { core := 0, line := 160, grant := some .e, data := 9, poison := 0, op := none, value := 0 }
     takeResp 0 160 [{ r with core := 3 }, r] = some (r, [{ r with core := 3 }]) ∧ r.core = 0 ∧ r.line = 160 ∧ r.op = none ∧
     r.grant = some .e ∧ ((devOf core1).core 0).ops = [] ∧ Tab.get? ((devOf core1).core 0).l1 160 = none) ∧
    (let r : Resp := { core := 0, line := 160, grant := none, data := 9, poison := 0, op := some 4, value := 9 }
     let w := word 0x50 0 2 0x20 0 0
     let d := devOf { core1 with ops := [(4, opAt 0x5000 .load true)], strands := [(0, { ready [(0, 0)] with wait := .op w [4] [] })] }
     takeResp 0 160 [r] = some (r, []) ∧ (d.core 0).ops = [(4, opAt 0x5000 .load true)] ∧
     (opAt 0x5000 .load true).consumes r.poison = none ∧ (d.core 0).strands = [(0, { ready [(0, 0)] with wait := .op w [4] [] })] ∧
     opcOf w = 0x50 ∧ Tab.has (d.core 0).groups 0 = true ∧ dstOf w < 0x80 ∧ Machine.sizeOf w ≤ 2) :=
  ⟨by decide +kernel, by decide +kernel, by decide +kernel, by decide +kernel,
   ⟨by decide +kernel, by decide +kernel, by decide +kernel, by decide +kernel, by decide +kernel, by decide +kernel, by decide +kernel,
    dirRoom_of rfl⟩, by decide +kernel, by decide +kernel⟩

/-- The demo device with 16 GiB fitted. -/
def fitted : Dev := { demo with mgmt := { demo.mgmt with bring := { demo.mgmt.bring with fitted := 2 ^ 34 } } }

theorem witness_VaultAndMemoryControllersMoveLines :
    (let m : MissReg := { req := 0, attr := 0, waiters := [.grant 3 .e] }
     let d := { demo with mem := { demo.mem with missRegs := [(2 ^ 40 - 1, m)] } }
     Tab.get? d.mem.missRegs (2 ^ 40 - 1) = some m ∧ m.waiters = [.grant 3 .e] ∧ 2 ^ 40 - 1 < 2 ^ 40 ∧
     Tab.get? d.mem.vault (2 ^ 40 - 1) = none ∧ d.heldBudget (d.rqOf m.req).part false = false) ∧
    (let p : Prefetch := { line := 160, req := 0, attr := 0 }
     let d := { demo with mem := { demo.mem with prefetches := [p] } }
     d.mem.prefetches[0]? = some p ∧ p.line < 2 ^ 40 ∧ Tab.has (devMem core1 [(160, vaultLine)] []).mem.vault p.line = true ∧
     d.mem.vault = [] ∧ d.mem.missRegs = [] ∧ d.allocMask p.req ≠ 0) ∧
    (∀ dirty, let d := devMem core1 [(3, { vaultLine with dirty := dirty })] []
     let e := { d with mem := { d.mem with scrub := [(0, 48)] } }
     0 < 64 ∧ e.plan.slices.getLsbD 0 = true ∧ Tab.get e.mem.scrub 0 0 = 48 ∧
     (e.setLines 0 (48 / 16)).find? (fun x => x.2.way == 48 % 16) = some (3, { vaultLine with dirty := dirty })) ∧
    (fitted.dramLineOk (2 ^ 34 / 8 * 7 / 128 - 1) = true ∧ fitted.outerOff = false ∧ fitted.mem.dramLost = false ∧
     Mem.wf fitted.mem.dram = true ∧ 15 < 16 ∧ 0 < fitted.channelBlocks) := by
  decide +kernel

/-- A credit for core 3 on channel 2. -/
def credit : Credit := { dest := 3, chan := 2, credits := 1, requested := false }
/-- SEND to the core that SRCA names on channel 2, and RECV of channel 2. -/
def sendWord (a : Nat) : BitVec 64 := word 0x60 0xFF a 1 0xFF 0x4000
def recvWord (try_ : Bool) : BitVec 64 := word 0x61 8 0xFF 0xFF 0xFF (if try_ then 0x4A00 else 0x4000)
/-- A core whose lane 0 holds `dest` in w2. -/
def coreTo (dest : Nat) (credits : List Credit) : Core :=
  { coreOf [(0, { Group.empty with regs := [(2, BitVec.ofNat 32 dest)] })] [(0, ready [(0, 0)])] with credits := credits }
/-- A core with a channel 2. -/
def coreChan (c : Chan) : Core := { core1 with chans := [(2, c)] }
/-- The demo device with something on its way between cores. -/
def devGrid (c : Core) (m : GridMsg) : Dev := { devOf c with grid := [.request 9 9 9, m] }

theorem witness_MessagesAreSentAndDelivered :
    (Issues (devOf (coreTo 1024 [])) (issue (sendWord 2)) 0x60 ∧ Resident (devOf (coreTo 1024 [])) 0 ∧
     actives (devOf (coreTo 1024 [])) (issue (sendWord 2)) (ready [(0, 0)]) = [(0, 0)] ∧
     (devOf (coreTo 1024 [])).msgTargetOk ((devOf (coreTo 1024 [])).strandPart 0 (ready [(0, 0)])) 1024 = false) ∧
    (let d := devOf (coreTo 3 [credit])
     Issues d (issue (sendWord 2)) 0x60 ∧ d.readW 0 0 0 (srcaOf (sendWord 2)) = 3 ∧ fld (subOf (sendWord 2)) 15 13 = 2 ∧
     d.msgTargetOk (d.strandPart 0 (ready [(0, 0)])) 3 = true ∧ (d.core 0).credit? 3 2 = some credit ∧ 1 ≤ credit.credits) ∧
    (let d := devOf (coreTo 3 [])
     Issues d (issue (sendWord 2)) 0x60 ∧ d.msgTargetOk (d.strandPart 0 (ready [(0, 0)])) 3 = true ∧ (d.core 0).credit? 3 2 = none ∧
     (d.core 0).credits.length < 32) ∧
    (let d := devOf (coreChan { Chan.empty with queue := [{ payload := 7, src := 3 }] })
     Issues d (issue (recvWord false)) 0x61 ∧ actives d (issue (recvWord false)) (ready [(0, 0)]) = [(0, 0)] ∧
     (d.chan 0 2).queue = { payload := 7, src := 3 } :: [] ∧ (d.chan 0 2).recv = [] ∧ (d.chan 0 2).pending = [] ∧
     (subOf (recvWord false)).testBit 11 = false ∧ (subOf (recvWord false)).testBit 7 = false ∧ dstOf (recvWord false) < 0x80) ∧
    (Issues (devOf core1) (issue (recvWord true)) 0x61 ∧ ((devOf core1).chan 0 2).queue = [] ∧ (subOf (recvWord true)).testBit 11 = true ∧
     fld (subOf (recvWord true)) 10 8 ≠ 7 ∧ Issues (devOf core1) (issue (recvWord false)) 0x61 ∧ ((devOf core1).chan 0 2).recv = []) ∧
    ((devGrid core1 (.request 3 0 2)).grid[1]? = some (.request 3 0 2) ∧ 1 ≤ ((devGrid core1 (.request 3 0 2)).chan 0 2).u ∧
     ((devGrid core1 (.request 3 0 2)).chan 0 2).pending = [] ∧
     ((devGrid (coreChan { Chan.empty with granted := [(5, 64)] }) (.request 3 0 2)).chan 0 2).u = 0) ∧
    ((devGrid (coreTo 3 [credit]) (.grant 0 3 2 8)).grid[1]? = some (.grant 0 3 2 8) ∧
     ((devGrid (coreTo 3 [credit]) (.grant 0 3 2 8)).core 0).credit? 3 2 = some credit ∧
     (∀ x ∈ ((devGrid (coreTo 3 [credit]) (.grant 0 3 2 8)).core 0).strands, x.2.wait = .ready) ∧
     ((devGrid core1 (.grant 0 3 2 8)).core 0).credit? 3 2 = none) ∧
    ((devGrid core1 (.message 3 0 2 7)).grid[1]? = some (.message 3 0 2 7) ∧
     (∀ w, .message 3 0 2 w ∉ (devGrid core1 (.message 3 0 2 7)).grid.take 1) ∧ ((devGrid core1 (.message 3 0 2 7)).chan 0 2).recv = []) ∧
    ((devGrid core1 (.giveBack 3 0 2 5)).grid[1]? = some (.giveBack 3 0 2 5) ∧ ((devGrid core1 (.giveBack 3 0 2 5)).chan 0 2).pending = []) := by
  refine ⟨⟨⟨ready [(0, 0)], by decide +kernel⟩, resident_of (by decide +kernel), by decide +kernel⟩,
    ⟨⟨ready [(0, 0)], by decide +kernel⟩, by decide +kernel⟩, ⟨⟨ready [(0, 0)], by decide +kernel⟩, by decide +kernel⟩,
    ⟨⟨ready [(0, 0)], by decide +kernel⟩, by decide +kernel⟩,
    ⟨issues_of core1_can (by decide +kernel), by decide +kernel, by decide +kernel, by decide +kernel,
     issues_of core1_can (by decide +kernel), by decide +kernel⟩, by decide +kernel, by decide +kernel, ⟨by decide +kernel, ?_, by decide +kernel⟩,
    by decide +kernel⟩
  intro w h
  simp [devGrid] at h

/-- The demo device with tally 16383, owned by partition 0. -/
def devTally (c : Core) (x : Tally) : Dev := { devOf c with tly := { demo.tly with tallies := [(16383, x)] } }
def tally : Tally := { value := 5, lost := false, stale := false, owner := some 0, resetGen := 0, lastSrc := 0, moved := false }
/-- A core whose lane 0 holds 16383 in w1. -/
def coreTly : Core := coreOf [(0, { Group.empty with regs := [(1, 16383), (2, 6)] })] [(0, ready [(0, 0)])]
/-- TSIG, TWAIT and TREAD of the tally in w1. -/
def tallyWord (o : Nat) : BitVec 64 := word o (if o = 0x62 then 0xFF else 8) 1 (if o = 0x64 then 0xFF else 2) 0xFF (if o = 0x63 then 0x8000 else 0)

theorem witness_TallyOperationsSetOut :
    (let d := devTally coreTly tally
     (d.tally 16383).owner = some 0 ∧ 16383 < 16384 ∧ d.bound 0 0 = true ∧
     (⟨.trigger 4, 16383, 6⟩ : TallyWaiter).tally = 16383 ∧ tallyMet 6 (⟨.trigger 4, 16383, 6⟩ : TallyWaiter).target = true) ∧
    (∀ p, ((devTally coreTly tally).tally 16383).owner = some p → (devTally coreTly tally).bound 15 p = false) ∧
    (∀ row ∈ [(0x62, Instr.tsig), (0x63, Instr.twait), (0x64, Instr.tread)], Issues (devTally coreTly tally) (issue (tallyWord row.1)) row.1 ∧
      actives (devTally coreTly tally) (issue (tallyWord row.1)) (ready [(0, 0)]) = [(0, 0)]) ∧
    Resident (devTally coreTly tally) 0 ∧
    (devTally coreTly tally).tallyOwned ((devTally coreTly tally).strandPart 0 (ready [(0, 0)])) 16383 = true ∧
    (devTally coreTly { tally with owner := some 3 }).tallyOwned ((devTally coreTly tally).strandPart 0 (ready [(0, 0)])) 16383 = false := by
  refine ⟨by decide +kernel, ?_, fun row m => ⟨issues_rows (st := ready [(0, 0)]) (by decide +kernel) (f := tallyWord) (by decide +kernel) row m, ?_⟩,
    resident_of (by decide +kernel), by decide +kernel⟩
  · intro p h
    have : p = 0 := by simpa [devTally, Dev.tally, Tab.get, Tab.get?, tally] using h.symm
    subst this
    decide +kernel
  · simp only [List.mem_cons, List.not_mem_nil, or_false] at m
    obtain rfl | rfl | rfl := m <;> decide +kernel

/-- The tally device with an operation on its way for strand 0, which waits in `w`. -/
def devTallyOp (w : BitVec 64) (act : TallyAct) (x : Tally) : Dev :=
  let d := devTally { coreTly with strands := [(0, { ready [(0, 0)] with wait := .op w [0] [] })] } x
  { d with tly := { d.tly with ops := [⟨.core 0, 0, 16383, act, .strand 0 0 0, []⟩], wakes := [⟨.core 0 0 0, true⟩] } }

theorem witness_TallyBlockPerformsAndAnswers :
    [(0x62, TallyAct.set 6), (0x63, .wait 5), (0x64, .read false)].all (fun a => [tally, { tally with lost := true }, { tally with value := 4 }].all (fun x =>
      let d := devTallyOp (tallyWord a.1) a.2 x
      d.tly.ops[0]? == some ⟨.core 0, 0, 16383, a.2, .strand 0 0 0, []⟩ && d.released ⟨.core 0, 0, 16383, a.2, .strand 0 0 0, []⟩ &&
      d.tallyOwned 0 16383 && d.strand? 0 0 == some { ready [(0, 0)] with wait := .op (tallyWord a.1) [0] [] })) = true ∧
    (tallyMet tally.value 5 = true ∧ tallyMet (4 : BitVec 64) 5 = false ∧ opcOf (tallyWord 0x62) = 0x62 ∧
     opcOf (tallyWord 0x64) = 0x64 ∧ (subOf (tallyWord 0x64)).testBit 15 = false ∧ dstOf (tallyWord 0x64) < 0x7F) ∧
    (let w := tallyWord 0x63
     let d := devTallyOp w (.wait 5) tally
     opcOf w = 0x63 ∧ d.active 0 { ready [(0, 0)] with wait := .op w [0] [] } w = [(0, 0)] ∧ Tab.has (d.core 0).groups 0 = true ∧
     dstOf w < 0xC7 ∧ d.tly.wakes[0]? = some ⟨.core 0 0 0, true⟩ ∧ fld (subOf w) 15 12 ≠ 0) := by
  decide +kernel

/-- A loaded pool of 8 objects of 64 bytes at DVA 0x100, its bitmap at 0x200, and one with no free object. -/
def pool (free : Nat) : Pool :=
  { Pool.none with valid := true, users := 7, sizeLog2 := 6, count := 8, metaDva := 0x200, base := 0x100, free := free }
def devPool (c : Core) (x : Pool) (q : MintReq) : Dev := { devOf c with mint := { pools := [(0, x)], calls := [q] } }
/-- A call of lane 0 that waits, and one that frees address `a`. -/
def callOf (free : Option Nat) : MintReq :=
  { part := 0, pool := 0, core := 0, strand := 0, lanes := if free.isSome then [] else [0], free := free, after := [] }
def mallocWord : BitVec 64 := word 0x66 8 0xFF 0xFF 0xFF 0
def coreMalloc : Core := { core1 with strands := [(0, { ready [(0, 0)] with wait := .op mallocWord [0] [] })] }

theorem witness_MintCallsAreQueuedAndServed :
    (Issues (devOf core2) (issue mallocWord) 0x66 ∧ Resident (devOf core2) 0 ∧
     actives (devOf core2) (issue mallocWord) (ready [(0, 0), (1, 0)]) ≠ [] ∧
     Issues (devOf core2) (issue (wordIf 1 0x66 8 0xFF 0xFF 0xFF 0)) 0x66 ∧
     actives (devOf core2) (issue (wordIf 1 0x66 8 0xFF 0xFF 0xFF 0)) (ready [(0, 0), (1, 0)]) = [] ∧
     Issues (devOf core2) (issue (word 0x67 0xFF 8 0xFF 0xFF 0)) 0x67) ∧
    (∀ q ∈ [callOf none, callOf (some 0x100), callOf (some 0x101)],
      (devPool coreMalloc (pool 1) q).mint.calls[0]? = some q ∧ (devPool coreMalloc (pool 1) q).running = true ∧
      (∀ x ∈ (devPool coreMalloc (pool 1) q).mint.calls.take 0, ¬ (x.part = q.part ∧ x.pool = q.pool)) ∧
      (∀ id ∈ q.after, Tab.has ((devPool coreMalloc (pool 1) q).core q.core).ops id = false) ∧
      ((devPool coreMalloc (pool 1) q).pool 0 0).valid = true ∧ ((devPool coreMalloc (pool 1) q).pool 0 0).users.testBit 0 = true) ∧
    ((0x101 - 0x100) % 2 ^ (pool 1).sizeLog2 ≠ 0 ∧ (0x100 : Nat) = (pool 1).base + 0 * 2 ^ (pool 1).sizeLog2 ∧ 0 < (pool 1).count) ∧
    (let d := { devPool coreMalloc (pool 7) (callOf (some 0x100)) with mem := { demo.mem with dram := tables ++ [(0x5200, 1)] } }
     ((({ d with mint := { d.mint with calls := [] } }).countGlobal 3 1).mapBit (pool 7) 0).1 = true) ∧
    (let d := devPool coreMalloc (pool 1) (callOf none)
     (callOf none).free = none ∧ (callOf none).lanes = [0] ∧
     d.strand? 0 0 = some { ready [(0, 0)] with wait := .op mallocWord [0] [] } ∧ opcOf mallocWord = 0x66 ∧
     Tab.has (d.core 0).groups 0 = true ∧ 0 < (pool 1).free ∧ (pool 1).cursor < (pool 1).count ∧ (pool 0).free = 0 ∧
     ((({ d with mint := { d.mint with calls := [] } }).countGlobal 3 1).mapBit (pool 1) 0).1 = false ∧ Still d) := by
  unfold Still
  exact ⟨⟨issues_of core2_can (by decide +kernel), core2_resident, by decide +kernel,
    issues_of core2_can (by decide +kernel), by decide +kernel, issues_of core2_can (by decide +kernel)⟩,
    by decide +kernel, by decide +kernel, by decide +kernel, by decide +kernel⟩

/-- The demo device whose page 0 is host memory at the base of the host's region. -/
def devHost (c : Cmd) : Dev :=
  { devCmd c with mem := { demo.mem with dram := [(0x1000, 0x01), (0x1001, 0x20), (0x2000, 0x01), (0x2001, 0x30), (0x3000, 0x01), (0x3001, 0x40),
      (0x4000, 0x1B), (0x4005, 0x80)] } }

theorem witness_InvalidationsFaultRecordsAndFailedReads :
    ([(0, 5), (1, 0), (2, 0), (0, 0)].all (fun e =>
       (2 ^ 31 + e.1 * 2 ^ 24 + e.2).testBit 31 && (2 ^ 31 + e.1 * 2 ^ 24 + e.2) / 2 ^ 24 % 4 == e.1) = true ∧
     demo.mmu.invBusy = false ∧ { demo.mmu with invBusy := true }.invBusy = true) ∧
    (∀ mode, mode ∈ [0, 1, 2, 3] → let o : InvOp := { mode := mode, ctx := 0, page := 0, pages := 1, regs := true, cmd := none }
     let d := { devOf core1 with mmu := { demo.mmu with invs := [o], tlb := [⟨0, 0, 0, 0x501B⟩, ⟨3, 0, 0, 0x501B⟩] } }
     d.mmu.invs[0]? = some o ∧ o.regs = true ∧ o.cmd = none ∧ d.invWaits o = false) ∧
    ((255 < 256 ∧ (2 ^ 63).testBit 63 = true) ∧ demo.ownsCtx 3 0 = false ∧ demo.ownsCtx 0 0 = true) ∧
    (let h := devHost (cmdOf 0x10 .started [])
     let x : Ring := { ring [] with tail := 1 }
     let d := { withRings h [(0, x)] with mem := { h.mem with refused := [2 ^ 40] } }
     d.running = true ∧ d.feOk 0 0 = true ∧ d.ring 0 0 = x ∧ x.st = .active ∧ x.kind = false ∧ x.cmds = [] ∧ x.head ≠ x.tail ∧
     (d.xlate (feAgent 0 x.ctx) 0 .read).1.toOption = some (2 ^ 47, 0) ∧
     (d.xlate (feAgent 0 x.ctx) 0 .read).2.hostRefuses 0 (2 ^ 47 / 128) = true) ∧
    (let m : MissReg := { req := 0, attr := 0, waiters := [.op 0 4] }
     let d := { devOf { core1 with ops := [(4, opAt (2 ^ 47) .load true)] } with mem := { demo.mem with missRegs := [(2 ^ 40, m)] } }
     d.running = true ∧ Tab.get? d.mem.missRegs (2 ^ 40) = some m ∧ Tab.get? (d.core 0).ops 4 = some (opAt (2 ^ 47) .load true)) := by
  decide +kernel

theorem witness_RangeMaintenance :
    ([1, 2, 3, 4].all (fun o => (2 ^ 31 + 36 * 256 + o).testBit 31 && (2 ^ 31 + 36 * 256 + o) % 8 == o && (2 ^ 31 + 36 * 256 + o) / 256 % 64 ≤ 36) = true ∧
     demo.mem.maintBusy = false ∧ demo.mem.maintLen = 0 ∧ { demo.mem with maintLen := 2 ^ 24 - 1 }.maintLen ≠ 0) ∧
    (∀ op ∈ [1, 2, 3], ∀ left ∈ [1, 2], ∀ dva ∈ [0, 0x1000],
     let m : MaintOp := { who := .regs, op := op, ctx := 0, dva := dva, left := left, req := 0, done := 0, conflicts := 0 }
     let d := { demo with mem := { demo.mem with maints := [m], maintBusy := true } }
     d.mem.maints[0]? = some m ∧ d.running = true ∧ 1 ≤ m.op ∧ m.op < 4 ∧ m.who = .regs ∧
     (d.xlate { rq := d.maintRq m, unit := 9, index := 0, ctx := m.ctx } m.dva .maint).1.isOk = (dva == 0)) := by
  decide +kernel

/-- The demo device whose function 0 reaches context 0 by its window. -/
def devWin : Dev := withRings (devPage [(0, 7)]) []

theorem maps_of {d : Dev} (m : Mapped d) {dva : Nat} (h : dva < 4096) (k : Acc) : Maps d 0 dva k (0x5000 + dva) 0 := by
  obtain ⟨e, -, a, x⟩ := translate_mapped m h k
  exact ⟨e, x, a⟩

theorem devWin_mapped : Mapped devWin := devPage_mapped _ _

theorem witness_HostAccessesOfWindowsAndRegisters :
    ((15 < 16 ∧ 1 ≤ 4 ∧ 124 % 128 + 4 ≤ 128 ∧ ([1, 2, 3, 4] : List Byte).length = 4 ∧ demo.mgmt.bring.wild = false) ∧
     { demo with funcs := [(15, { Func.reset 15 with d3hot := true })] }.hostOk 15 = false ∧ demo.hostOk 15 = true ∧
     ¬ WindowReaches demo 15 124) ∧
    (devWin.hostOk 0 = true ∧ WindowReaches devWin 0 124 ∧ 0x507C < 2 ^ 47 ∧ 0x507C % 128 = 124 % 128 ∧ Quiet devWin (0x507C / 128) ∧
     Tab.get? devWin.mem.vault (0x507C / 128) = some { vaultLine with data := 7 } ∧ Maps devWin (devWin.func 0).winCtx 124 .read 0x507C 0 ∧
     vaultLine.poison = 0 ∧ Maps (devWin.countGlobal 12 4) (devWin.func 0).winCtx 124 .write 0x507C 0) ∧
    (demo.ownsCtx 0 0 = true ∧ demo.ownsCtx 15 0 = false ∧ 2559 < (demo.func 15).tagCount ∧ (demo.func 15).tagCount ≤ 2560 ∧
     (2 ^ 63).testBit 63 = true) ∧
    (demo.clocked = true ∧ demo.mgmt.bring.st ≠ .romStart ∧ demo.regAt 0 0x40000 = none ∧
     (∃ r, demo.regAt 0 0x4000 = some r ∧ ¬ (r.start = 0x4000 ∧ r.width = 4))) ∧
    ((demo.ring 0 15).en = false ∧ (devCmd (cmdOf 0 .started [])).hostOk 0 = true ∧ ((devCmd (cmdOf 0 .started [])).ring 0 0).en = true) ∧
    (({ demo with mgmt := { demo.mgmt with vfEnable := false } } : Dev).hostOk 0 = true ∧ demo.mgmt.vfEnable = true) := by
  unfold WindowReaches Quiet
  exact ⟨by decide +kernel, ⟨by decide +kernel, by decide +kernel, by decide, by decide, by decide +kernel, by decide +kernel,
    maps_of devWin_mapped (by decide) _, by decide +kernel,
    maps_of (devWin_mapped.alike (count_alike _ _ _) (by intro t h; cases h)) (by decide) _⟩, by decide +kernel,
    ⟨by decide +kernel, by decide +kernel, by decide +kernel, (demo.regAt 0 0x4000).getD ⟨0, 0, 0⟩, by decide +kernel⟩,
    by decide +kernel, by decide +kernel⟩

theorem witness_RingsAreEnabledAndDisabled :
    ((2 ^ 31 + 16).testBit 31 = true ∧ (demo.ring 15 15).en = false ∧ (demo.ring 15 15).st ≠ .draining ∧
     demo.ringConfigOk 0 (configured (demo.ring 0 15) (2 ^ 31 + 16)) = true ∧
     demo.ringConfigOk 15 (configured (demo.ring 15 15) (2 ^ 31 + 16)) = false) ∧
    (let x := (withRings demo [(15, ring [cmdOf 1 .running [], cmdOf 1 .fetched []])]).ring 0 15
     x.en = true ∧ configured x (2 ^ 31 + 7) ≠ x ∧ (6 + 256).testBit 31 = false ∧ configured x (6 + 256) = x) ∧
    (let x : Ring := { ring [] with st := .zeroing }
     let d := withRings (devPage [(0, 1), (1, 2), (2, 3), (3, 4), (4, 5)]) [(0, x)]
     d.ring 0 0 = x ∧ d.running = true ∧
     ∃ d1, d.agentWrite (feAgent 0 x.ctx) true (x.base * 4096) (List.replicate (64 + 8 * 2 ^ x.log2n) 0) = (.ok (), d1)) ∧
    (let x : Ring := { ring [] with st := .draining }
     x.st = .draining ∧ x.cmds = []) := by
  refine ⟨by decide +kernel, by decide +kernel, ⟨by decide +kernel, rfl, ?_⟩, rfl, rfl⟩
  obtain ⟨e, -, -, h, -⟩ := write_mapped (devPage_mapped [(0, 1), (1, 2), (2, 3), (3, 4), (4, 5)] [(0, { ring [] with st := .zeroing })])
    (a := feAgent 0 0) rfl true (dva := 0) (bs := List.replicate 576 0) (by decide +kernel)
  exact ⟨e, h⟩

theorem witness_DoorbellsAndFetches :
    ((demo.ring 15 15).st ≠ .active ∧
     (let x := (withRings demo [(15, ring [])]).ring 0 15
      let behind := fun (a b : Nat) => (((a : Int) - b) % (2 ^ 32 : Nat)).toNat
      x.st = .active ∧ x.kind = false ∧ ¬ (1 ≤ behind 0 x.tail ∧ behind 0 x.tail ≤ 2 ^ 31 - 1) ∧
      ¬ (1 ≤ behind (2 ^ 31) x.tail ∧ behind (2 ^ 31) x.tail ≤ 2 ^ 31 - 1) ∧ 1 ≤ behind 64 x.tail ∧ behind 64 x.tail ≤ 2 ^ 31 - 1 ∧
      behind 64 x.head ≤ 2 ^ x.log2n ∧ 1 ≤ behind 65 x.tail ∧ 2 ^ x.log2n < behind 65 x.head)) ∧
    (let x : Ring := { ring [] with kind := true }
     let d := withRings demo [(0, x)]
     d.feOk 0 0 = true ∧ d.ring 0 0 = x ∧ x.st = .active ∧ (∀ c ∈ x.cmds, c.phase ≠ .fetched) ∧ x.kind = true ∧ x.slotEmpty = false) ∧
    (let x : Ring := { ring [] with head := 2 ^ 32 - 1, tail := 0 }
     let d := withRings (devPage [(31, 7)]) [(0, x)]
     d.feOk 0 0 = true ∧ d.ring 0 0 = x ∧ x.tail = (x.head + 1) % 2 ^ 32 ∧ x.tail ≠ x.head ∧
     ∃ bs d1, d.agentRead (feAgent 0 x.ctx) true (x.base * 4096 + 64 * (x.head % 2 ^ x.log2n)) 64 = (.ok bs, d1)) ∧
    (let x : Ring := { ring [] with kind := true, slotIssued := true }
     let d := withRings (devPage [(0, 7)]) [(0, x)]
     d.feOk 0 0 = true ∧ d.ring 0 0 = x ∧ x.slotIssued = true ∧
     ∃ bs d1, (withRing d 0 0 { x with slotIssued := false }).agentRead (feAgent 0 x.ctx) true
       (x.base * 4096 + 64 + 8 * (x.head % 2 ^ x.log2n)) 8 = (.ok bs, d1) ∧ leNat bs = 0) ∧
    (let x : Ring := { ring [] with kind := true, slotIssued := true }
     let d := withRings (devPage [(0, 0x100 * 2 ^ 512), (2, 7)]) [(0, x)]
     d.feOk 0 0 = true ∧
     ∃ bs d1 cs d2 d3 d4, (withRing d 0 0 { x with slotIssued := false }).agentRead (feAgent 0 x.ctx) true
         (x.base * 4096 + 64 + 8 * (x.head % 2 ^ x.log2n)) 8 = (.ok bs, d1) ∧ leNat bs ≠ 0 ∧ (leNat bs).testBit 4 = false ∧
       d1.agentRead (feAgent 0 x.ctx) true (leNat bs / 64 % 2 ^ 42 * 64) 64 = (.ok cs, d2) ∧
       d2.agentWrite (feAgent 0 x.ctx) true (x.base * 4096 + 64 + 8 * (x.head % 2 ^ x.log2n)) (toLe 8 0) = (.ok (), d3) ∧
       d3.agentWrite (feAgent 0 x.ctx) true (x.base * 4096 + 8) (toLe 8 ((x.head + 1) % 2 ^ 32)) = (.ok (), d4)) := by
  refine ⟨by decide +kernel, by decide +kernel, ⟨by decide +kernel, rfl, rfl, by decide, ?_⟩, ⟨by decide +kernel, rfl, rfl, ?_⟩, by decide +kernel, ?_⟩
  · obtain ⟨e, -, -, h⟩ := read_mapped (devPage_mapped [(31, 7)] [(0, { ring [] with head := 2 ^ 32 - 1, tail := 0 })])
      (a := feAgent 0 0) rfl true (dva := 4032) (n := 64) (by decide +kernel)
    exact ⟨_, e, h⟩
  · obtain ⟨e, -, -, h⟩ := read_mapped (d := withRing (withRings (devPage [(0, 7)]) [(0, { ring [] with kind := true, slotIssued := true })]) 0 0
      { ring [] with kind := true }) (devPage_mapped _ _) (a := feAgent 0 0) rfl true (dva := 64) (n := 8) (by decide +kernel)
    exact ⟨_, e, h, by decide +kernel⟩
  · obtain ⟨d1, m1, a1, h1⟩ := read_bytes (d := withRing (withRings (devPage [(0, 0x100 * 2 ^ 512), (2, 7)])
      [(0, { ring [] with kind := true, slotIssued := true })]) 0 0 { ring [] with kind := true }) (devPage_mapped _ _) (a := feAgent 0 0)
      rfl true (dva := 64) (n := 8) (by decide +kernel) (bs := toLe 8 0x100) (by decide +kernel)
    obtain ⟨d2, m2, a2, h2⟩ := read_mapped m1 (a := feAgent 0 0) rfl true (dva := 0x100) (n := 64) (by rw [pageOk_alike a1]; decide +kernel)
    obtain ⟨d3, m3, s3, h3, -, k3⟩ := write_mapped m2 (a := feAgent 0 0) rfl true (dva := 64) (bs := toLe 8 0)
      (by rw [pageOk_alike a2, pageOk_alike a1]; decide +kernel)
    obtain ⟨d4, -, -, h4, -⟩ := write_mapped m3 (a := feAgent 0 0) rfl true (dva := 8) (bs := toLe 8 1)
      (pageOk_keep (by rw [pageOk_alike a2, pageOk_alike a1]; decide +kernel) k3)
    exact ⟨_, d1, _, d2, d3, d4, h1, by decide +kernel, by decide +kernel, h2, h3, h4⟩

theorem witness_CommandsStartAndComplete :
    ([none, some 0].all (fun ctx => [0, 1, 0xFF].all (fun op => [0, 1].all (fun fence =>
       let c : Cmd := { cmdOf op .fetched [(32, fence)] with ctx := ctx }
       let d := devCmd c
       d.feOk 0 0 && (d.ring 0 0).st == .active && decide ((d.ring 0 0).inFlight.length < 8) && (d.ring 0 0).nextCmd == .at 0 &&
       (d.ring 0 0).cmds[0]? == some c && d.cmd? (c.id 0 0) == some c && (d.ring 0 0).before 0 == []))) = true ∧
     (cmdOf 0xFF .fetched []).malformed 0 = true ∧ (cmdOf 1 .fetched []).malformed 0 = false ∧ (cmdOf 0 .fetched []).malformed 0 = false) ∧
    (let c : Cmd := { cmdOf 1 .fetched [(32, 1)] with count := 1 }
     let d := withRings demo [(0, ring [cmdOf 0x10 .running [], c])]
     d.feOk 0 0 = true ∧ (d.ring 0 0).nextCmd = .at 1 ∧ d.cmd? (c.id 0 0) = some c ∧ c.bit 32 = true ∧ (d.ring 0 0).before 1 ≠ []) ∧
    (let c : Cmd := { cmdOf 0x10 .performed [(33, 1)] with status := 9 }
     let d := devHost c
     d.cmd? cid = some c ∧ c.phase = .performed ∧ d.running = true ∧ c.discarded = false ∧ (d.func 0).flr = none ∧ cid.inner = 0 ∧
     c.bit 33 = true ∧ c.bit 34 = false ∧ c.ctx = some 0 ∧ c.f 175 128 % 32 = 0 ∧
     (d.xlate { rq := { id := 36, part := some c.part, func := 0 }, unit := 2, index := 0, ctx := 0 } (c.f 175 128) .write).1.toOption =
       some (2 ^ 47, 0) ∧ d.masterOk 0 = true) ∧
    ((cmdOf 0x10 .performed []).bit 33 = false ∧ (cmdOf 0x10 .performed []).bit 34 = false ∧ (cmdOf 0x10 .performed []).bit 51 = false) ∧
    (let c : Cmd := cmdOf 0x10 .performed [(34, 1), (37, 16383)]
     let d := withRings (devTally core1 tally) [(0, ring [c])]
     d.cmd? cid = some c ∧ c.bit 33 = false ∧ c.bit 34 = true ∧ c.ctx = some 0 ∧ c.f 50 37 = 16383 ∧ d.tallyOwned c.part (c.f 50 37) = true) := by
  decide +kernel

/-- The tally device with the command in ring 0. -/
def devTallyCmd (c : Cmd) (x : Tally) : Dev := withRings (devTally core1 x) [(0, ring [c])]

theorem witness_RingCommandsThatWait :
    ([tally, { tally with lost := true }, { tally with value := 4 }].all (fun x =>
       startedB (devTallyCmd (cmdOf 1 .started [(320, 16383), (256, 5)]) x) cid 1 (cmdOf 1 .started [(320, 16383), (256, 5)]) &&
       (devTallyCmd (cmdOf 1 .started [(320, 16383), (256, 5)]) x).tallyOwned 0 16383) = true ∧
     (cmdOf 1 .started [(320, 16383), (256, 5)]).f 333 320 = 16383 ∧ (cmdOf 1 .started [(320, 16383), (256, 5)]).f 319 256 = 5 ∧
     tallyMet tally.value 5 = true ∧ tallyMet (4 : BitVec 64) 5 = false ∧
     (devCmd (cmdOf 1 .started [(320, 16383), (256, 5)])).tallyOwned 0 16383 = false) ∧
    (let c : Cmd := { cmdOf 1 .running [(336, 2)] with epochs := 2 }
     (devCmd c).cmd? cid = some c ∧ c.op = 1 ∧ c.phase = .running ∧ c.f 351 336 ≠ 0 ∧ c.f 351 336 ≤ c.epochs) ∧
    (let c : Cmd := cmdOf 2 .started [(320, 16383)]
     startedB (devTallyCmd c tally) cid 2 c = true ∧ (devTallyCmd c tally).tallyOwned c.part (c.f 333 320) = true ∧
     (devCmd c).tallyOwned c.part (c.f 333 320) = false) ∧
    ([0, 1, 4096, 4097].all (fun n => startedB (devCmd (cmdOf 8 .started [(320, n)])) cid 8 (cmdOf 8 .started [(320, n)])) = true) ∧
    ([(0, 1, 0), (4, 1, 0), (5, 1, 0), (1, 0, 0), (1, 1, 1), (1, 1, 16)].all (fun e =>
       startedB (devCmd (cmdOf 0x18 .started [(352, e.1), (320, e.2.1), (360, e.2.2)])) cid 0x18
         (cmdOf 0x18 .started [(352, e.1), (320, e.2.1), (360, e.2.2)])) = true) ∧
    [(3, 0), (0, 0), (0, 1), (1, 0), (2, 0)].all (fun e =>
       startedB (devCmd (cmdOf 0x19 .started [(352, e.1), (320, e.2)])) cid 0x19 (cmdOf 0x19 .started [(352, e.1), (320, e.2)])) = true := by
  decide +kernel

/-- The device with lines of page 0 and a command in ring 0. -/
def devPageCmd (lines : Tab Line) (c : Cmd) : Dev := withRings (devPage lines) [(0, ring [c])]
theorem page_mapped (lines : Tab Line) (c : Cmd) : Mapped (devPageCmd lines c) := devPage_mapped _ _

/-- ENQ of a command at DVA 0x100 to ring 1, which is device-written at DVA 0, with objects of 64 bytes from DVA 0x200. -/
def enqCmd : Cmd := cmdOf 9 .started [(256, 0x100), (320, 1)]
def enqPool : Pool := { Pool.none with valid := true, users := 7, sizeLog2 := 6, count := 8, metaDva := 0x400, base := 0x200, free := 8 }
def devEnq : Dev :=
  { withRings (devPage [(0, 0), (2, 7), (4, 9), (8, 0)]) [(0, ring [enqCmd]), (1, { ring [] with kind := true })] with
    mint := { pools := [(0, enqPool)], calls := [] } }
theorem devEnq_mapped : Mapped devEnq :=
  (devPage_mapped [(0, 0), (2, 7), (4, 9), (8, 0)] [(0, ring [enqCmd]), (1, { ring [] with kind := true })]).other (e := devEnq) rfl rfl rfl

theorem witness_RingCommandsOnMemory :
    (let c : Cmd := cmdOf 0x10 .started [(256, 0x100), (320, 0x140), (384, 64)]
     let d := devPageCmd [(2, 7)] c
     Started d cid 0x10 c ∧ c.f 303 256 + c.f 415 384 ≤ c.f 367 320 ∧
     ∃ bs d1 d2, d.agentRead (d.cmdAgent c 0) true (c.f 303 256) (c.f 415 384) = (.ok bs, d1) ∧
       d1.agentWrite (d.cmdAgent c 0) true (c.f 367 320) bs = (.ok (), d2)) ∧
    (let c : Cmd := cmdOf 0x10 .started [(256, 0x100), (320, 0x101), (384, 64)]
     let d := devPageCmd [(2, 7)] c
     Started d cid 0x10 c ∧ c.f 303 256 < c.f 367 320 + c.f 415 384 ∧ c.f 367 320 < c.f 303 256 + c.f 415 384 ∧
     ∃ bs d1, d.agentRead (d.cmdAgent c 0) true (c.f 303 256) (c.f 415 384) = (.ok bs, d1)) ∧
    (let c : Cmd := cmdOf 0x11 .started [(320, 0x101), (384, 7), (448, 5)]
     let d := devPageCmd [(2, 7)] c
     Started d cid 0x11 c ∧ ∃ d1, d.agentWrite (d.cmdAgent c 0) true 0x101
       ((List.range 7).map (fun k => BitVec.ofNat 8 (c.f 511 448 / 2 ^ (8 * ((0x101 + k) % 8))))) = (.ok (), d1)) ∧
    (Started (devCmd enqCmd) cid 9 enqCmd ∧ ((devCmd enqCmd).ring 0 1).en = false) ∧
    (let d := withRings demo [(0, ring [enqCmd]), (1, { ring [] with kind := true })]
     Started d cid 9 enqCmd ∧ enqCmd.f 303 256 % 64 = 0 ∧ (d.ring 0 1).en = true ∧ (d.ring 0 1).kind = true ∧ (d.ring 0 1).st = .active ∧
     (d.ctx (d.ring 0 1).ctx).part = enqCmd.part ∧ d.poolFor enqCmd.part 2 6 = none) ∧
    (let r := devEnq.ring 0 1
     Started devEnq cid 9 enqCmd ∧ devEnq.poolFor enqCmd.part 2 6 = some 0 ∧ ∃ obj bs hd d1 d2 d3 d4 d5 d6,
       let a := d1.cmdAgent enqCmd 0
       let res := leNat (hd.take 8)
       enqCmd.f 303 256 = 0x100 ∧ r.base * 4096 = 0 ∧ r.ctx = 0 ∧ 2 ^ r.log2n = 64 ∧
       devEnq.mintCall enqCmd.part 0 2 = (some obj, d1) ∧ d1.agentRead a true 0x100 64 = (.ok bs, d2) ∧
       d2.agentWrite { a with ctx := (d2.pool enqCmd.part 0).ctx } true obj bs = (.ok (), d3) ∧
       d3.agentRead { a with ctx := 0 } true 0 16 = (.ok hd, d4) ∧
       (((res : Int) - leNat (hd.drop 8)) % (2 ^ 64 : Nat)).toNat < 64 ∧
       d4.agentWrite { a with ctx := 0 } true 0 (toLe 8 (res + 1)) = (.ok (), d5) ∧
       d5.agentWrite { a with ctx := 0 } true (0 + 64 + 8 * (res % 64)) (toLe 8 (obj + 16 + 0)) = (.ok (), d6)) ∧
    (let c : Cmd := cmdOf 0x1A .started [(256, 0x100)]
     let d := devPageCmd [(2, 7), (3, 8)] c
     Started d cid 0x1A c ∧ c.f 303 256 % 64 = 0 ∧ c.f 303 256 = 0x100 ∧ (∃ bs d1, d.agentRead (feAgent 0 0) true 0x100 256 = (.ok bs, d1)) ∧
     Started (devCmd (cmdOf 0x1A .started [(256, 0x101)])) cid 0x1A (cmdOf 0x1A .started [(256, 0x101)])) := by
  refine ⟨⟨started_of (by decide +kernel), by decide +kernel, ?_⟩, ⟨started_of (by decide +kernel), by decide +kernel, by decide +kernel, ?_⟩,
    ⟨started_of (by decide +kernel), ?_⟩, ⟨started_of (by decide +kernel), by decide +kernel⟩, ⟨started_of (by decide +kernel), by decide +kernel⟩,
    ⟨started_of (by decide +kernel), by decide +kernel, ?_⟩, ⟨started_of (by decide +kernel), by decide +kernel, by decide +kernel, ?_, started_of (by decide +kernel)⟩⟩
  · obtain ⟨d1, m1, a1, h1⟩ := read_bytes (page_mapped [(2, 7)] (cmdOf 0x10 .started [(256, 0x100), (320, 0x140), (384, 64)]))
      (a := Dev.cmdAgent (devPageCmd [(2, 7)] (cmdOf 0x10 .started [(256, 0x100), (320, 0x140), (384, 64)]))
        (cmdOf 0x10 .started [(256, 0x100), (320, 0x140), (384, 64)]) 0) rfl true (dva := 0x100) (n := 64) (by decide +kernel)
      (bs := toLe 64 7) (by decide +kernel)
    obtain ⟨d2, -, -, h2, -⟩ := write_mapped m1 (a := Dev.cmdAgent (devPageCmd [(2, 7)] (cmdOf 0x10 .started [(256, 0x100), (320, 0x140), (384, 64)]))
        (cmdOf 0x10 .started [(256, 0x100), (320, 0x140), (384, 64)]) 0) rfl true (dva := 0x140) (bs := toLe 64 7)
      (by rw [pageOk_alike a1]; decide +kernel)
    exact ⟨_, d1, d2, h1, h2⟩
  · obtain ⟨d1, -, -, h1⟩ := read_mapped (page_mapped [(2, 7)] (cmdOf 0x10 .started [(256, 0x100), (320, 0x101), (384, 64)]))
      (a := Dev.cmdAgent (devPageCmd [(2, 7)] (cmdOf 0x10 .started [(256, 0x100), (320, 0x101), (384, 64)]))
        (cmdOf 0x10 .started [(256, 0x100), (320, 0x101), (384, 64)]) 0) rfl true (dva := 0x100) (n := 64) (by decide +kernel)
    exact ⟨_, d1, h1⟩
  · obtain ⟨d1, -, -, h1, -⟩ := write_mapped (page_mapped [(2, 7)] (cmdOf 0x11 .started [(320, 0x101), (384, 7), (448, 5)]))
      (a := Dev.cmdAgent (devPageCmd [(2, 7)] (cmdOf 0x11 .started [(320, 0x101), (384, 7), (448, 5)]))
        (cmdOf 0x11 .started [(320, 0x101), (384, 7), (448, 5)]) 0) rfl true (dva := 0x101)
      (bs := (List.range 7).map (fun k => BitVec.ofNat 8 ((cmdOf 0x11 .started [(320, 0x101), (384, 7), (448, 5)]).f 511 448 / 2 ^ (8 * ((0x101 + k) % 8)))))
      (by decide +kernel)
    exact ⟨d1, h1⟩
  · obtain ⟨d1, m1, h1, hx, k1⟩ := mint_mapped devEnq_mapped (p := 0) (i := 0) (user := 2) (x := enqPool) rfl rfl (by decide) rfl (by decide)
      rfl rfl rfl (by decide +kernel) (by decide +kernel)
    have hl : (0x5000 + (enqPool.metaDva + 0)) / 128 = 168 := rfl
    rw [hl] at k1
    obtain ⟨d2, m2, a2, h2⟩ := read_bytes m1 (a := d1.cmdAgent enqCmd 0) rfl true (dva := 0x100) (n := 64)
      (pageOk_but k1 (by decide +kernel)) (bs := toLe 64 7) (by
        have : lineAt d1 162 = lineAt devEnq 162 := by simp [lineAt, k1 162 (by decide)]
        show (piecesOf 0x100 64).flatMap _ = _
        rw [show piecesOf 0x100 64 = [(0x100, 64)] by decide]
        simp only [List.flatMap_cons, List.flatMap_nil, List.append_nil]
        rw [show (0x5000 + 0x100) / 128 = 162 by decide, this]
        decide +kernel)
    have hx2 : (d2.pool enqCmd.part 0).ctx = 0 := by
      have : d2.mint = d1.mint := by rw [a2]
      show (d2.pool 0 0).ctx = 0
      simpa [Dev.pool, this] using hx
    obtain ⟨d3, m3, s3, h3, k3, q3⟩ := write_mapped m2 (a := { d1.cmdAgent enqCmd 0 with ctx := (d2.pool enqCmd.part 0).ctx }) hx2 true
      (dva := 0x200) (bs := toLe 64 7) (by rw [pageOk_alike a2]; exact pageOk_but k1 (by decide +kernel))
    have hd : lineAt d3 160 = lineAt devEnq 160 := by
      have e1 := k3 160 (by decide +kernel)
      have e2 : d2.mem = d1.mem := by rw [a2]
      rw [lineAt, e1, e2, k1 160 (by decide)]
      rfl
    obtain ⟨d4, m4, a4, h4⟩ := read_bytes m3 (a := { d1.cmdAgent enqCmd 0 with ctx := 0 }) rfl true (dva := 0) (n := 16)
      (pageOk_keep (by rw [pageOk_alike a2]; exact pageOk_but k1 (by decide +kernel)) q3) (bs := toLe 16 0) (by
        rw [show piecesOf 0 16 = [(0, 16)] by decide]
        simp only [List.flatMap_cons, List.flatMap_nil, List.append_nil]
        rw [show (0x5000 + 0) / 128 = 160 by decide, hd]
        decide +kernel)
    obtain ⟨d5, m5, s5, h5, -, q5⟩ := write_mapped m4 (a := { d1.cmdAgent enqCmd 0 with ctx := 0 }) rfl true (dva := 0) (bs := toLe 8 1)
      (by rw [pageOk_alike a4]; exact pageOk_keep (by rw [pageOk_alike a2]; exact pageOk_but k1 (by decide +kernel)) q3)
    obtain ⟨d6, -, -, h6, -⟩ := write_mapped m5 (a := { d1.cmdAgent enqCmd 0 with ctx := 0 }) rfl true (dva := 64) (bs := toLe 8 0x210)
      (pageOk_keep (by rw [pageOk_alike a4]; exact pageOk_keep (by rw [pageOk_alike a2]; exact pageOk_but k1 (by decide +kernel)) q3) q5)
    exact ⟨0x200, toLe 64 7, toLe 16 0, d1, d2, d3, d4, d5, d6, by decide +kernel, rfl, rfl, rfl, h1, h2, h3, h4, by decide +kernel, h5, h6⟩
  · obtain ⟨d1, -, -, h1⟩ := read_mapped (page_mapped [(2, 7), (3, 8)] (cmdOf 0x1A .started [(256, 0x100)])) (a := feAgent 0 0) rfl true
      (dva := 0x100) (n := 256) (by decide +kernel)
    exact ⟨_, d1, h1⟩

/-- Any device with the memory of `devPage` and the demo device's contexts and partitions. -/
theorem mapped_of {d : Dev} {lines : Tab Line} (h : d.mem = (devPage lines).mem) (k : d.mmu = demo.mmu) (p : d.parts = demo.parts)
    (o : d.outerOff = false) : Mapped d :=
  ⟨by rw [Dev.ctx, k]; rfl, by rw [Dev.part, p]; rfl, by rw [k]; rfl, by rw [h]; rfl, by rw [h]; rfl, by rw [h]; rfl, by rw [h]; rfl,
   (by rw [k]; intro t m; cases m), o, by rw [h]; rfl, by rw [h]; rfl, by rw [h]; rfl, by rw [h]; rfl⟩

/-- A node graph of one BARRIER, or of one node of another kind. -/
def nodeOf (kind : Nat) (fields : List (Nat × Nat)) : BitVec 256 :=
  BitVec.ofNat 256 (kind + 0xFFFFFF00 + (fields.map (fun e => e.2 * 2 ^ e.1)).sum)

/-- An order of partition 0 with these nodes. -/
def orderOf (nodes : List (BitVec 256)) : Order :=
  { part := 0, ctx := 0, log := 0, log2n := 3, done := 16383, doneEn := true, dsys := false, stampEn := false, depth := 1, nodes := nodes
    draft := 7, slots := [(0, ⟨1, 0, 7⟩)], cur := 0, seq := 3, queue := [], arm := none, acts := [], leaving := false }

/-- An activation of it, number 2. -/
def actOf (nodes : Tab NodeSt) : Activation :=
  { seq := 2, stamp := 9, slot := 0, gen := 1, params := 7, nodes := nodes, wait := none, abort := none, cmd := none, cancels := []
    skipped := 0, silent := false }

/-- The tally device with the command in ring 0 and order 0. -/
def devOrder (c : Cmd) (r : Order) : Dev := { devTallyCmd c tally with orders := [(0, r)] }

/-- What `Ordered` asks, evaluated. -/
def orderedB (d : Dev) (x : CmdId) (o : Nat) (c : Cmd) (r : Order) : Bool :=
  startedB d x o c && !d.orderBehind x c && Tab.get? d.orders c.order == some r && r.part == c.part && !r.leaving
theorem ordered_of {d : Dev} {x : CmdId} {o : Nat} {c : Cmd} {r : Order} (h : orderedB d x o c r = true) : Ordered d x o c r := by
  simp only [orderedB, Bool.and_eq_true, Bool.not_eq_true', beq_iff_eq] at h
  exact ⟨started_of h.1.1.1.1, h.1.1.1.2, h.1.1.2, h.1.2, h.2⟩

/-- SO_INSTALL of the descriptor at DVA 0x100: the graph at 0x200, of one node, and the parameters at 0x240. -/
def installCmd : Cmd := cmdOf 0x20 .started [(256, 0x100)]
def descLine : Line := BitVec.ofNat 1024 (1 * 2 ^ 352 + 0x200 * 2 ^ 304 + 0x240 * 2 ^ 256)

/-- SO_SEAL with the block at DVA 0x100. -/
def sealCmd : Cmd := cmdOf 0x23 .started [(256, 0x100)]
def devSeal : Dev := { devPageCmd [(2, descLine)] sealCmd with orders := [(0, orderOf [nodeOf 0 []])] }

theorem witness_OrdersAreInstalledAndSealed :
    (startedB (devCmd (cmdOf 0x20 .started [(256, 0x101)])) cid 0x20 (cmdOf 0x20 .started [(256, 0x101)]) = true ∧
     (devCmd (cmdOf 0x20 .started [(256, 0x101)])).orderBehind cid (cmdOf 0x20 .started [(256, 0x101)]) = false ∧
     (cmdOf 0x20 .started [(256, 0x101)]).f 303 256 % 64 ≠ 0 ∧
     startedB (devCmd (cmdOf 0x20 .started [(304, 1023)])) cid 0x20 (cmdOf 0x20 .started [(304, 1023)]) = true ∧
     (devCmd (cmdOf 0x20 .started [(304, 1023)])).holds 0 (1023 / 16) = false ∧ (cmdOf 0x20 .started [(304, 1023)]).order = 1023) ∧
    (startedB (devOrder installCmd (orderOf [nodeOf 0 []])) cid 0x20 installCmd = true ∧ installCmd.f 303 256 % 64 = 0 ∧
     (devOrder installCmd (orderOf [nodeOf 0 []])).holds 0 0 = true ∧
     Tab.has (devOrder installCmd (orderOf [nodeOf 0 []])).orders installCmd.order = true) ∧
    (let d := devPageCmd [(2, descLine), (4, 0xFFFFFF00)] installCmd
     startedB d cid 0x20 installCmd = true ∧ d.orderBehind cid installCmd = false ∧ installCmd.order = 0 ∧ d.holds 0 0 = true ∧
     d.orders = [] ∧ installCmd.f 303 256 = 0x100 ∧ ∃ d1 d2 d3,
       let a := d.orderAgent 0 0 0
       let bs := toLe 64 (descLine.toNat % 2 ^ 512)
       let g := toLe 32 0xFFFFFF00
       d.agentRead a false 0x100 64 = (.ok bs, d1) ∧ d1.badDesc 0 (leNat bs) = false ∧ leNat bs / 2 ^ 352 % 2 ^ 9 = 1 ∧ 1 ≤ d.freeNodes 0 ∧
       fld (leNat bs) 351 304 = 0x200 ∧ fld (leNat bs) 303 256 = 0x240 ∧
       d1.agentRead a false 0x200 32 = (.ok g, d2) ∧
       (∀ i w, [BitVec.ofNat 256 (leNat ((g.drop (32 * 0)).take 32))][i]? = some w → d2.badNode 0 i w = false) ∧
       d2.agentRead a false 0x240 64 = (.ok (toLe 64 0), d3)) ∧
    ([[], [actOf []]].all (fun acts =>
       orderedB (devOrder (cmdOf 0x21 .started []) { orderOf [nodeOf 0 []] with acts := acts }) cid 0x21 (cmdOf 0x21 .started [])
         { orderOf [nodeOf 0 []] with acts := acts }) = true) ∧
    ([(0, 0, 0), (5, 0, 0), (4, 13, 1), (4, 12, 0), (1, 15, 1), (0, 0, 1)].all (fun e =>
       let c := cmdOf 0x22 .started [(276, e.1), (272, e.2.1), (279, e.2.2)]
       let full := { orderOf [nodeOf 0 []] with slots := [(0, ⟨1, 1, 7⟩), (1, ⟨2, 1, 7⟩), (2, ⟨3, 1, 7⟩), (3, ⟨4, 1, 7⟩)] }
       orderedB (devOrder c (orderOf [nodeOf 0 []])) cid 0x22 c (orderOf [nodeOf 0 []]) && (orderOf [nodeOf 0 []]).sealSlot == some 1 &&
       orderedB (devOrder c full) cid 0x22 c full && full.sealSlot == none &&
       c.f 278 276 == e.1 && c.f 275 272 == e.2.1 && c.bit 279 == (e.2.2 == 1)) = true) ∧
    (let full := { orderOf [nodeOf 0 []] with slots := [(0, ⟨1, 1, 7⟩), (1, ⟨2, 1, 7⟩), (2, ⟨3, 1, 7⟩), (3, ⟨4, 1, 7⟩)] }
     Ordered (devOrder (cmdOf 0x23 .started []) (orderOf [nodeOf 0 []])) cid 0x23 (cmdOf 0x23 .started []) (orderOf [nodeOf 0 []]) ∧
     Ordered (devOrder (cmdOf 0x23 .started []) full) cid 0x23 (cmdOf 0x23 .started []) full ∧ (cmdOf 0x23 .started []).f 303 256 = 0) ∧
    (Ordered devSeal cid 0x23 sealCmd (orderOf [nodeOf 0 []]) ∧ sealCmd.f 303 256 = 0x100 ∧ sealCmd.order = 0 ∧
       (orderOf [nodeOf 0 []]).sealSlot = some 1 ∧ ∃ bs d1, devSeal.agentRead (devSeal.orderAgent 0 0 0) false 0x100 64 = (.ok bs, d1)) := by
  refine ⟨by decide +kernel, by decide +kernel, ?_, by decide +kernel, by decide +kernel, ⟨ordered_of (by decide +kernel), ordered_of (by decide +kernel),
    by decide +kernel⟩, ⟨ordered_of (by decide +kernel), by decide +kernel, by decide +kernel, by decide +kernel, ?_⟩⟩
  · refine ⟨by decide +kernel, by decide +kernel, by decide +kernel, by decide +kernel, rfl, by decide +kernel, ?_⟩
    obtain ⟨d1, m1, a1, h1⟩ := read_bytes (page_mapped [(2, descLine), (4, 0xFFFFFF00)] installCmd)
      (a := Dev.orderAgent (devPageCmd [(2, descLine), (4, 0xFFFFFF00)] installCmd) 0 0 0) rfl false (dva := 0x100) (n := 64) (by decide +kernel)
      (bs := toLe 64 (descLine.toNat % 2 ^ 512)) (by decide +kernel)
    obtain ⟨d2, m2, a2, h2⟩ := read_bytes m1 (a := Dev.orderAgent (devPageCmd [(2, descLine), (4, 0xFFFFFF00)] installCmd) 0 0 0) rfl false
      (dva := 0x200) (n := 32) (by rw [pageOk_alike a1]; decide +kernel) (bs := toLe 32 0xFFFFFF00)
      (by rw [show piecesOf 0x200 32 = [(0x200, 32)] by decide]; simp only [List.flatMap_cons, lineAt_alike a1]; decide +kernel)
    obtain ⟨d3, m3, a3, h3⟩ := read_bytes m2 (a := Dev.orderAgent (devPageCmd [(2, descLine), (4, 0xFFFFFF00)] installCmd) 0 0 0) rfl false
      (dva := 0x240) (n := 64) (by rw [pageOk_alike a2, pageOk_alike a1]; decide +kernel) (bs := toLe 64 0)
      (by rw [show piecesOf 0x240 64 = [(0x240, 64)] by decide]; simp only [List.flatMap_cons, lineAt_alike a2, lineAt_alike a1]; decide +kernel)
    have hb : ∀ v, d1.badDesc 0 v = Dev.badDesc demo 0 v := fun v => by rw [a1]; rfl
    refine ⟨d1, d2, d3, h1, by rw [hb]; decide +kernel, by decide +kernel, by decide +kernel,
      by decide +kernel, by decide +kernel, h2, ?_, h3⟩
    intro i w hw
    match i, hw with
    | 0, hw =>
      simp only [List.getElem?_cons_zero, Option.some.injEq] at hw
      subst hw
      rw [show ∀ w, d2.badNode 0 0 w = Dev.badNode demo 0 0 w from fun w => by rw [a2, a1]; rfl]
      decide +kernel
    | i + 1, hw => simp at hw
  · obtain ⟨d1, -, -, h1⟩ := read_mapped (d := devSeal) (mapped_of (lines := [(2, descLine)]) rfl rfl rfl rfl)
        (a := devSeal.orderAgent 0 0 0) rfl false (dva := 0x100) (n := 64) (by decide +kernel)
    exact ⟨_, d1, h1⟩

theorem witness_OrdersAreRunArmedAndCancelled :
    (let c := cmdOf 0x24 .started [(320, 5), (289, 1), (272, 1)]
     orderedB (devOrder c (orderOf [])) cid 0x24 c (orderOf []) && c.bit 289) = true ∧
    ([(0, 16383, 5, tally), (1, 16382, 5, tally), (1, 16383, 5, tally), (1, 16383, 6, tally), (1, 16383, 5, { tally with lost := true })].all
      (fun e =>
        let c := cmdOf 0x25 .started [(416, e.1), (272, e.2.1), (448, e.2.2.1)]
        let d := { devTallyCmd c e.2.2.2 with orders := [(0, orderOf [])] }
        orderedB d cid 0x25 c (orderOf []) && c.f 447 416 == e.1 && c.f 285 272 == e.2.1 && c.f 511 448 == e.2.2.1 &&
        (d.tallyOwned 0 e.2.1 == (e.2.1 == 16383)) && decide ((orderOf []).acts.length ≤ (orderOf []).depth)) = true) ∧
    (tallyMet tally.value 5 = true ∧ tallyMet tally.value 6 = false) ∧
    (let r := { orderOf [] with arm := some ⟨16383, 5, 1, 0, false, 0, 0⟩, queue := [⟨5, none, none, true, 0⟩] }
     orderedB (devOrder (cmdOf 0x26 .started []) r) cid 0x26 (cmdOf 0x26 .started []) r = true) ∧
    ([0, 1, 2, 3].all (fun mode => [[], [0]].all (fun n => [2, 3].all (fun seq =>
        let c := cmdOf 0x27 .started [(266, mode), (320, seq)]
        let r := { orderOf [nodeOf 0 []] with acts := n.map (fun _ => actOf []) }
        orderedB (devOrder c r) cid 0x27 c r && c.f 267 266 == mode && c.f 383 320 == seq && r.acts.all (fun a => !r.committed a) &&
        decide (List.Nodup (r.acts.map Activation.seq))))) = true) := by
  decide +kernel

/-- The tally device with order 0. -/
def devAct (r : Order) : Dev := { devTally core1 tally with orders := [(0, r)] }
/-- The device with lines of page 0, order 0 and its log at DVA 0x200. -/
def logged : Order := { orderOf [nodeOf 0 []] with log := 0x200, acts := [actOf [(0, .complete)]] }
def devLog : Dev := { devPage [(4, 7)] with orders := [(0, logged)] }

theorem witness_ActivationsStartAndEnd :
    ([(true, 0, 0), (false, 0, 0), (true, 1, 0), (true, 3, 1), (true, 3, 2)].all (fun e => [true, false].all (fun latest =>
       let r := { orderOf [] with arm := some ⟨16383, 3, 2, e.2.1, latest, 0, e.2.2⟩ }
       let d := devAct r
       let d := { d with tly := { d.tly with wakes := [⟨.trigger 0, e.1⟩] } }
       d.running && Tab.get? d.orders 0 == some r && (d.tly.wakes.find? (fun w => w.who == TallyWho.trigger 0)) == some ⟨.trigger 0, e.1⟩ &&
       d.tallyOwned r.part 16383)) = true) ∧
    ([none, some 1, some 2].all (fun g => [true, false].all (fun stamp => [none, some ⟨16383, 3, 2, 0, false, 0, 0⟩].all (fun arm =>
       let q : StartReq := ⟨5, some cid, g, false, 0⟩
       let r := { orderOf [nodeOf 0 []] with queue := [q], arm := arm, stampEn := stamp, acts := [actOf []] }
       let d := devOrder (cmdOf 0x24 .running []) r
       d.running && Tab.get? d.orders 0 == some r && decide (r.acts.length ≤ r.depth) && !r.leaving && r.curSlot.gen == 1 &&
       d.tallyOwned r.part 16383 && (d.cmd? cid).isSome))) = true) ∧
    ([(none, true), (some 1, true), (none, false)].all (fun e => [true, false].all (fun silent =>
       let a := { actOf (if e.1.isNone then [(0, NodeSt.complete)] else []) with abort := e.1, cmd := some cid, silent := silent }
       let r := { orderOf [nodeOf 0 []] with acts := [a], doneEn := e.2 }
       let d := devOrder (cmdOf 0x24 .running []) r
       d.running && Tab.get? d.orders 0 == some r && r.act? 2 == some a && r.ended a && a.cancels.isEmpty && !r.leaving && r.log == 0 &&
       d.tallyOwned r.part r.done && (d.cmd? cid).isSome)) = true) ∧
    (devLog.running = true ∧ Tab.get? devLog.orders 0 = some logged ∧ logged.act? 2 = some (actOf [(0, .complete)]) ∧
     logged.ended (actOf [(0, .complete)]) = true ∧ logged.log = 0x200 ∧ logged.arm = none ∧
     ∃ d2, (({ devLog with orders := Tab.mod devLog.orders 0 (fun q => { q.unbind 0 with acts := q.acts.filter (fun b => b.seq != 2) }) } :
         Dev).countCluster 0 2 1).agentWrite (devLog.orderAgent 0 0 0) false 0x240
       (toLe 1 0 ++ toLe 1 0 ++ toLe 2 0 ++ toLe 2 1 ++ toLe 2 1 ++ toLe 8 2 ++ toLe 8 9 ++ toLe 8 devLog.time.ts) = (.ok (), d2)) := by
  refine ⟨by decide +kernel, by decide +kernel, by decide +kernel, ⟨by decide +kernel, by decide +kernel, by decide +kernel, by decide +kernel,
    by decide +kernel, rfl, ?_⟩⟩
  have m : Mapped ({ devLog with orders := Tab.mod devLog.orders 0 (fun q => { q.unbind 0 with acts := q.acts.filter (fun b => b.seq != 2) }) } : Dev) :=
    mapped_of (lines := [(4, 7)]) rfl rfl rfl rfl
  obtain ⟨d2, -, -, h, -⟩ := write_mapped (m.alike (count_alike _ (0x64000 + 128 * 0 + 8 * 2) 1) (by rw [count_mmu]; exact m.tlb))
    (a := devLog.orderAgent 0 0 0) rfl false (dva := 0x240)
    (bs := toLe 1 0 ++ toLe 1 0 ++ toLe 2 0 ++ toLe 2 1 ++ toLe 2 1 ++ toLe 8 2 ++ toLe 8 9 ++ toLe 8 devLog.time.ts)
    (by rw [pageOk_alike (count_alike _ _ _)]; decide +kernel)
  exact ⟨d2, h⟩

/-- A device with an activation of the order of node 0 `w`, with its nodes as given. -/
def devNode (w : BitVec 256) (a : Activation) : Dev := devAct { orderOf [w] with acts := [a] }
/-- The activation and its node are there. -/
def hasNode (d : Dev) (r : Order) (a : Activation) (w : BitVec 256) : Bool :=
  d.running && Tab.get? d.orders 0 == some r && r.act? 2 == some a && r.nodes[0]? == some w

theorem witness_NodesOfAnActivation :
    -- nodes that start: a barrier, waits and signals of an owned tally and of another, launches
    ([(0, []), (2, [(32, 16383), (128, 6)]), (2, [(32, 16382)]), (3, [(32, 16383), (128, 1)]), (3, [(32, 16383), (128, 1), (51, 1)]),
      (3, [(32, 16382)]), (1, [(32, 1), (190, 1)]), (1, [(32, 2), (190, 1), (193, 1), (144, 1)]), (1, [(32, 1), (190, 1), (193, 1)]),
      (1, [(32, 1), (190, 1), (193, 16), (144, 33)])].all (fun e =>
       let w := nodeOf e.1 e.2
       let a := actOf []
       let r := { orderOf [w] with acts := [a] }
       let d := devNode w a
       let own := decide (nf w 45 32 = 16383)
       let targets := maskOf 64 ((onesOf (BitVec.ofNat 64 (nf w 95 32))).filter (d.holds r.part))
       let shape := targets != 0 && shapeGroups (8 * (nf w 181 178 + 2)) (nf w 189 182) (nf w 192 190) (nf w 197 193) != 0
       hasNode d r a w && nodeKind w == e.1 && r.startable a 0 && (d.tallyOwned 0 (nf w 45 32) == own) && a.wait.isNone &&
       (e.1 != 2 || !own || (!(d.tally 16383).lost && !tallyMet (d.tally 16383).value (a.operand w))) &&
       (e.1 != 1 || (shape == (nf w 95 32 % 2 == 1 && nf w 197 193 != 0))))) = true ∧
    -- nodes that run: a signal answered, a wait at its timeout, a launch that is over
    (let w := nodeOf 3 [(32, 16383)]
     let a := actOf [(0, .running)]
     hasNode (devNode w a) { orderOf [w] with acts := [a] } a w = true ∧ nodeKind w = 3 ∧ Tab.get? a.nodes 0 = some .running ∧
     (devNode w a).tly.ops = []) ∧
    (let w := nodeOf 2 [(32, 16383), (64, 2)]
     let a := { actOf [(0, .running)] with wait := some (0, 2) }
     hasNode (devNode w a) { orderOf [w] with acts := [a] } a w = true ∧ a.wait = some (0, 2) ∧ nf w 79 64 = 2 ∧ a.abort = none) ∧
    (let w := nodeOf 1 []
     let a := actOf [(0, .running)]
     let x := { Launch.empty with from_ := .node 0 2 0, groups := 1, next := 1 }
     let d := { devNode w a with launches := [(0, x)] }
     hasNode d { orderOf [w] with acts := [a] } a w = true ∧ Tab.get? d.launches 0 = some x ∧ d.launchOver 0 x = true) := by
  decide +kernel

theorem witness_GroupsAreDispatched :
    ([1, 32, 33, 64].all (fun threads =>
       let x := { Launch.empty with from_ := .node 0 2 0, groups := (threads + 31) / 32, next := (threads + 31) / 32 - 1, threads := threads, targets := 1, maxg := 16 }
       let d := { devOf { Core.empty with lastPart := some 0, groups := [(0, Group.empty)] } with launches := [(0, x)] }
       d.running && Tab.get? d.launches 0 == some x && d.plan.coreOk 0 && !(d.core 0).stopped && d.hasRoom 0 0 && decide (x.next < x.groups) &&
       x.targets.getLsbD (0 / 16) && decide (32 * x.next < x.threads) && (d.core 0).lastPart == some x.part && (d.core 0).split == x.split &&
       Tab.has (d.core 0).groups 0 && !Tab.has (d.core 0).groups 1) = true) ∧
    (let x := { Launch.empty with from_ := .node 0 2 0, epochs := 2 }
     let d := { demo with launches := [(0, x)], parts := [(0, { Part.zero with cfg := { Part.zero.cfg with runEpochs := 1 } })] }
     Tab.get? d.launches 0 = some x ∧ d.running = true ∧ (d.part x.part).cfg.runEpochs = 1 ∧ 1 < x.epochs) := by
  decide +kernel

/-- A stream of partition 0 with blocks of 64 bytes, and an entry of it. -/
def stream0 : LStream :=
  { part := 0, ctx := 0, set := 0, sizeLog2 := 6, splitEn := false, splitPart := 0, splitLog2 := 0, quota := 0, highBlock := 0, broken := false
    dropping := false }
def entryOf (st : LState) (block leases : Nat) : LEntry :=
  { sketch := 0, addr := 0x200, tier := 0, st := st, minted := false, pool := 0, stream := 3, block := block, lastUse := 0, hits := 0
    leases := leases, serial := 0 }

/-- A device with stream 3, entries, queries and migrations. -/
def ledgered (d : Dev) (entries : Tab LEntry) (queries : Tab LQuery) (migs : List LMigration) : Dev :=
  { d with ledger := { demo.ledger with streams := [(3, stream0)], entries := entries, queries := queries, migrations := migs } }

/-- A query of partition 0 that has come to `phase`, and an item of its selection. -/
def queryOf (phase : QueryPhase) (desc : Nat) (items : List LItem) : LQuery :=
  { part := 0, ctx := 0, desc := BitVec.ofNat 512 desc, order := 0, beyond := false, phase := phase, seen := [], items := items, scanned := 0
    partial_ := false, time := 0 }
def itemOf (idx : Nat) : LItem :=
  { idx := idx, block := 0, stream := 3, score := 0, tier := 0, addr := 0x200, leased := true, lines := [], skipped := false }

/-- A migration of entry 0 to DVA 0x280. -/
def migOf : LMigration :=
  { cmd := cid, part := 0, ctx := 0, idx := 0, size := 64, addr := 0x280, tier := 0, minted := false, pool := 0, switched := false, slots := []
    old := 0x200 }
def devMig (queries : Tab LQuery) : Dev :=
  ledgered (devPageCmd [(4, 7), (5, 8)] (cmdOf 0x32 .running [])) [(0, entryOf .migrating 7 0)] queries [migOf]

theorem witness_LedgerEntriesAreEvictedAndMigrated :
    ([(3, 0, 6), (9, 0, 6), (3, 1, 21), (9, 1, 6), (3, 2, 21), (9, 2, 21)].all (fun e =>
       let c := cmdOf 0x30 .started [(256, e.1), (340, e.2.1), (350, e.2.2), (357, 20)]
       startedB (ledgered (devCmd c) [] [] []) cid 0x30 c && c.f 341 340 != 3 && decide (6 ≤ c.f 354 350) && decide (c.f 354 350 ≤ 21) &&
       decide (c.f 361 357 ≤ 20) && c.f 265 256 == e.1)) = true ∧
    ([(9, 0), (3, 0), (3, 1)].all (fun e =>
       let c := cmdOf 0x31 .started [(256, e.1), (320, 7), (352, 8)]
       let d := ledgered (devCmd c) [(0, entryOf .valid 7 e.2), (1, entryOf .valid 8 0)] [] []
       startedB d cid 0x31 c && (d.ldgStream 0 e.1 == if e.1 = 3 then some stream0 else none) &&
       d.ldgRange 3 (c.f 351 320) (c.f 383 352) == [(0, entryOf .valid 7 e.2)] && Tab.get? d.ledger.entries 0 == some (entryOf .valid 7 e.2))) = true ∧
    ([(5, some 0x31), (63, some 0x2E), (62, none)].all (fun e =>
       let c := cmdOf 0x34 .started [(256, e.1)]
       let y := queryOf .complete 0 [itemOf 0]
       let d := ledgered (devCmd c) [(0, entryOf .valid 7 1)] [(62, y), (63, queryOf .swept 0 [])] []
       startedB d cid 0x34 c && !c.bit 262 && (match d.heldSlot 0 e.1, e.2 with
         | .error k, some m => k == m
         | .ok z, none => z == y
         | _, _ => false))) = true ∧
    (let c := cmdOf 0x32 .started [(256, 3), (320, 7), (352, 0x240)]
     let d := ledgered (devCmd c) [(0, entryOf .valid 7 0)] [] []
     startedB d cid 0x32 c = true ∧ d.ldgStream 0 3 = some stream0 ∧ d.ldgFind 3 (c.f 351 320) = some (0, entryOf .valid 7 0) ∧
     d.ldgFind 3 8 = none ∧ c.f 399 352 = 0x240 ∧ (d.suppliedOk stream0 0x240).1 = some false) ∧
    (∀ qs, qs = [] ∨ qs = [(5, queryOf .complete 0 [itemOf 0])] →
      (devMig qs).running = true ∧ (devMig qs).ledger.migrations[0]? = some migOf ∧ (devMig qs).ledger.migrations = [migOf] ∧
      Tab.get? (devMig qs).ledger.entries 0 = some (entryOf .migrating 7 0) ∧ ((devMig qs).leaseSlots 0 = [] ∨ qs ≠ []) ∧
      ((devMig qs).cmd? cid).isSome = true ∧
      ∃ d1 d2, (devMig qs).agentRead ((devMig qs).ldgAgent 0 0 0) true 0x200 64 = (.ok (toLe 64 7), d1) ∧
        d1.agentWrite ((devMig qs).ldgAgent 0 0 0) true 0x280 (toLe 64 7) = (.ok (), d2)) := by
  refine ⟨by decide +kernel, by decide +kernel, by decide +kernel, by decide +kernel, fun qs h => ⟨rfl, rfl, rfl, rfl, ?_, ?_, ?_⟩⟩
  · obtain rfl | rfl := h <;> decide +kernel
  · obtain rfl | rfl := h <;> decide +kernel
  · have m : Mapped (devMig qs) := mapped_of (lines := [(4, 7), (5, 8)]) rfl rfl rfl rfl
    obtain ⟨d1, m1, a1, h1⟩ := read_bytes m (a := (devMig qs).ldgAgent 0 0 0) rfl true (dva := 0x200) (n := 64)
      (by obtain rfl | rfl := h <;> decide +kernel) (bs := toLe 64 7) (by obtain rfl | rfl := h <;> decide +kernel)
    obtain ⟨d2, -, -, h2, -⟩ := write_mapped m1 (a := (devMig qs).ldgAgent 0 0 0) rfl true (dva := 0x280) (bs := toLe 64 7)
      (by rw [pageOk_alike a1]; obtain rfl | rfl := h <;> decide +kernel)
    exact ⟨d1, d2, h1, h2⟩

/-- A core whose lane 0 has a stream and block number in w2 and w3, and the address 0x240 in w4 and w5. -/
def coreLdg (n b : Nat) : Core :=
  coreOf [(0, { Group.empty with regs := [(2, BitVec.ofNat 32 n), (3, BitVec.ofNat 32 b), (4, 0x240), (5, 0)] })] [(0, ready [(0, 0)])]
theorem ldg_resident (n b : Nat) (es : Tab LEntry) (qs : Tab LQuery) : Resident (ledgered (devOf (coreLdg n b)) es qs []) 0 := by
  intro x m e k
  simp [ledgered, devOf, Dev.core, Tab.get, Tab.get?, coreLdg, coreOf] at m
  subst m
  simp [ready] at k
  subst k
  rfl
theorem ldg_numbered (n b : Nat) (es : Tab LEntry) (qs : Tab LQuery) : Numbered (ledgered (devOf (coreLdg n b)) es qs []) 0 := by
  intro x m
  simp [ledgered, devOf, Dev.core, Tab.get, Tab.get?, coreLdg, coreOf] at m
  subst m
  exact Nat.lt_of_lt_of_eq Nat.zero_lt_one rfl

/-- What the statement asks of a request of a lane, evaluated. -/
def lane1 (d : Dev) (w : BitVec 64) (n b : Nat) : Bool :=
  canB d (ready [(0, 0)]) && legal w (opcOf w) && decide (actives d (issue w) (ready [(0, 0)]) = [(0, 0)]) &&
  d.readP 0 0 0 (srcaOf w) == n + 2 ^ 32 * b && decide (n < 1024) && decide (b < 2 ^ 32) && fld (subOf w) 11 10 == 0 &&
  ((d.arrive 0 0 w).strand? 0 0 == some (ready [(0, 0)]))

/-- LINS, LEVC and LQRY by lane 0: SRCA names w2 and w3; of LINS RESERVE SRCC names w4 and w5; of LQRY SRCB names w6. -/
def linsWord (op : Nat) : BitVec 64 := word 0x69 8 2 (if op = 1 then 16 else 0xFF) (if op = 0 then 4 else 0xFF) (op * 2 ^ 14)
def lqryWord (op : Nat) : BitVec 64 := word 0x68 8 (if op = 1 then 0xFF else 2) (if op = 0 then 0xFF else 6) 0xFF (op * 2 ^ 14)

/-- The page device with a core that issues LQRY for the record at DVA 0x200, and with queries. -/
def devQry (line : Line) (qs : Tab LQuery) : Dev :=
  { ledgered (devPage [(4, line)]) [(0, entryOf .valid 7 1)] qs [] with cores := [(0, coreLdg 0x200 0)] }
theorem qry_resident (line : Line) (qs : Tab LQuery) : Resident (devQry line qs) 0 := ldg_resident 0x200 0 [] []
theorem qry_numbered (line : Line) (qs : Tab LQuery) : Numbered (devQry line qs) 0 := ldg_numbered 0x200 0 [] []

/-- The read of an LQRY by lane 0. -/
theorem qry_read (line : Line) (qs : Tab LQuery) (op n : Nat) (bs : List Byte)
    (k : ((devQry line qs).arrive 0 0 (lqryWord op)).mem = (devPage [(4, line)]).mem ∧ ((devQry line qs).arrive 0 0 (lqryWord op)).mmu = demo.mmu ∧
      ((devQry line qs).arrive 0 0 (lqryWord op)).parts = demo.parts ∧ ((devQry line qs).arrive 0 0 (lqryWord op)).outerOff = false)
    (h : pageOk ((devQry line qs).arrive 0 0 (lqryWord op)) 0x200 n = true)
    (hb : (piecesOf 0x200 n).flatMap (fun p =>
      lineBytes (lineAt ((devQry line qs).arrive 0 0 (lqryWord op)) ((0x5000 + p.1) / 128)).data ((0x5000 + p.1) % 128) p.2) = bs) :
    ∃ d1, ((devQry line qs).arrive 0 0 (lqryWord op)).agentRead (((devQry line qs).arrive 0 0 (lqryWord op)).coreAgent 0 0 0) false 0x200 n
      = (.ok bs, d1) := by
  obtain ⟨d1, -, -, h1⟩ := read_bytes (mapped_of k.1 k.2.1 k.2.2.1 k.2.2.2) (a := ((devQry line qs).arrive 0 0 (lqryWord op)).coreAgent 0 0 0)
    rfl false h hb
  exact ⟨d1, h1⟩

/-- The lane's strand issues the LQRY, alone. -/
def qryOk (line : Line) (qs : Tab LQuery) (op : Nat) : Bool :=
  let d := devQry line qs
  canB d (ready [(0, 0)]) && legal (lqryWord op) 0x68 && fld (subOf (lqryWord op)) 15 14 == op &&
  decide (actives d (issue (lqryWord op)) (ready [(0, 0)]) = [(0, 0)]) && d.laneAddr 0 0 0 (lqryWord op) 0 == (if op = 1 then 0 else 0x200) &&
  (d.arrive 0 0 (lqryWord op)).strand? 0 0 == some (ready [(0, 0)]) && d.strandPart 0 (ready [(0, 0)]) == 0 &&
  d.strandCtx 0 (ready [(0, 0)]) == 0 && d.readW 0 0 0 (srcbOf (lqryWord op)) % 64 == 0
/-- All 64 query slots held. -/
def fullSlots : Tab LQuery := (List.range 64).map (fun k => (k, queryOf .waiting 0 []))
/-- A completed query with identifier 5 and one item. -/
def heldQuery : LQuery := queryOf .complete (5 * 2 ^ 64) [itemOf 0]

theorem witness_LedgerServesCores :
    (∀ n b es, Resident (ledgered (devOf (coreLdg n b)) es [] []) 0 ∧ Numbered (ledgered (devOf (coreLdg n b)) es [] []) 0) ∧
    -- RESERVE: a stream that is not there; a block that is, and one that is not
    ([(9, 7), (3, 7), (3, 2 ^ 32 - 1)].all (fun e =>
       let d := ledgered (devOf (coreLdg e.1 e.2)) [(0, entryOf .valid 7 0)] [] []
       lane1 d (linsWord 0) e.1 e.2 && (match d.insertCheck 0 e.1 e.2 with
         | .error k => (e.1 == 9 && k == 0x28) || (e.1 == 3 && e.2 == 7 && k == 0x29)
         | .ok l => e.2 != 7 && l == stream0 && d.ldgFree == some 1 && d.readP 0 0 0 (srccOf (linsWord 0)) == 0x240 &&
             ((d.arrive 0 0 (linsWord 0)).suppliedOk l 0x240).1 == some false))) = true ∧
    -- COMMIT and ABANDON: an entry that is not RESERVED, and one that is
    ([1, 2].all (fun op => [LState.valid, .reserved].all (fun v =>
       let d := ledgered (devOf (coreLdg 3 7)) [(0, entryOf v 7 0)] [] []
       lane1 d (linsWord op) 3 7 && fld (subOf (linsWord op)) 15 14 == op && (match d.reservedEntry 0 3 7 with
         | .error k => v == .valid && k == 0x2A
         | .ok x => v == .reserved && x == (0, entryOf .reserved 7 0) && Tab.get? d.ledger.entries 0 == some x.2 &&
             Tab.get? d.ledger.streams 3 == some stream0)))) = true ∧
    -- LEVC: another stream, another block, an entry without and with a lease
    ([(9, 7, 0), (3, 8, 0), (3, 7, 0), (3, 7, 2)].all (fun e =>
       let d := ledgered (devOf (coreLdg e.1 e.2.1)) [(0, entryOf .valid 7 e.2.2)] [] []
       lane1 d (word 0x6A 8 2 0xFF 0xFF 0) e.1 e.2.1 && d.ldgStream 0 e.1 == (if e.1 = 3 then some stream0 else none) &&
       d.ldgFind e.1 e.2.1 == (if (e.1, e.2.1) = (3, 7) then some (0, entryOf .valid 7 e.2.2) else none))) = true ∧
    -- LQRY
    (∀ line qs, Resident (devQry line qs) 0 ∧ Numbered (devQry line qs) 0) ∧
    -- QUERY: an ill-formed descriptor, a free slot, none
    (qryOk 0 [] 0 = true ∧ queryDescOk (leNat (toLe 64 0)) = false ∧
     ∃ d1, ((devQry 0 []).arrive 0 0 (lqryWord 0)).agentRead (((devQry 0 []).arrive 0 0 (lqryWord 0)).coreAgent 0 0 0) false 0x200 64
       = (.ok (toLe 64 0), d1)) ∧
    (∀ qs, qs = [(0, queryOf .waiting 0 [])] ∨ qs = fullSlots →
      qryOk (2 ^ 25) qs 0 = true ∧ queryDescOk (leNat (toLe 64 (2 ^ 25))) = true ∧
      (if qs = fullSlots then (List.range 64).all (fun q => Tab.has (devQry (2 ^ 25) qs).ledger.queries q) = true
       else Tab.has (devQry (2 ^ 25) qs).ledger.queries 1 = false ∧ Tab.has (devQry (2 ^ 25) qs).ledger.queries 0 = true) ∧
      ∃ d1, ((devQry (2 ^ 25) qs).arrive 0 0 (lqryWord 0)).agentRead (((devQry (2 ^ 25) qs).arrive 0 0 (lqryWord 0)).coreAgent 0 0 0) false 0x200 64
        = (.ok (toLe 64 (2 ^ 25)), d1)) ∧
    -- RELEASE: a slot that is not held, one that is not complete, one that is
    ([([], some 0x31), ([(0, queryOf .swept 0 [])], some 0x2E), ([(0, queryOf .complete 0 [])], none)].all (fun e =>
       qryOk 0 e.1 1 && (match (devQry 0 e.1).heldSlot 0 0, e.2 with
         | .error k, some m => k == m
         | .ok x, none => x.items.isEmpty
         | _, _ => false))) = true ∧
    -- PRUNE: another identifier, and the slot's
    (∀ v, v = 6 ∨ v = 5 → qryOk (BitVec.ofNat 1024 (v * 2 ^ 192 + 2 ^ 128)) [(0, heldQuery)] 2 = true ∧
      (devQry (BitVec.ofNat 1024 (v * 2 ^ 192 + 2 ^ 128)) [(0, heldQuery)]).heldSlot 0 0 = .ok heldQuery ∧ heldQuery.f 127 64 = 5 ∧
      leNat (toLe 32 (v * 2 ^ 192 + 2 ^ 128)) / 2 ^ 192 % 2 ^ 64 = v ∧
      (List.range 1).all (fun k => (leNat (toLe 32 (v * 2 ^ 192 + 2 ^ 128))).testBit (128 + k)) = true ∧ heldQuery.items.length = 1 ∧
      ∃ d1, ((devQry (BitVec.ofNat 1024 (v * 2 ^ 192 + 2 ^ 128)) [(0, heldQuery)]).arrive 0 0 (lqryWord 2)).agentRead
        (((devQry (BitVec.ofNat 1024 (v * 2 ^ 192 + 2 ^ 128)) [(0, heldQuery)]).arrive 0 0 (lqryWord 2)).coreAgent 0 0 0) false 0x200 32
          = (.ok (toLe 32 (v * 2 ^ 192 + 2 ^ 128)), d1)) := by
  refine ⟨fun n b es => ⟨ldg_resident n b es [], ldg_numbered n b es []⟩, by decide +kernel, by decide +kernel, by decide +kernel,
    fun line qs => ⟨qry_resident line qs, qry_numbered line qs⟩,
    ⟨by decide +kernel, by decide +kernel, qry_read 0 [] 0 64 (toLe 64 0) (by decide +kernel) (by decide +kernel) (by decide +kernel)⟩,
    fun qs h => ?_, by decide +kernel, fun v h => ?_⟩
  · obtain rfl | rfl := h
    · exact ⟨by decide +kernel, by decide +kernel, by decide +kernel,
        qry_read (2 ^ 25) _ 0 64 (toLe 64 (2 ^ 25)) (by decide +kernel) (by decide +kernel) (by decide +kernel)⟩
    · exact ⟨by decide +kernel, by decide +kernel, by decide +kernel,
        qry_read (2 ^ 25) _ 0 64 (toLe 64 (2 ^ 25)) (by decide +kernel) (by decide +kernel) (by decide +kernel)⟩
  · obtain rfl | rfl := h
    · exact ⟨by decide +kernel, rfl, by decide +kernel, by decide +kernel, by decide +kernel, rfl,
        qry_read (BitVec.ofNat 1024 (6 * 2 ^ 192 + 2 ^ 128)) [(0, heldQuery)] 2 32 (toLe 32 (6 * 2 ^ 192 + 2 ^ 128)) (by decide +kernel)
          (by decide +kernel) (by decide +kernel)⟩
    · exact ⟨by decide +kernel, rfl, by decide +kernel, by decide +kernel, by decide +kernel, rfl,
        qry_read (BitVec.ofNat 1024 (5 * 2 ^ 192 + 2 ^ 128)) [(0, heldQuery)] 2 32 (toLe 32 (5 * 2 ^ 192 + 2 ^ 128)) (by decide +kernel)
          (by decide +kernel) (by decide +kernel)⟩

/-- A query with what its sweep has seen of these entries. -/
def joinedQuery (es : Tab LEntry) (desc : Nat) : LQuery :=
  { queryOf .joined desc [] with seen := (ledgered demo es [] []).eligibles (queryOf .joined desc []) }

theorem witness_QueriesSweepAndComplete :
    ([true, false].all (fun beyond =>
       let x := { queryOf .waiting 0 [] with beyond := beyond, order := 4 }
       let d := ledgered demo [] [(0, queryOf .joined 0 []), (3, { queryOf .waiting 0 [] with beyond := beyond, order := 5 }), (5, x)] []
       Tab.get? d.ledger.queries 5 == some x && d.running && decide ((d.ledger.queries.filter (fun e => e.2.phase == .joined)).length < 16) &&
       d.ledger.queries.all (fun e => e.2.phase != .waiting ||
         !((e.2.beyond == x.beyond && decide (e.2.order < x.order)) || (x.beyond && !e.2.beyond))))) = true ∧
    ([[], [(0, entryOf .valid 7 0)], [(0, entryOf .valid 7 0), (1, entryOf .valid 8 2), (5, entryOf .retired 9 1)]].all (fun es =>
       [2 ^ 25, 64 * 2 ^ 25 + 128 * 2 ^ 40].all (fun desc =>
         let x := joinedQuery es desc
         let d := ledgered demo es [(5, x)] []
         Tab.get? d.ledger.queries 5 == some x && d.running && x.phase == .joined && x.seen == d.eligibles x && Tab.wf d.ledger.entries))) = true ∧
    ((ledgered demo [(0, entryOf .valid 7 0)] [] []).eligibles (queryOf .joined (2 ^ 25) [])).length = 1 ∧
    ([0, 1].all (fun sig =>
       let x := queryOf .swept (sig * 2 ^ 49 + 16383 * 2 ^ 50) [{ itemOf 0 with lines := [160] }]
       let d := ledgered (devTally core1 tally) [(0, entryOf .valid 7 1)] [(5, x)] []
       Tab.get? d.ledger.queries 5 == some x && d.running && d.mem.missRegs.isEmpty && x.f 49 49 == sig && x.f 63 50 == 16383 &&
       d.tallyOwned x.part 16383)) = true := by
  decide +kernel

/-- LDG_TRANSFER of stream 3 at DVA 0x200. -/
def exportCmd : Cmd := cmdOf 0x33 .started [(256, 3), (400, 1), (352, 0x200), (448, 7)]
def importCmd : Cmd := cmdOf 0x33 .started [(256, 3), (400, 1), (352, 0x200), (320, 1)]
def devExport : Dev := ledgered (devPageCmd [(4, 7)] exportCmd) [(0, entryOf .valid 7 0), (1, entryOf .retired 8 1), (2, entryOf .valid 6 0)] [] []
/-- A record of block 7 at DVA 0x240, which is there already, and of block 9. -/
def recordOf (block : Nat) : Line := BitVec.ofNat 1024 (block * 2 ^ 32 + 9 * 2 ^ 86)
def devImport (block : Nat) : Dev := ledgered (devPageCmd [(4, recordOf block)] importCmd) [(0, entryOf .valid 7 0)] [] []
/-- LDG_RECONCILE with eight records at DVA 0. -/
def reconcileCmd : Cmd := cmdOf 0x35 .started []
def devReconcile : Dev := ledgered (devPageCmd [(0, 0), (1, 0)] reconcileCmd) [(0, { entryOf .valid 7 0 with minted := true }), (1, entryOf .valid 8 0)] [] []

theorem witness_LedgerTransfersAndScrubs :
    (startedB devExport cid 0x33 exportCmd = true ∧ exportCmd.f 416 400 = 1 ∧ exportCmd.f 399 352 = 0x200 ∧ exportCmd.bit 320 = false ∧
     exportCmd.f 479 448 = 7 ∧ exportCmd.f 511 480 = 0 ∧ devExport.ldgStream 0 3 = some stream0 ∧
     ([entryOf .valid 7 0].Pairwise (fun e f => e.block ≤ f.block) ∧ ∀ e, e ∈ [entryOf .valid 7 0] ↔ ∃ k, (k, e) ∈ devExport.ledger.entries ∧
       e.stream = 3 ∧ 7 ≤ e.block ∧ (0 = 0 ∨ e.block < 0) ∧ (e.st = .valid ∨ e.st = .migrating)) ∧
     (devExport.ledger.entries.map (·.2)).Nodup ∧
     ∃ d1, devExport.agentWrite (devExport.cmdAgent exportCmd 0) true 0x200 ([entryOf .valid 7 0].flatMap (fun e => toLe 32 e.image)) = (.ok (), d1)) ∧
    (∀ b, b = 7 ∨ b = 9 → startedB (devImport b) cid 0x33 importCmd = true ∧ importCmd.bit 320 = true ∧ importCmd.f 416 400 = 1 ∧
     importCmd.f 399 352 = 0x200 ∧ leNat (toLe 32 (recordOf b).toNat) / 2 ^ 32 % 2 ^ 32 = b ∧
     fld (leNat (toLe 32 (recordOf b).toNat)) 127 86 * 64 = 0x240 ∧
     (match (devImport b).insertCheck 0 3 b with | .error k => b == 7 && k == 0x29 | .ok l => b == 9 && l == stream0 && (devImport b).ldgFree == some 1) = true ∧
     ∃ d1 d2, (devImport b).agentRead ((devImport b).cmdAgent importCmd 0) true 0x200 32 = (.ok (toLe 32 (recordOf b).toNat), d1) ∧
       d1.suppliedOk stream0 0x240 = (some false, d2)) ∧
    (let d := { ledgered (devCmd reconcileCmd) [] [] [] with mint := { pools := [(7, enqPool)], calls := [] } }
     startedB d cid 0x35 reconcileCmd = true ∧ reconcileCmd.f 303 256 = 0 ∧ (d.pool 0 7).valid = true) ∧
    (startedB devReconcile cid 0x35 reconcileCmd = true ∧ (List.range 8).all (fun i => !(devReconcile.pool 0 i).valid) = true ∧
     Tab.wf devReconcile.ledger.entries = true ∧
     (List.range 8).all (fun i => !(leNat (((toLe 256 0).drop (32 * i)).take 32)).testBit 255) = true ∧
     ∃ d1, devReconcile.agentRead (devReconcile.cmdAgent reconcileCmd 0) true 0 256 = (.ok (toLe 256 0), d1)) ∧
    ([0, 31].all (fun k => [0, 4095].all (fun row =>
       let d := { demo with ledger := { demo.ledger with entries := [(row * 32 + k, entryOf .valid 7 0)], streams := [(1023, stream0)], scrub := [(0, row)] } }
       d.plan.banks.getLsbD 0 && Tab.get d.ledger.scrub 0 0 == row && (Tab.get? d.ledger.entries (0 * 131072 + row * 32 + k)).any (fun e => e.st != .migrating) &&
       (Tab.get? d.ledger.streams 1023).isSome))) = true := by
  refine ⟨⟨by decide +kernel, by decide +kernel, by decide +kernel, by decide +kernel, by decide +kernel, by decide +kernel, by decide +kernel, ⟨by decide,
    fun e => ⟨fun h => ?_, fun h => ?_⟩⟩, by decide +kernel, ?_⟩, fun b h => ⟨?_, by decide +kernel, by decide +kernel, by decide +kernel, ?_, ?_, ?_, ?_⟩,
    by decide +kernel, ⟨by decide +kernel, by decide +kernel, by decide +kernel, by decide +kernel, ?_⟩, by decide +kernel⟩
  · rw [List.mem_singleton] at h
    subst h
    exact ⟨0, by decide +kernel, rfl, by decide, .inl rfl, .inl rfl⟩
  · obtain ⟨k, m, -, hb, -, hs⟩ := h
    simp [devExport, ledgered] at m
    obtain ⟨-, rfl⟩ | ⟨-, rfl⟩ | ⟨-, rfl⟩ := m
    · simp
    · simp [entryOf] at hs
    · simp [entryOf] at hb
  · obtain ⟨d1, -, -, h1, -⟩ := write_mapped (d := devExport) (mapped_of (lines := [(4, 7)]) rfl rfl rfl rfl) (a := devExport.cmdAgent exportCmd 0) rfl true
      (dva := 0x200) (bs := [entryOf .valid 7 0].flatMap (fun e => toLe 32 e.image)) (by decide +kernel)
    exact ⟨d1, h1⟩
  · obtain rfl | rfl := h <;> decide +kernel
  · obtain rfl | rfl := h <;> decide +kernel
  · obtain rfl | rfl := h <;> decide +kernel
  · obtain rfl | rfl := h <;> decide +kernel
  · obtain ⟨d1, m1, a1, h1⟩ := read_bytes (d := devImport b) (mapped_of (lines := [(4, recordOf b)]) rfl rfl rfl rfl)
      (a := (devImport b).cmdAgent importCmd 0) rfl true (dva := 0x200) (n := 32) (by obtain rfl | rfl := h <;> decide +kernel)
      (bs := toLe 32 (recordOf b).toNat) (by obtain rfl | rfl := h <;> decide +kernel)
    obtain ⟨d2, m2, a2, h2⟩ := translate_mapped m1 (dva := 0x240) (by decide) .write
    refine ⟨d1, d2, h1, ?_⟩
    simp [Dev.suppliedOk, stream0, Dev.xlate, Dev.ldgAgent, h2]
  · obtain ⟨d1, -, -, h1⟩ := read_bytes (d := devReconcile) (mapped_of (lines := [(0, 0), (1, 0)]) rfl rfl rfl rfl)
      (a := devReconcile.cmdAgent reconcileCmd 0) rfl true (dva := 0) (n := 256) (by decide +kernel) (bs := toLe 256 0) (by decide +kernel)
    exact ⟨d1, h1⟩

/-- A pass's header: one pixel, one draw, draw records at DVA 0x400, the list table at 0x600, cluster 0. -/
def headerNat : Nat := 2 ^ 240 + 2 ^ 226 + 2 ^ 212 + 0x400 * 2 ^ 256 + 0x600 * 2 ^ 304 + 2 ^ 128
/-- A draw of no vertices. -/
def drawNat : Nat := 4 * 2 ^ 248 + 2 ^ 220

theorem readDraw_mapped {d : Dev} (m : Mapped d) {a : Agent} (ha : a.ctx = 0) {p : Pass} {k : Nat} (hp : (p.h 303 256 + 128 * k) % 2 ^ 48 = 0x400)
    (h : pageOk d 0x400 128 = true) (hb : lineAt d 168 = { vaultLine with data := BitVec.ofNat 1024 drawNat }) :
    ∃ e, Mapped e ∧ Alike d e ∧ d.readDraw a p k = (.ok drawNat, e) := by
  obtain ⟨e, me, ae, he⟩ := read_bytes m ha false h (bs := toLe 128 drawNat) (by
    rw [show piecesOf 0x400 128 = [(0x400, 128)] by decide]
    simp only [List.flatMap_cons, List.flatMap_nil, List.append_nil]
    rw [show (0x5000 + 0x400) / 128 = 168 by decide, hb]
    decide +kernel)
  refine ⟨e, me, ae, ?_⟩
  simp only [Dev.readDraw, hp, he]
  rw [show leNat (toLe 128 drawNat) = drawNat by decide +kernel, show drawOk drawNat = true by decide +kernel,
    show (List.range 4).find? (fun i => !bindingOk (drawBinding drawNat i) (fld drawNat 247 245)) = none by decide +kernel]
  rfl

theorem closeLists_mapped {d : Dev} (m : Mapped d) {p : Pass} (hc : p.ctx = 0) (hl : p.lists = []) (ht : p.tileCount = 1)
    (hp : p.h 351 304 = 0x600) (h : pageOk d 0x600 8 = true) : ∃ e, d.closeLists p = (.ok (), e) := by
  obtain ⟨e, -, -, he, -⟩ := write_mapped m (a := d.tilerAgent p.part p.ctx) hc false (dva := 0x600) (bs := toLe 8 0) h
  refine ⟨e, ?_⟩
  simp [Dev.closeLists, hl, ht, hp, tryAll, he, ofAcc, List.range_succ]

/-- RND_PASS of the descriptor at DVA 0x200. -/
def passCmd : Cmd := cmdOf 0x40 .started [(256, 0x200)]
def devPass (hdr : Nat) : Dev :=
  devPageCmd [(4, BitVec.ofNat 1024 hdr), (5, 0), (8, BitVec.ofNat 1024 drawNat), (12, 0)] passCmd

/-- A pass of partition 0. -/
def passOf (final : Bool) (phase : PassPhase) (draw nextTile binned : Nat) : Pass :=
  { newPass cid 0 0 (BitVec.ofNat 512 headerNat) [0, 0, 0, 0] 1 with
    final := final, phase := phase, draw := draw, nextTile := nextTile, binned := binned }
def withPass (d : Dev) (x : Pass) (tiles : Tab Tile) : Dev := { d with render := { demo.render with passes := [(0, x)], tiles := tiles } }
/-- A device with the pass, the draw record, the list table with entry `first`, and a segment. -/
def devRound (x : Pass) (first seg : Nat) : Dev :=
  withPass (devPageCmd [(8, BitVec.ofNat 1024 drawNat), (12, BitVec.ofNat 1024 first), (13, BitVec.ofNat 1024 seg)] (cmdOf 0x40 .running [])) x []
theorem devRound_mapped (x : Pass) (first seg : Nat) : Mapped (devRound x first seg) :=
  mapped_of (lines := [(8, BitVec.ofNat 1024 drawNat), (12, BitVec.ofNat 1024 first), (13, BitVec.ofNat 1024 seg)]) rfl rfl rfl rfl

/-- A tile of core 0 with these quads. -/
def tileOf (quads : List Quad) : Tile := { part := 0, tile := 0, quads := quads, closed := [], nextGroup := 0, launches := [] }
def quadOf (x draw : Nat) : Quad := { x := x, y := 0, draw := draw, frags := [] }
def launchOver : Launch := { Launch.empty with groups := 0 }

theorem tile_mapped (x : Pass) (first seg : Nat) (hx : x = passOf true .rendering 0 0 0) (hs : first = 0 ∨ first = 0x680) (hq : seg = 2 ^ 48) :
    (first = 0 → ∃ y e, (devRound x first seg).renderTile 0 x 0 = (.ok y, e)) ∧
    (first = 0x680 → ∃ e, (devRound x first seg).renderTile 0 x 0 = (.error (.state 0x680), e)) := by
  subst hx hq
  have m := devRound_mapped (passOf true .rendering 0 0 0) first (2 ^ 48)
  obtain ⟨e, me, ae, he⟩ := read_bytes m (a := (devRound (passOf true .rendering 0 0 0) first (2 ^ 48)).pixelAgent 0 0 0) rfl false
    (dva := 0x600) (n := 8) (by obtain rfl | rfl := hs <;> decide +kernel) (bs := toLe 8 first) (by obtain rfl | rfl := hs <;> decide +kernel)
  have hl : (devRound (passOf true .rendering 0 0 0) first (2 ^ 48)).loadTile
      ((devRound (passOf true .rendering 0 0 0) first (2 ^ 48)).pixelAgent 0 0 0) 0 0 (passOf true .rendering 0 0 0) =
      (.ok (), devRound (passOf true .rendering 0 0 0) first (2 ^ 48)) := by
    have h1 : (passOf true .rendering 0 0 0).planes = [] := by decide +kernel
    have h2 : (passOf true .rendering 0 0 0).hasDepth = false := by decide +kernel
    simp [Dev.loadTile, h1, h2, tryAll]
  have ht : ((passOf true .rendering 0 0 0).h 351 304 + 8 * 0) % 2 ^ 48 = 0x600 := by decide +kernel
  have hc : (passOf true .rendering 0 0 0).part = 0 ∧ (passOf true .rendering 0 0 0).ctx = 0 := ⟨rfl, rfl⟩
  constructor
  · intro h
    subst h
    refine ⟨tileOf [], e, ?_⟩
    simp only [Dev.renderTile, hc.1, hc.2, show clusterOf 0 = 0 from rfl, hl, ht, he, show leNat (toLe 8 0) = 0 by decide, if_true, Dev.shadeList]
    rfl
  · intro h
    subst h
    obtain ⟨f, -, -, hf⟩ := read_bytes me (a := (devRound (passOf true .rendering 0 0 0) 0x680 (2 ^ 48)).pixelAgent 0 0 0) rfl false
      (dva := 0x680) (n := 8) (by rw [pageOk_alike ae]; decide +kernel) (bs := toLe 8 (2 ^ 48)) (by
        rw [show piecesOf 0x680 8 = [(0x680, 8)] by decide]; simp only [List.flatMap_cons, lineAt_alike ae]; decide +kernel)
    refine ⟨f, ?_⟩
    have hw : e.walkList ((devRound (passOf true .rendering 0 0 0) 0x680 (2 ^ 48)).pixelAgent 0 0 0) 0x680 none (2 ^ 34) = (.error (.state 0x680), f) := by
      rw [show (2 : Nat) ^ 34 = (2 ^ 34 - 1) + 1 by decide, Dev.walkList]
      simp only [show (0x680 : Nat) % 2 ^ 48 = 0x680 by decide, hf, show leNat (toLe 8 (2 ^ 48)) = 2 ^ 48 by decide,
        show (fld (2 ^ 48) 61 48 != 0) = true by decide, Bool.true_or, if_true]
    simp only [Dev.renderTile, hc.1, hc.2, show clusterOf 0 = 0 from rfl, hl, ht, he, show leNat (toLe 8 0x680) = 0x680 by decide]
    rw [if_neg (by decide)]
    simp only [hw]

theorem header_ok : passOk headerNat [0, 0, 0, 0] (maskOf 64 ((onesOf (BitVec.ofNat 64 (fld headerNat 191 128))).filter ((devPass headerNat).holds 0))) :=
  ⟨by decide +kernel, fun t h => by
    have : t = 0 := by simpa using h
    subst this
    decide +kernel, by decide +kernel, by decide +kernel⟩

theorem witness_RenderPassesRunInRoundsAndStoreTiles :
    (startedB (devCmd (cmdOf 0x40 .started [(256, 0x201)])) cid 0x40 (cmdOf 0x40 .started [(256, 0x201)]) = true ∧
     startedB (withPass (devCmd passCmd) (passOf true .dry 0 0 0) []) cid 0x40 passCmd = true ∧ passCmd.f 303 256 = 0x200) ∧
    (∀ h, h = 0 ∨ h = headerNat → startedB (devPass h) cid 0x40 passCmd = true ∧ Tab.has (devPass h).render.passes 0 = false ∧
      leNat ((toLe 128 h ++ toLe 64 0).take 64) = h ∧ (h = 0 → headerOk h = false) ∧
      (h = headerNat → passOk h [0, 0, 0, 0] (maskOf 64 ((onesOf (BitVec.ofNat 64 (fld h 191 128))).filter ((devPass h).holds 0))) ∧
        (List.range 4).map (fun t => BitVec.ofNat 256 (leNat (((toLe 128 h ++ toLe 64 0).drop (64 + 32 * t)).take 32))) = [0, 0, 0, 0] ∧
        fld h 255 240 = 1) ∧
      ∃ d1, ((devPass h).cmdRuns cid).agentRead ((devPass h).tilerAgent 0 0) false 0x200 192 = (.ok (toLe 128 h ++ toLe 64 0), d1) ∧
        (h = headerNat → ∃ d2 d3, ({ d1 with render := { d1.render with texels := Tab.keep d1.render.texels (fun k _ => !(1 : BitVec 64).getLsbD k) } }).readDraw
            ((devPass h).tilerAgent 0 0) (newPass cid 0 0 (BitVec.ofNat 512 h) [0, 0, 0, 0] 1) 0 = (.ok drawNat, d2) ∧ fld drawNat 287 256 = 0 ∧
          d2.closeLists { newPass cid 0 0 (BitVec.ofNat 512 h) [0, 0, 0, 0] 1 with draw := 1, final := true } = (.ok (), d3))) ∧
    -- a dry round: nothing binned, or something
    (∀ n, n = 0 ∨ n = 1 → let x := passOf false .dry 0 0 n
      let d := devRound x 0 0
      d.running = true ∧ Tab.get? d.render.passes 0 = some x ∧ (d.cmd? x.cmd).isSome = true ∧ d.render.waiting = [] ∧ x.pool = none ∧ x.depthTest = false ∧
      ∃ d1, (d.modTil 0 (fun t => { t with flushes := (t.flushes + 1) % 2 ^ 32 })).closeLists
        { passOf false .dry 0 0 n with flushes := (passOf false .dry 0 0 n).flushes + 1, final := false } = (.ok (), d1)) ∧
    -- the end of a round: the last, and one with a draw left
    (∀ f, f = true ∨ f = false → let x := passOf f .rendering 0 1 1
      let d := devRound x 0 0
      d.running = true ∧ Tab.get? d.render.passes 0 = some x ∧ (d.cmd? x.cmd).isSome = true ∧ x.tileCount = 1 ∧ x.h 255 240 = 1 ∧ d.render.tiles = [] ∧
      ∃ d2 d3, ({ d with render := { d.render with texels := Tab.keep d.render.texels (fun k _ => !x.set.getLsbD k) } }).readDraw
          (d.tilerAgent 0 0) { x with round := x.round + 1, lists := [], binned := 0, chunks := [], segs := 0, nextTile := 0 } 0 = (.ok drawNat, d2) ∧
        d2.closeLists { ({ x with round := x.round + 1, lists := [], binned := 0, chunks := [], segs := 0, nextTile := 0 } : Pass) with
          draw := 1, prim := 0, final := true } = (.ok (), d3)) ∧
    -- a tile handed out: its list is empty, or malformed
    (∀ first, first = 0 ∨ first = 0x680 → let x := passOf true .rendering 0 0 0
      let d := devRound x first (2 ^ 48)
      d.running = true ∧ Tab.get? d.render.passes 0 = some x ∧ x.tileCount = 1 ∧ d.tileCore x = some 0 ∧
      (first = 0 → ∃ y e, d.renderTile 0 x 0 = (.ok y, e)) ∧ (first = 0x680 → ∃ e, d.renderTile 0 x 0 = (.error (.state 0x680), e))) ∧
    -- a drained tile is stored
    (let x := passOf true .rendering 0 1 1
     let d := { withPass demo x [(0, { tileOf [] with launches := [(0, 7)] })] with launches := [(7, launchOver)] }
     d.running = true ∧ Tab.get? d.render.passes 0 = some x ∧ d.tileDrained { tileOf [] with launches := [(0, 7)] } = true ∧
     (d.storeTile (d.pixelAgent 0 0 0) 0 0 x).1.toOption = some ()) ∧
    -- a group closes
    ([1, 8, 9].all (fun n => ((List.range n).map (fun k => quadOf k (k / 3))) != [])) = true := by
  refine ⟨by decide +kernel, fun h k => ?_, fun n k => ?_, fun f k => ?_, fun first k => ?_, by decide +kernel, by decide +kernel⟩
  · have m : Mapped ((devPass h).cmdRuns cid) :=
      mapped_of (lines := [(4, BitVec.ofNat 1024 h), (5, 0), (8, BitVec.ofNat 1024 drawNat), (12, 0)]) rfl rfl rfl rfl
    obtain ⟨d1, m1, a1, h1⟩ := read_bytes m (a := (devPass h).tilerAgent 0 0) rfl false (dva := 0x200) (n := 192)
      (by obtain rfl | rfl := k <;> decide +kernel) (bs := toLe 128 h ++ toLe 64 0) (by obtain rfl | rfl := k <;> decide +kernel)
    refine ⟨by obtain rfl | rfl := k <;> decide +kernel, by obtain rfl | rfl := k <;> decide +kernel, by obtain rfl | rfl := k <;> decide +kernel,
      fun e => by subst e; decide +kernel, fun e => by subst e; exact ⟨header_ok, by decide +kernel, by decide +kernel⟩, d1, h1, fun e => ?_⟩
    subst e
    have m2 : Mapped ({ d1 with render := { d1.render with texels := Tab.keep d1.render.texels (fun k _ => !(1 : BitVec 64).getLsbD k) } } : Dev) :=
      ⟨m1.ctx, m1.wins, m1.size, m1.txns, m1.miss, m1.resps, m1.dir, m1.tlb, m1.outer, m1.t4, m1.t3, m1.t2, m1.t1⟩
    obtain ⟨d2, m3, a3, h3⟩ := readDraw_mapped m2 (a := (devPass headerNat).tilerAgent 0 0) rfl
      (p := newPass cid 0 0 (BitVec.ofNat 512 headerNat) [0, 0, 0, 0] 1) (k := 0) (by decide +kernel)
      (show pageOk d1 0x400 128 = true by rw [pageOk_alike a1]; decide +kernel)
      (show lineAt d1 168 = _ by rw [lineAt_alike a1]; decide +kernel)
    obtain ⟨d3, h4⟩ := closeLists_mapped m3 (p := { newPass cid 0 0 (BitVec.ofNat 512 headerNat) [0, 0, 0, 0] 1 with draw := 1, final := true }) rfl rfl
      (by decide +kernel) (by decide +kernel)
      (by rw [pageOk_alike a3]; exact (show pageOk d1 0x600 8 = true by rw [pageOk_alike a1]; decide +kernel))
    exact ⟨d2, d3, h3, by decide +kernel, h4⟩
  · refine ⟨rfl, rfl, by obtain rfl | rfl := k <;> decide +kernel, rfl, rfl, by obtain rfl | rfl := k <;> decide +kernel, ?_⟩
    exact closeLists_mapped
      (d := (devRound (passOf false .dry 0 0 n) 0 0).modTil 0 (fun t => { t with flushes := (t.flushes + 1) % 2 ^ 32 }))
      (mapped_of (lines := [(8, BitVec.ofNat 1024 drawNat), (12, BitVec.ofNat 1024 0), (13, BitVec.ofNat 1024 0)]) rfl rfl rfl rfl)
      (p := { passOf false .dry 0 0 n with flushes := (passOf false .dry 0 0 n).flushes + 1, final := false }) rfl rfl (by obtain rfl | rfl := k <;> decide +kernel) (by obtain rfl | rfl := k <;> decide +kernel) (by obtain rfl | rfl := k <;> decide +kernel)
  · refine ⟨rfl, rfl, by obtain rfl | rfl := k <;> decide +kernel, by obtain rfl | rfl := k <;> decide +kernel,
      by obtain rfl | rfl := k <;> decide +kernel, rfl, ?_⟩
    obtain ⟨d2, m2, a2, h2⟩ := readDraw_mapped (d := { devRound (passOf f .rendering 0 1 1) 0 0 with
        render := { (devRound (passOf f .rendering 0 1 1) 0 0).render with
          texels := Tab.keep (devRound (passOf f .rendering 0 1 1) 0 0).render.texels (fun k _ => !(passOf f .rendering 0 1 1).set.getLsbD k) } })
      (mapped_of (lines := [(8, BitVec.ofNat 1024 drawNat), (12, BitVec.ofNat 1024 0), (13, BitVec.ofNat 1024 0)]) rfl rfl rfl rfl)
      (a := (devRound (passOf f .rendering 0 1 1) 0 0).tilerAgent 0 0) rfl
      (p := { passOf f .rendering 0 1 1 with round := (passOf f .rendering 0 1 1).round + 1, lists := [], binned := 0, chunks := [], segs := 0, nextTile := 0 })
      (k := 0) (by obtain rfl | rfl := k <;> decide +kernel) (by obtain rfl | rfl := k <;> decide +kernel) (by obtain rfl | rfl := k <;> decide +kernel)
    obtain ⟨d3, h3⟩ := closeLists_mapped m2 (p := { ({ passOf f .rendering 0 1 1 with
          round := (passOf f .rendering 0 1 1).round + 1, lists := [], binned := 0, chunks := [], segs := 0, nextTile := 0 } : Pass) with
          draw := 1, prim := 0, final := true }) rfl rfl (by obtain rfl | rfl := k <;> decide +kernel)
      (by obtain rfl | rfl := k <;> decide +kernel) (by rw [pageOk_alike a2]; obtain rfl | rfl := k <;> decide +kernel)
    exact ⟨d2, d3, h2, h3⟩
  · refine ⟨rfl, rfl, by decide +kernel, by obtain rfl | rfl := k <;> decide +kernel, ?_⟩
    exact tile_mapped _ first _ rfl k rfl

/-- Lane 0 with the record's offset in w1, the root in w2 and w3 and the ray in w8 to w15. -/
def coreRay (off root : Nat) (ws : List Nat) (wait : Wait) : Core :=
  let regs := [(1, BitVec.ofNat 32 off), (2, BitVec.ofNat 32 root), (3, BitVec.ofNat 32 (root / 2 ^ 32))] ++
    (ws.zipIdx).map (fun e => (8 + e.2, BitVec.ofNat 32 e.1))
  coreOf [(0, { Group.empty with regs := regs })] [(0, { ready [(0, 0)] with wait := wait })]
def rayqWord : BitVec 64 := word 0x6C 0xFF 8 2 1 0
def raywWord : BitVec 64 := word 0x6D 0xFF 0xFF 0xFF 0xFF 0x100
/-- A ray from the origin along x, to distance 1; and one with no direction. -/
def goodRay : List Nat := [0, 0, 0, 0x3F800000, 0, 0, 0, 0x3F800000]
/-- A ray of lane 0 of core 0 with QID 0. -/
def rayOf (items : List RayItem) (done : Bool) : Ray :=
  { core := 0, launch := 0, gindex := 0, lane := 0, sub := 0, part := 0, ctx := 0, words := goodRay, off := 992, before := List.replicate 32 0
    items := items, fetches := 0, invalid := false, hit := none, done := done, stuck := false }
def nodeItem (kind depth : Nat) : RayItem :=
  { ref := kind * 2 ^ 62 + 0x200, depth := depth, lo := [], hi := [], near := ⟨0, 1⟩ }
def withRays (d : Dev) (rays : List Ray) : Dev := { d with rays := { demo.rays with rays := rays } }

theorem ray_resident (off root : Nat) (ws : List Nat) (rays : List Ray) :
    Resident (withRays (devOf (coreRay off root ws .ready)) rays) 0 := by
  intro x m e k
  simp [withRays, devOf, Dev.core, Tab.get, Tab.get?, coreRay, coreOf] at m
  subst m
  simp [ready] at k
  subst k
  rfl

/-- The page device with a ray that visits the node at DVA 0x200. -/
def devRay (line : Line) (it : RayItem) : Dev := withRays (devPage [(4, line)]) [rayOf [it] false]

theorem rayLine_of {d : Dev} (m : Mapped d) {q : Ray} (hq : q.ctx = 0) (hc : d.rays.cache = []) {v : Nat}
    (h : pageOk d 0x200 128 = true) (hl : lineBytes (lineAt d 164).data 0 128 = toLe 128 v) (hv : (lineOf (toLe 128 v)).toNat = v) :
    ∃ d1, d.rayLine q 0x200 false = (.ok v, d1) := by
  have m0 : Mapped ({ d with free := d.free + 1 } : Dev) :=
    ⟨m.ctx, m.wins, m.size, m.txns, m.miss, m.resps, m.dir, m.tlb, m.outer, m.t4, m.t3, m.t2, m.t1⟩
  have a0 := count_alike ({ d with free := d.free + 1 } : Dev) (0x64000 + 128 * q.cluster + 8 * 10) 1
  obtain ⟨e, me, ae, he⟩ := read_bytes (m0.alike a0 (by rw [count_mmu]; exact m0.tlb)) (a := Dev.rayAgent { d with free := d.free + 1 } q) hq false
    (dva := 0x200) (n := 128) (by rw [pageOk_alike a0]; exact h) (bs := toLe 128 v) (by
      rw [show piecesOf 0x200 128 = [(0x200, 128)] by decide]
      simp only [List.flatMap_cons, lineAt_alike a0, List.flatMap_nil, List.append_nil]
      exact hl)
  have he' : (({ d with free := d.free + 1 } : Dev).countCluster q.cluster 10 1).agentRead
      (Dev.rayAgent { d with free := d.free + 1 } q) false 0x200 128 = (.ok (toLe 128 v), e) := he
  refine ⟨e.modRays (fun u => { u with cache := Tab.put u.cache q.cluster (Tab.put (Tab.get u.cache q.cluster []) (q.ctx * 2 ^ 41 + 0x200 / 128)
      { data := lineOf (toLe 128 v), filled := e.time.ts }) }), ?_⟩
  have hn : Tab.get? (Tab.get d.rays.cache q.cluster []) (q.ctx * 2 ^ 41 + 0x200 / 128) = none := by rw [hc]; rfl
  simp only [Dev.rayLine, hn, Bool.false_eq_true, if_false]
  simp only [he', hv]

theorem devRay_line (v : Nat) (hv : v = 0 ∨ v = 2 ^ 120) (it : RayItem) (q : Ray) (hq : q.ctx = 0) :
    ∃ d1, ({ devRay (BitVec.ofNat 1024 v) it with free := (devRay (BitVec.ofNat 1024 v) it).free + 1 } : Dev).rayLine q 0x200 false = (.ok v, d1) := by
  refine rayLine_of (d := { devRay (BitVec.ofNat 1024 v) it with free := (devRay (BitVec.ofNat 1024 v) it).free + 1 }) (mapped_of (lines := [(4, BitVec.ofNat 1024 v)]) rfl rfl rfl rfl) hq rfl ?_ ?_ ?_
  · show pageOk (devPage [(4, BitVec.ofNat 1024 v)]) 0x200 128 = true
    obtain rfl | rfl := hv <;> decide +kernel
  · show lineBytes (lineAt (devPage [(4, BitVec.ofNat 1024 v)]) 164).data 0 128 = _
    obtain rfl | rfl := hv <;> decide +kernel
  · obtain rfl | rfl := hv <;> decide +kernel

theorem witness_RayQueriesAreAcceptedAndReport :
    -- RAYQ: a record that is misaligned, beyond local store, its last
    (∀ off root ws rays, Resident (withRays (devOf (coreRay off root ws .ready)) rays) 0) ∧
    ([1, 1024, 992].all (fun off =>
       let d := devOf (coreRay off 0 goodRay .ready)
       canB d (ready [(0, 0)]) && legal rayqWord 0x6C && decide (actives d (issue rayqWord) (ready [(0, 0)]) = [(0, 0)]) &&
       d.recordDva (issue rayqWord) (0, 0) == 0xFF0000000000 + off &&
       d.onchipPlace 0 0 (0xFF0000000000 + off) 32 true == (if off = 992 then some (.ls 992) else if off = 1 then some (.ls 1) else none))) = true ∧
    -- RAY_ACCEPT: an invalid ray, a ray with a good root, one with a bad root
    ([([], 0), (goodRay, 2 ^ 62 + 0x200), (goodRay, 0), (goodRay, 2 ^ 62 + 1)].all (fun e =>
       let st := { ready [(0, 0)] with wait := Wait.op rayqWord [0] [] }
       let d := devOf (coreRay 992 e.2 e.1 (.op rayqWord [0] []))
       d.strand? 0 0 == some st && opcOf rayqWord == 0x6C && d.running && d.rays.rays.isEmpty && d.readP 0 0 0 (srcbOf rayqWord) == e.2 &&
       rayInvalid ((List.range 8).map (fun k => d.readW 0 0 0 (srcaOf rayqWord + k))) == e.1.isEmpty &&
       (e.2 / 2 ^ 62 % 4 == 1 && !badRef e.2) == (e.2 == 2 ^ 62 + 0x200))) = true ∧
    -- RAYW: no query pending, one
    ([[], [rayOf [] false]].all (fun rays =>
       let d := withRays (devOf (coreRay 992 0 goodRay .ready)) rays
       canB d (ready [(0, 0)]) && legal raywWord 0x6D && decide (actives d (issue raywWord) (ready [(0, 0)]) = [(0, 0)]) &&
       rays.all (fun r => r.launch == (d.group 0 0).launch && r.gindex == (d.group 0 0).index && r.core == 0 && r.lane == 0 &&
         (subOf raywWord).testBit (8 + r.qid)))) = true ∧
    -- a line: of a node too deep, a malformed node, an empty node
    ((devRay 0 (nodeItem 1 32)).running = true ∧ (devRay 0 (nodeItem 1 32)).rays.rays[0]? = some (rayOf [nodeItem 1 32] false) ∧
     (nodeItem 1 32).ref / 2 ^ 62 % 4 = 1) ∧
    (∀ v, v = 0 ∨ v = 2 ^ 120 →
      (devRay (BitVec.ofNat 1024 v) (nodeItem 1 31)).running = true ∧
      (devRay (BitVec.ofNat 1024 v) (nodeItem 1 31)).rays.rays[0]? = some (rayOf [nodeItem 1 31] false) ∧ refDva (nodeItem 1 31).ref = 0x200 ∧
      ((nodeItem 1 31).ref / 2 ^ 62 % 4 == 3) = false ∧
      (∃ d1, ({ devRay (BitVec.ofNat 1024 v) (nodeItem 1 31) with free := (devRay (BitVec.ofNat 1024 v) (nodeItem 1 31)).free + 1 } : Dev).rayLine
        { rayOf [nodeItem 1 31] false with items := [] } 0x200 false = (.ok v, d1)) ∧
      ∀ fr, if v = 0 then ∃ r' n, ({ ({ rayOf [nodeItem 1 31] false with items := [] } : Ray) with fetches := 1 }).step (nodeItem 1 31) v fr = some (r', n)
        else ({ ({ rayOf [nodeItem 1 31] false with items := [] } : Ray) with fetches := 1 }).step (nodeItem 1 31) v fr = none) ∧
    -- a record is written, with a lane that waits for it
    (let st := { ready [(0, 0)] with wait := Wait.op raywWord [0] [] }
     let d := withRays (devOf { coreRay 992 0 goodRay (.op raywWord [0] []) with lsZero := [0] }) [rayOf [] true]
     d.running = true ∧ d.rays.rays[0]? = some (rayOf [] true) ∧ (d.onchipRead 0 0 32 (.ls 992) == (rayOf [] true).before) = true ∧
     d.strand? 0 0 = some st ∧ Tab.wf (d.core 0).strands = true ∧ opcOf raywWord = 0x6D ∧
     ({ d with rays := { d.rays with rays := [] } } : Dev).rayPending 0 raywWord 0 0 = false) := by
  refine ⟨ray_resident, by decide +kernel, by decide +kernel, by decide +kernel, by decide +kernel, fun v h => ⟨rfl, rfl, by decide +kernel, by decide +kernel,
    devRay_line v h _ _ rfl, fun fr => ?_⟩, by decide +kernel⟩
  have hk : fld (nodeItem 1 31).ref 63 62 = 1 := by decide +kernel
  obtain rfl | rfl := h
  · rw [if_pos rfl]
    exact ⟨_, _, by simp only [Ray.step, hk]; rw [if_neg (by decide +kernel)]⟩
  · rw [if_neg (by decide +kernel)]
    simp only [Ray.step, hk]
    rw [if_pos (by decide +kernel)]

/-- A stream's descriptor: RAW8, one pixel, one line, one buffer of 128 bytes, delivery tally 16383. -/
def cfgNat (base : Nat) (fields : List (Nat × Nat)) : Nat :=
  0x2A * 2 ^ 290 + 2 ^ 352 + 2 ^ 338 + 16 * 2 ^ 366 + 128 * 2 ^ 384 + base * 2 ^ 416 + 16383 * 2 ^ 320 + (fields.map (fun e => e.2 * 2 ^ e.1)).sum
def cfgOf (base : Nat) (fields : List (Nat × Nat)) : IngCfg := { desc := BitVec.ofNat 512 (cfgNat base fields), ctx := 0, part := 0 }

/-- Port 7 of partition 0, with stream 3. -/
def portOf (up : Bool) (y : IngStream) : IngPort := { IngPort.unbound with bound := some 0, up := up, streams := [(3, y)] }
def withPort (d : Dev) (p : IngPort) : Dev := { d with ports := [(7, p)] }

/-- ING_CONFIG of port 7, stream 3, with the descriptor at DVA 0x100. -/
def ingCmd (en : Nat) : Cmd := cmdOf 0x50 .started [(256, 0x100), (304, 7), (307, 3), (309, en)]
/-- The page device that holds the descriptor, with the tally. -/
def devIng (base : Nat) (fields : List (Nat × Nat)) (y : IngStream) : Dev :=
  { devPageCmd [(2, BitVec.ofNat 1024 (cfgNat base fields))] (ingCmd 1) with
    tly := { demo.tly with tallies := [(16383, tally)] }, ports := [(7, portOf true y)] }
theorem devIng_mapped (base : Nat) (fields : List (Nat × Nat)) (y : IngStream) : Mapped (devIng base fields y) :=
  mapped_of (lines := [(2, BitVec.ofNat 1024 (cfgNat base fields))]) rfl rfl rfl rfl

/-- The descriptor is read. -/
theorem ing_read (base : Nat) (fields : List (Nat × Nat)) (y : IngStream) (v : Nat)
    (h : lineBytes (BitVec.ofNat 1024 (cfgNat base fields)) 0 64 = toLe 64 v) :
    ∃ d1, Mapped d1 ∧ Alike (devIng base fields y) d1 ∧
      (devIng base fields y).agentRead ((devIng base fields y).cmdAgent (ingCmd 1) 0) true 0x100 64 = (.ok (toLe 64 v), d1) :=
  read_bytes (devIng_mapped base fields y) (a := (devIng base fields y).cmdAgent (ingCmd 1) 0) rfl true (dva := 0x100) (n := 64)
    (by
      show pageOk (devPage [(2, BitVec.ofNat 1024 (cfgNat base fields))]) 0x100 64 = true
      rfl)
    (by
      rw [show piecesOf 0x100 64 = [(0x100, 64)] by decide]
      show lineBytes (BitVec.ofNat 1024 (cfgNat base fields)) 0 64 ++ [] = _
      rw [h, List.append_nil])

/-- A range in the page maps; one in the on-chip window does not. -/
theorem maps_page {d : Dev} (m : Mapped d) (c : IngCfg) (hc : c.ctx = 0) : ∃ d2, d.allMapped (d.ingAgent 7 c) [0] = (true, d2) := by
  obtain ⟨e, -, -, h⟩ := translate_mapped m (dva := 0) (by decide) .write
  refine ⟨e, ?_⟩
  simp [Dev.allMapped, Dev.mapsToDram, Dev.xlate, Dev.ingAgent, hc, h]
theorem maps_not (d : Dev) (a : Agent) : ∃ d2, d.allMapped a [0xFF0000000000] = (false, d2) := by
  refine ⟨(d.allMapped a [0xFF0000000000]).2, Prod.ext ?_ rfl⟩
  simp only [Dev.allMapped, Dev.mapsToDram, Dev.xlate, Dev.translate, show fld 0xFF0000000000 47 40 = 0xFF by decide, if_true]

theorem witness_StreamsAreConfigured :
    (startedB (devCmd (ingCmd 0)) cid 0x50 (ingCmd 0) = true ∧ ((devCmd (ingCmd 0)).port 7).bound = none ∧ (ingCmd 0).f 306 304 = 7 ∧ (ingCmd 0).f 308 307 = 3) ∧
    -- a disable of an idle stream, and of another
    ([IngStream.idle, { IngStream.idle with cfg := some (cfgOf 0x200 []) }].all (fun y =>
       startedB (withPort (devCmd (ingCmd 0)) (portOf true y)) cid 0x50 (ingCmd 0) && !(ingCmd 0).bit 309 &&
       (withPort (devCmd (ingCmd 0)) (portOf true y)).stream 7 3 == y && y.pend.isEmpty)) = true ∧
    -- descriptors: bad, of tile memory, mapped, unmapped
    (∀ e : Nat × List (Nat × Nat), e = (0x201, []) ∨ e = (0x200, [(304, 1)]) ∨ e = (0x200, []) ∨ e = (0xFF0000000000, []) →
      startedB (devIng e.1 e.2 IngStream.idle) cid 0x50 (ingCmd 1) = true ∧ ((devIng e.1 e.2 IngStream.idle).port 7).bound = some 0 ∧
      (ingCmd 1).bit 309 = true ∧ (ingCmd 1).f 303 256 = 0x100 ∧
      BitVec.ofNat 512 (leNat (toLe 64 (cfgNat e.1 e.2))) = (cfgOf e.1 e.2).desc ∧ (cfgOf e.1 e.2).bad = decide (e.1 = 0x201) ∧
      (devIng e.1 e.2 IngStream.idle).tallyOwned 0 ((cfgOf e.1 e.2).f 333 320) = true ∧ (cfgOf e.1 e.2).desc.toNat.testBit 305 = false ∧
      (devIng e.1 e.2 IngStream.idle).streamClash 7 3 (cfgOf e.1 e.2) = false ∧ (cfgOf e.1 e.2).tile = decide (e.2 = [(304, 1)]) ∧
      (devIng e.1 e.2 IngStream.idle).heldBy 0 (cfgOf e.1 e.2).cluster = true ∧
      (devIng e.1 e.2 IngStream.idle).meetsHot (cfgOf e.1 e.2).cluster (cfgOf e.1 e.2).base = false ∧
      ∃ d1, (devIng e.1 e.2 IngStream.idle).agentRead ((devIng e.1 e.2 IngStream.idle).cmdAgent (ingCmd 1) 0) true 0x100 64 =
          (.ok (toLe 64 (cfgNat e.1 e.2)), d1) ∧
        (e = (0x200, []) → ∃ d2, d1.allMapped (d1.ingAgent 7 (cfgOf e.1 e.2)) (pagesOf (cfgOf e.1 e.2).base (cfgOf e.1 e.2).span) = (true, d2)) ∧
        (e = (0xFF0000000000, []) →
          ∃ d2, d1.allMapped (d1.ingAgent 7 (cfgOf e.1 e.2)) (pagesOf (cfgOf e.1 e.2).base (cfgOf e.1 e.2).span) = (false, d2))) ∧
    -- a link
    ((withPort demo (portOf false IngStream.idle)).port 7 = portOf false IngStream.idle ∧ demo.mgmt.reqs = []) ∧
    (OnlyStream (withPort demo (portOf true { IngStream.idle with cfg := some (cfgOf 0x200 []), frame := some ⟨0, 0, 0, true, 0, 0, 0, false, false, false, [], 0⟩ }))
      7 3 (cfgOf 0x200 [])) := by
  refine ⟨by decide +kernel, by decide +kernel, fun e h => ⟨?_, ?_, ?_, ?_, ?_, ?_, ?_, ?_, ?_, ?_, ?_, ?_, ?_⟩, by decide +kernel, ?_⟩
  case refine_13 =>
    obtain ⟨d1, m1, a1, h1⟩ := ing_read e.1 e.2 IngStream.idle (cfgNat e.1 e.2) (by obtain rfl | rfl | rfl | rfl := h <;> decide +kernel)
    refine ⟨d1, h1, fun k => ?_, fun k => ?_⟩
    · subst k
      rw [show pagesOf (cfgOf 0x200 []).base (cfgOf 0x200 []).span = [0] by decide +kernel]
      exact maps_page m1 _ rfl
    · subst k
      rw [show pagesOf (cfgOf 0xFF0000000000 []).base (cfgOf 0xFF0000000000 []).span = [0xFF0000000000] by decide +kernel]
      exact maps_not _ _
  case refine_14 => exact ⟨by decide, rfl, rfl, rfl, fun j hj => by
      have : ∀ x, (withPort demo (portOf true x)).stream 7 j = IngStream.idle := fun x => by
        simp [withPort, Dev.stream, Dev.port, Tab.get, portOf, Tab.get?, hj.symm]
      rw [this]; exact ⟨rfl, rfl, rfl⟩⟩
  all_goals obtain rfl | rfl | rfl | rfl := h <;> decide +kernel

/-- A frame in progress at line `y`. -/
def frameAt (y boundaries : Nat) : InFrame := ⟨0, 0, 0, true, y, 0, 0, false, false, false, [], boundaries⟩
/-- Stream 3 of port 7 with this configuration and frame, after `n` frames. -/
def streamOf (c : IngCfg) (f : Option InFrame) (n : Nat) : IngStream := { IngStream.idle with cfg := some c, frame := f, delivered := n }
/-- The page device with the tally and the stream. -/
def devFrame (c : IngCfg) (f : Option InFrame) (n : Nat) : Dev :=
  { devPage [(4, 0)] with tly := { demo.tly with tallies := [(16383, tally)] }, ports := [(7, portOf true (streamOf c f n))] }

theorem only_stream (c : IngCfg) (f : Option InFrame) (n : Nat) : OnlyStream (devFrame c f n) 7 3 c :=
  ⟨by decide, rfl, rfl, rfl, fun j hj => by
    have : (devFrame c f n).stream 7 j = IngStream.idle := by
      simp [devFrame, Dev.stream, Dev.port, Tab.get, portOf, Tab.get?, hj.symm]
    rw [this]; exact ⟨rfl, rfl, rfl⟩⟩

/-- The device once the line is counted. -/
def lineStream : IngStream := streamOf (cfgOf 0x200 []) (some { frameAt 0 0 with y := 1, lines := 1 }) 0
def devLine : Dev :=
  let d := devFrame (cfgOf 0x200 []) (some (frameAt 0 0)) 0
  { d with ports := Tab.put d.ports 7 { d.port 7 with streams := Tab.put (d.port 7).streams 3 lineStream } }

theorem witness_FramesAreReceived :
    (∀ c f n, OnlyStream (devFrame c f n) 7 3 c ∧ (devFrame c f n).stream 7 3 = streamOf c f n ∧ (devFrame c f n).running = true) ∧
    -- a Frame Start: without and with an EMPTY tally, which is behind or not
    ([cfgOf 0x200 [], cfgOf 0x200 [(286, 15), (305, 1), (306, 16383)]].all (fun c => [0, 1, 5, 6].all (fun n =>
       decide (c.vc < 16) && !c.tile && (devFrame c none n).tallyOwned c.part 16383 &&
       (!c.desc.toNat.testBit 305 || ((c.f 319 306 == 16383) && (decide (c.bufs ≤ n) == decide (n ≠ 0)) &&
         (n == 0 || serialGe ((devFrame c none n).tally 16383).value.toNat ((n + 1 - c.bufs) % 2 ^ 64) 64 == decide (n ≤ 5))))))) = true ∧
    -- a line: past the last, of a frame in tile memory, of a frame in memory
    ((cfgOf 0x200 []).height = 1 ∧ (cfgOf 0x200 []).out = 0 ∧ (frameAt 1 0).written = true ∧ (frameAt 1 0).y = 1 ∧ (frameAt 0 0).y = 0) ∧
    ((cfgOf 0x200 [(304, 1)]).tile = true ∧ (cfgOf 0x200 [(304, 1)]).out = 0 ∧ TilesOk (devFrame (cfgOf 0x200 [(304, 1)]) (some (frameAt 0 0)) 0)) ∧
    ((cfgOf 0x200 []).tile = false ∧ (cfgOf 0x200 []).buffer (frameAt 0 0).index + (frameAt 0 0).y * (cfgOf 0x200 []).pitch = 0x200 ∧
     ∃ d1, devLine.agentWrite ((devFrame (cfgOf 0x200 []) (some (frameAt 0 0)) 0).ingAgent 7 (cfgOf 0x200 [])) true 0x200 [5] = (.ok (), d1)) ∧
    -- its end
    ((cfgOf 0x200 []).f 511 464 = 0 ∧ (devFrame (cfgOf 0x200 []) (some (frameAt 1 2)) 0).tallyOwned 0 ((cfgOf 0x200 []).f 333 320) = true ∧
     2 ≤ (frameAt 1 2).boundaries) := by
  refine ⟨fun c f n => ⟨only_stream c f n, rfl, rfl⟩, by decide +kernel, by decide +kernel, ⟨by decide +kernel, by decide +kernel, fun _ => rfl⟩,
    ⟨by decide +kernel, by decide +kernel, ?_⟩, by decide +kernel⟩
  obtain ⟨d1, -, -, h, -⟩ := write_mapped (d := devLine) (mapped_of (lines := [(4, 0)]) rfl rfl rfl rfl)
    (a := (devFrame (cfgOf 0x200 []) (some (frameAt 0 0)) 0).ingAgent 7 (cfgOf 0x200 [])) rfl true (dva := 0x200) (bs := [5]) (by decide +kernel)
  exact ⟨d1, h⟩

/-- Engine 0 or 1, of 64 by 2 pixels, bound to partition 0 in layer 6. -/
def engineOf (running : Bool) (mode : Nat) : Engine :=
  { Engine.empty with mode := BitVec.ofNat 256 (64 * 2 ^ 176 + 2 * 2 ^ 128 + mode), running := running, bound := [(6, 0)] }
/-- A layer of one pixel at `base`. -/
def layerNat (base : Nat) : Nat := base * 2 ^ 464 + 64 * 2 ^ 446 + 2 ^ 432 + 2 ^ 418 + 2 ^ 354 + 2 ^ 342 + 2 ^ 286
def layerOf (base : Nat) : Layer := { desc := BitVec.ofNat 512 (layerNat base), ctx := 0, part := 0, fillHold := false, fillNow := false }

/-- CMP_COMMIT of layer 6 of engine 1; its descriptor is at DVA 0x80 + 64 × 6. -/
def commitCmd : Cmd := cmdOf 0x58 .started [(256, 0x80), (304, 1), (312, 1)]
def devCommit (base : Nat) (running : Bool) : Dev :=
  { devPageCmd [(4, BitVec.ofNat 1024 (layerNat base))] commitCmd with engines := [(1, engineOf running 0)] }
theorem devCommit_mapped (base : Nat) (running : Bool) : Mapped (devCommit base running) :=
  mapped_of (lines := [(4, BitVec.ofNat 1024 (layerNat base))]) rfl rfl rfl rfl

theorem commit_read (base : Nat) (running : Bool) (h : base = 0x201 ∨ base = 0x200 ∨ base = 0xFF0000000000) :
    ∃ d1, Mapped d1 ∧ (devCommit base running).readLayers ((devCommit base running).cmdAgent commitCmd 0) 0 0 0x80 [6] = (.ok [(6, layerOf base)], d1) := by
  obtain ⟨d1, m1, a1, h1⟩ := read_bytes (devCommit_mapped base running) (a := (devCommit base running).cmdAgent commitCmd 0) rfl true (dva := 0x200)
    (n := 64) (show pageOk (devPage [(4, BitVec.ofNat 1024 (layerNat base))]) 0x200 64 = true from rfl) (bs := toLe 64 (layerNat base)) (by
      rw [show piecesOf 0x200 64 = [(0x200, 64)] by decide]
      show lineBytes (BitVec.ofNat 1024 (layerNat base)) 0 64 ++ [] = _
      obtain rfl | rfl | rfl := h <;> decide +kernel)
  refine ⟨d1, m1, ?_⟩
  simp only [Dev.readLayers, h1, show (0x80 + 64 * 6 : Nat) = 0x200 by decide]
  rw [show BitVec.ofNat 512 (leNat (toLe 64 (layerNat base))) = (layerOf base).desc by obtain rfl | rfl | rfl := h <;> decide +kernel]
  rfl

theorem layer_maps {d : Dev} (m : Mapped d) : ∃ d2, d.layersMapped 1 [(6, layerOf 0x200)] = (true, d2) := by
  obtain ⟨e, -, -, h⟩ := translate_mapped m (dva := 0) (by decide) .read
  refine ⟨e, ?_⟩
  rw [Dev.layersMapped, show (layerOf 0x200).tile = false by decide +kernel, show (layerOf 0x200).pages = [0] by decide +kernel]
  simp only [Bool.false_eq_true, if_false, Dev.allReadable, Dev.xlate, Dev.cmpAgent, show (layerOf 0x200).ctx = 0 from rfl, h, Dev.layersMapped]
theorem layer_maps_not (d : Dev) : ∃ d2, d.layersMapped 1 [(6, layerOf 0xFF0000000000)] = (false, d2) := by
  refine ⟨(d.layersMapped 1 [(6, layerOf 0xFF0000000000)]).2, Prod.ext ?_ rfl⟩
  rw [Dev.layersMapped, show (layerOf 0xFF0000000000).tile = false by decide +kernel,
    show (layerOf 0xFF0000000000).pages = [0xFF0000000000] by decide +kernel]
  simp only [Bool.false_eq_true, if_false, Dev.allReadable, Dev.xlate, Dev.translate, show fld 0xFF0000000000 47 40 = 0xFF by decide, if_true]

/-- CMP_COEF with 1,536 bytes at DVA 0x100: 256 in the first coefficient of each phase, or nothing. -/
def coefCmd : Cmd := cmdOf 0x59 .started [(256, 0x100), (306, 3)]
def coefBytes (one : Nat) : List Byte := (List.replicate 64 (toLe 16 one)).flatten ++ (List.replicate 64 (toLe 8 one)).flatten
def coefLines (one : Nat) : Tab Line := (List.range 12).map (fun k => (k + 2, lineOf ((coefBytes one).drop (128 * k))))
def devCoef (one : Nat) : Dev := devPageCmd (coefLines one) coefCmd

/-- CMP_STRONG of one pixel at DVA 0x200 with this CRC, for a partition that holds safety. -/
def strongCmd (en crc : Nat) : Cmd := cmdOf 0x5A .started [(256, 0x200), (305, en), (390, 1), (402, 1), (414, 4), (432, crc)]
def safePart : Part := { Part.zero with wins := [(0, { v := true, w := true, base := 0, size := 1 })], held := 1, cfg := { Part.zero.cfg with valid := true, safety := true } }
def devStrong (en crc : Nat) : Dev :=
  { devPageCmd [(4, 7)] (strongCmd en crc) with engines := [(0, engineOf true 0)], parts := [(0, safePart)] }
theorem devStrong_mapped (en crc : Nat) : Mapped (devStrong en crc) :=
  ⟨rfl, rfl, rfl, rfl, rfl, rfl, rfl, (by intro t h; cases h), rfl, rfl, rfl, rfl, rfl⟩

/-- Three commands that wait for the latch of engine 0. -/
def latchEngine : Engine :=
  { engineOf true 0 with
    scanning := true, commits := [⟨cid, [(6, layerOf 0x200)]⟩], coefPend := [⟨{ cid with count := 1 }, 3, Coefs.linear⟩]
    strongPend := [⟨{ cid with count := 2 }, 0, [], 0⟩] }
def devLatch : Dev :=
  { withRings demo [(0, ring [cmdOf 0x58 .running [], { cmdOf 0x59 .running [] with count := 1 }, { cmdOf 0x5A .running [] with count := 2 }])] with
    engines := [(0, latchEngine)] }

theorem commit_facts (base : Nat) (run : Bool) (h : base = 0x201 ∨ base = 0x200 ∨ base = 0xFF0000000000) :
    startedB (devCommit base run) cid 0x58 commitCmd = true ∧ ((layerOf base).bad (engineOf run 0) = decide (base = 0x201)) := by
  obtain rfl | rfl | rfl := h <;> cases run <;> decide +kernel

theorem coef_facts (one : Nat) (h : one = 0 ∨ one = 0x100) :
    startedB (devCoef one) cid 0x59 coefCmd = true ∧ coefCmd.f 303 256 = 0x100 ∧ (readCoefs (coefBytes one)).isSome = decide (one = 0x100) := by
  obtain rfl | rfl := h <;> decide +kernel

theorem coef_read (one : Nat) (h : one = 0 ∨ one = 0x100) :
    ∃ d1, (devCoef one).agentRead ((devCoef one).cmdAgent coefCmd 0) true 0x100 1536 = (.ok (coefBytes one), d1) := by
  have hp : pageOk (devCoef one) 0x100 1536 = true := by obtain rfl | rfl := h <;> decide +kernel
  have hb : (piecesOf 0x100 1536).flatMap (fun p => lineBytes (lineAt (devCoef one) ((0x5000 + p.1) / 128)).data ((0x5000 + p.1) % 128) p.2)
      = coefBytes one := by obtain rfl | rfl := h <;> decide +kernel
  obtain ⟨d1, -, -, h1⟩ := read_bytes (d := devCoef one) (page_mapped (coefLines one) coefCmd) (a := (devCoef one).cmdAgent coefCmd 0) rfl true hp hb
  exact ⟨d1, h1⟩

theorem strong_read (crc : Nat) : ∃ d1, (devStrong 1 crc).readRows ((devStrong 1 crc).cmpAgent 0 0 0) 0x200 4 4 [0] = (.ok (toLe 4 7), d1) := by
  have hp : pageOk (devStrong 1 crc) 0x200 4 = true := (show pageOk (devPage [(4, 7)]) 0x200 4 = true by decide +kernel)
  have hb : (piecesOf 0x200 4).flatMap (fun p => lineBytes (lineAt (devStrong 1 crc) ((0x5000 + p.1) / 128)).data ((0x5000 + p.1) % 128) p.2)
      = toLe 4 7 :=
    (show (piecesOf 0x200 4).flatMap (fun p => lineBytes (lineAt (devPage [(4, 7)]) ((0x5000 + p.1) / 128)).data ((0x5000 + p.1) % 128) p.2) = toLe 4 7
      by decide +kernel)
  obtain ⟨d1, -, -, h1⟩ := read_bytes (devStrong_mapped 1 crc) (a := (devStrong 1 crc).cmpAgent 0 0 0) rfl true hp hb
  refine ⟨d1, ?_⟩
  simp only [Dev.readRows, show ((0x200 + 0 * 4) % 2 ^ 48 : Nat) = 0x200 by decide, h1, List.append_nil]

theorem witness_CompositionIsCommittedAndLatched :
    -- CMP_COMMIT: no layer, a layer of another
    ([0, 1].all (fun l => let c := cmdOf 0x58 .started [(256, 0x80), (304, 1), (306, l)]
       startedB (devCmd c) cid 0x58 c && (devCmd c).engine 1 == Engine.empty)) = true ∧
    (∀ base run, base = 0x201 ∨ base = 0x200 ∨ base = 0xFF0000000000 →
      commitCmd.f 304 304 = 1 ∧ (List.range 7).filter (fun k => commitCmd.bit (306 + k)) = [6] ∧ commitCmd.f 303 256 = 0x80 ∧
      Started (devCommit base run) cid 0x58 commitCmd ∧ (devCommit base run).engine 1 = engineOf run 0 ∧ Tab.get? (engineOf run 0).bound 6 = some 0 ∧
      ((layerOf base).bad (engineOf run 0) = decide (base = 0x201)) ∧
      ∃ d1, (devCommit base run).readLayers ((devCommit base run).cmdAgent commitCmd 0) 0 0 0x80 [6] = (.ok [(6, layerOf base)], d1) ∧
        (base = 0x200 → ∃ d2, d1.layersMapped 1 [(6, layerOf base)] = (true, d2)) ∧
        (base = 0xFF0000000000 → ∃ d2, d1.layersMapped 1 [(6, layerOf base)] = (false, d2))) ∧
    -- CMP_COEF
    (startedB (devCmd (cmdOf 0x59 .started [(256, 0x101)])) cid 0x59 (cmdOf 0x59 .started [(256, 0x101)]) = true ∧
     ∀ one, one = 0 ∨ one = 0x100 → startedB (devCoef one) cid 0x59 coefCmd = true ∧ coefCmd.f 303 256 = 0x100 ∧
       (readCoefs (coefBytes one)).isSome = decide (one = 0x100) ∧
       ∃ d1, (devCoef one).agentRead ((devCoef one).cmdAgent coefCmd 0) true 0x100 1536 = (.ok (coefBytes one), d1)) ∧
    -- CMP_STRONG: not the safety partition, a bad body, off, on with each CRC
    (startedB (devCmd (strongCmd 0 0)) cid 0x5A (strongCmd 0 0) = true ∧ (devCmd (strongCmd 0 0)).safety? = none ∧
     ([(0, 0), (1, 0), (1, crc32 (toLe 4 7))].all (fun e =>
       startedB (devStrong e.1 e.2) cid 0x5A (strongCmd e.1 e.2) && (devStrong e.1 e.2).safety? == some 0 && (strongCmd e.1 e.2).bit 305 == (e.1 == 1) &&
       !strongBad (engineOf true 0) (strongCmd e.1 e.2).raw && (strongCmd e.1 e.2).f 463 432 == e.2)) = true ∧
     strongBad Engine.empty (strongCmd 1 0).raw = true ∧ crc32 (toLe 4 7) ≠ 0 ∧
     ∀ crc, ∃ d1, (devStrong 1 crc).readRows ((devStrong 1 crc).cmpAgent 0 0 0) 0x200 4 4 [0] = (.ok (toLe 4 7), d1)) ∧
    -- the latch
    (let g := devLatch.engine 0
     g = latchEngine ∧ devLatch.mgmt.thermTrip = false ∧ g.running = true ∧ g.scanning = true ∧ g.latched = false ∧ g.vact = 2 ∧ g.line = 0 ∧
     g.stopping = false ∧ devLatch.mgmt.reqs = [] ∧ Tab.wf [(6, layerOf 0x200)] = true ∧ (devLatch.cmd? cid).isSome = true ∧
     (devLatch.cmd? { cid with count := 1 }).isSome = true ∧ (devLatch.cmd? { cid with count := 2 }).isSome = true) := by
  refine ⟨by decide +kernel, fun base run h => ⟨by decide +kernel, by decide +kernel, by decide +kernel, started_of (commit_facts base run h).1, rfl, rfl,
    (commit_facts base run h).2, ?_⟩, ⟨by decide +kernel, fun one h => ⟨(coef_facts one h).1, (coef_facts one h).2.1, (coef_facts one h).2.2, coef_read one h⟩⟩,
    ⟨by decide +kernel, by decide +kernel, by decide +kernel, by decide +kernel, by decide +kernel, strong_read⟩, by decide +kernel⟩
  obtain ⟨d1, m1, h1⟩ := commit_read base run h
  exact ⟨d1, h1, fun e => by subst e; exact layer_maps m1, fun e => by subst e; exact layer_maps_not d1⟩

theorem witness_RefreshesRunAndAreChecked :
    -- an engine between refreshes, one that waits for its edge, one that is off
    (let d := fun (g : Engine) => ({ demo with engines := [(1, g)] } : Dev)
     let cmdMode := 2 ^ 254 + 2 ^ 248
     demo.mgmt.thermTrip = false ∧ (d (engineOf true 0)).engine 1 = engineOf true 0 ∧
     (engineOf true 0).running = true ∧ (engineOf true 0).scanning = false ∧ (engineOf true 0).stopping = false ∧
     (engineOf true 0).mode.toNat.testBit 254 = false ∧ (engineOf true cmdMode).mode.toNat.testBit 254 = true ∧
     (engineOf true cmdMode).mode.toNat.testBit 248 = true ∧ (engineOf true cmdMode).te = false ∧ (engineOf false 0).running = false) ∧
    -- lines of a refresh: composed ahead, not yet composed, the last
    ([(0, false, []), (0, false, [(0, [5])]), (1, true, []), (0, true, [])].all (fun (e : Nat × Bool × Tab (List Nat)) =>
       let g := { engineOf true 0 with scanning := true, line := e.1, latched := e.2.1, ahead := e.2.2 }
       !demo.mgmt.bring.wild && decide (g.line < g.vact) && (g.latched == false || decide (g.line + 1 < g.vact) || e.1 == 1) &&
       g.layers.isEmpty && g.strong.isNone)) = true ∧
    -- the strongroom check: no signal, a signal
    ([0, 2 ^ 464, 2 ^ 465, 2 ^ 464 + 2 ^ 465].all (fun v =>
       let b : BitVec 512 := BitVec.ofNat 512 (v + 16383 * 2 ^ 466)
       let d := { devStrong 1 0 with tly := { demo.tly with tallies := [(16383, tally)] }, engines := [(1, { engineOf true 0 with strong := some b, refresh := 1 })] }
       d.safety? == some 0 && (d.engine 1).strong == some b && (d.engine 1).running && !(d.engine 1).checked && (d.engine 1).refresh == 1 &&
       !(d.engine 1).failShown && b.toNat.testBit 464 == (v % 2 ^ 465 != 0) && b.toNat.testBit 465 == decide (2 ^ 465 ≤ v) &&
       fld b.toNat 479 466 == 16383 && d.tallyOwned 0 16383)) = true := by
  decide +kernel

/-- A request of 256 bytes: MSG, LEN and the payload. -/
def reqOf (f msg len payload : Nat) (accepted : Bool) : MbxReq :=
  { fn := f, bytes := toLe 2 msg ++ toLe 2 len ++ toLe 12 0 ++ toLe 240 payload, accepted := accepted, phase := 0, waited := 0, live := true }
/-- The demo device in a bring-up state with requests that wait. -/
def mailDev (d : Dev) (st : Bring) (reqs : List MbxReq) : Dev :=
  { d with mgmt := { d.mgmt with reqs := reqs, bring := { d.mgmt.bring with st := st } } }
/-- `reservedOk`, in one pass over the payload. -/
def zeroBut (r : MbxReq) (named : List (Nat × Nat)) : Bool :=
  r.u 6 2 == 0 && (r.bytes.drop 16).zipIdx.all (fun b => named.any (fun e => decide (e.1 ≤ b.2) && decide (b.2 < e.1 + e.2)) || b.1 == 0)
theorem reserved_of {r : MbxReq} {named : List (Nat × Nat)} (h : zeroBut r named = true) : r.reservedOk named = true := by
  simp only [zeroBut, Bool.and_eq_true, beq_iff_eq, List.all_eq_true] at h
  simp only [MbxReq.reservedOk, Bool.and_eq_true, beq_iff_eq, List.all_eq_true, List.mem_range]
  refine ⟨h.1, fun i _ => ?_⟩
  have hp : r.p i 1 = leNat (((r.bytes.drop 16).drop i).take 1) := by simp [MbxReq.p, MbxReq.u]
  rw [hp]
  cases hb : (r.bytes.drop 16)[i]? with
  | none => simp [List.drop_eq_nil_of_le (List.getElem?_eq_none_iff.mp hb), leNat]
  | some b =>
    have := h.2 (b, i) (List.mk_mem_zipIdx_iff_getElem?.mpr hb)
    obtain ⟨hl, he⟩ := List.getElem?_eq_some_iff.mp hb
    rw [List.drop_eq_getElem_cons hl, he]
    simp only [Bool.or_eq_true, beq_iff_eq] at this ⊢
    exact this.imp id (fun k => by subst k; simp [leNat])

/-- What `Asked` and `Formed` ask of the one request that waits, evaluated. -/
def askedB (d : Dev) (f msg : Nat) : Bool :=
  match d.mgmt.reqs with
  | [r] => r.fn == f && r.msg == msg && !r.accepted && d.mailServed && !d.mbxBlocked 0 r
  | _ => false
def formedB (d : Dev) (f msg len : Nat) (named : List (Nat × Nat)) : Bool :=
  askedB d f msg && d.isReady && d.mgmt.reqs.all (fun r => r.len == len && zeroBut r named)
theorem asked_of {d : Dev} {f msg : Nat} (h : askedB d f msg = true) : ∃ r, d.mgmt.reqs = [r] ∧ Asked d f msg 0 r := by
  unfold askedB at h
  split at h
  · rename_i r hr
    simp only [Bool.and_eq_true, beq_iff_eq, Bool.not_eq_true'] at h
    refine ⟨r, hr, ?_, ?_, h.1.2, h.2⟩ <;> simp [Dev.findReq, hr, h.1.1.1.1, h.1.1.1.2, h.1.1.2]
  · cases h
theorem formed_of {d : Dev} {f msg len : Nat} {named : List (Nat × Nat)} (h : formedB d f msg len named = true) :
    ∃ r, d.mgmt.reqs = [r] ∧ Formed d f msg 0 len named r := by
  simp only [formedB, Bool.and_eq_true] at h
  obtain ⟨r, hr, ha⟩ := asked_of h.1.1
  rw [hr] at h
  simp only [List.all_cons, List.all_nil, Bool.and_true, Bool.and_eq_true, beq_iff_eq] at h
  exact ⟨r, hr, ha, h.1.2, h.2.1, reserved_of h.2.2⟩

theorem witness_RequestsAreCheckedInOrder :
    ([true, false].all (fun busy => [0, 15].all (fun f =>
       let d : Dev := { demo with
         mgmt := { demo.mgmt with bring := { demo.mgmt.bring with powered := true } }
         funcs := [(f, { Func.reset f with mbx := { (Func.reset f).mbx with busy := busy } })] }
       d.hostOk f && d.clocked && d.mgmt.bring.st != .romStart && !d.mgmt.fw.dead && (d.func f).mbx.busy == busy))) = true ∧
    ([(0, 0), (8, 0), (9, 0), (0, 2 ^ 32 - 8), (0, 2 ^ 32 - 9)].all (fun (e : Nat × Nat) =>
       (((e.1 : Int) - (e.2 % 2 ^ 32 : Nat)) % (2 ^ 32 : Nat)).toNat ≤ 9)) = true ∧
    (let r := reqOf 3 0x0999 0 0 false
     let d := mailDev demo .awaitFw [r]
     d.mailServed = true ∧ d.mgmt.reqs[0]? = some r ∧ d.mgmt.reqs.findIdx? (fun q => q.fn == 3 && !q.accepted && !msgDefined q.msg) = some 0) ∧
    (readyRows.all (fun row =>
       let n := (lenOf row.1).getD 0
       -- not ready, another function, another length, a byte that is not 0
       [(0, Bring.awaitFw, n, 0), (3, .ready, n, 0), (0, .ready, n + 1, 0), (0, .ready, n, 2 ^ (8 * 239))].all (fun e =>
         let r := reqOf e.1 row.1 e.2.2.1 e.2.2.2 false
         let d := mailDev demo e.2.1 [r]
         askedB d e.1 row.1 && d.isReady == (e.2.1 == .ready) && r.len == e.2.2.1 && decide (n ≤ 239) &&
         (payloadByte r 239 != 0) == (e.2.2.2 != 0)))) = true := by
  decide +kernel

theorem witness_InformationFirmwareAndAttestation :
    ([(1, 0, []), (2, 0, []), (3, 4, [(0, 4)])].all (fun (e : Nat × Nat × List (Nat × Nat)) => [Bring.ready, .awaitFw].all (fun st =>
       [none, some (0 : BitVec 1024)].all (fun h =>
         let r := reqOf 5 e.1 e.2.1 0 false
         let d := mailDev demo st [r]
         let d := { d with mgmt := { d.mgmt with fw := { d.mgmt.fw with header := h }, bring := { d.mgmt.bring with reported := true } } }
         askedB d 5 e.1 && r.len == e.2.1 && zeroBut r e.2.2)))) = true ∧
    ([0x3000, 7352320].all (fun size =>
       let r := reqOf 0 0x0600 12 (2 ^ 64 * size) false
       let d := mailDev (withRings demo []) .awaitFw [r]
       askedB d 0 0x0600 && r.len == 12 && zeroBut r [(0, 12)] && d.mgmt.bring.st == .awaitFw && d.masterOk 0 && r.p 8 4 == size)) = true ∧
    (let r := reqOf 0 0x0600 12 0 true
     let d := mailDev demo .verify [r]
     d.mgmt.bring.st = .verify ∧ d.mgmt.bring.held = false ∧ d.mgmt.reqs.findIdx? (fun q => q.accepted && q.msg == 0x0600) = some 0 ∧
     imageStatus d.fuses d.mgmt.fw.image ≠ 0) ∧
    ([0, 1, 64].all (fun svn =>
       let h : BitVec 1024 := BitVec.ofNat 1024 (svn * 2 ^ 8)
       let r := reqOf 0 0x0601 0 0 false
       let d := mailDev demo .ready [r]
       let d := { d with mgmt := { d.mgmt with fw := { d.mgmt.fw with header := some h } } }
       formedB d 0 0x0601 0 [] && d.mgmt.fw.header == some h && fld h.toNat 15 8 == svn)) = true ∧
    ([0, 1, 15, 16].all (fun i =>
       let h : BitVec 1024 := BitVec.ofNat 1024 (1 * 2 ^ 16)
       let r := reqOf 0 0x0602 1 i false
       let d := mailDev demo .ready [r]
       let d := { d with mgmt := { d.mgmt with fw := { d.mgmt.fw with header := some h } } }
       formedB d 0 0x0602 1 [(0, 1)] && d.mgmt.fw.header == some h && payloadByte r 0 == i && fld h.toNat 23 16 == 1)) = true ∧
    demo.mailServed = true ∧ demo.mgmt.fw.header = none := by
  decide +kernel

/-- A payload: values at byte offsets. -/
def pay (fields : List (Nat × Nat)) : Nat := (fields.map (fun e => e.2 * 2 ^ (8 * e.1))).sum
/-- The device asked with this message of the physical function, when READY. -/
def asking (d : Dev) (msg len : Nat) (fields : List (Nat × Nat)) : Dev := mailDev d .ready [reqOf 0 msg len (pay fields) false]
/-- The request that waits. -/
def theReq (d : Dev) : MbxReq := (d.mgmt.reqs.head?).getD (reqOf 0 0 0 0 false)
/-- A device with partitions 0 and 1 valid; 0 has a window and holds cluster 0. -/
def validCfg : PartCfg := { PartCfg.none with valid := true }
def twoParts : Dev :=
  { demo with parts := [(0, { Part.zero with wins := [(0, { v := true, w := true, base := 0, size := 1 })], held := 1, cfg := validCfg }),
      (1, { Part.zero with cfg := validCfg })] }
/-- A reserve slot with cluster 0. -/
def slotOf (holder : Option Nat) (hotState : Nat) : Reserve :=
  { cluster := 0, holder := holder, hotUnits := 1, hotState := hotState, image := 0, ctx := 0, dva := 0x200, bytes := 64, suspended := none }
/-- The device whose partition 0 holds nothing, with a reserve slot. -/
def withSlot (d : Dev) (x : Reserve) : Dev := { d with reserves := [(0, x)] }
def noHolder : Dev := { twoParts with parts := [(0, { Part.zero with cfg := validCfg }), (1, { Part.zero with cfg := validCfg })] }
/-- A move of cluster 0 from partition 0 to 1. -/
def moveOf (phase : MovePhase) (waited : Nat) : Move := { src := some 0, dst := some 1, phase := phase, waited := waited, loan := none }
/-- The image of a reserve slot at DVA 0x200, whose HOTSET_LOAD waits. -/
def devHot : Dev := withSlot (mailDev (devPage [(4, 7)]) .ready [reqOf 0 0x0109 16 0 true]) (slotOf none 1)

theorem hot_read : ∃ d1, devHot.agentRead (imageAgent 0) false 0x200 64 = (.ok (toLe 64 7), d1) := by
  obtain ⟨d1, -, -, h⟩ := read_bytes (d := devHot) (mapped_of (lines := [(4, 7)]) rfl rfl rfl rfl) (a := imageAgent 0) rfl false (dva := 0x200) (n := 64)
    (by decide +kernel) (bs := toLe 64 7) (by decide +kernel)
  exact ⟨d1, h⟩

theorem witness_PartitionsAndClustersAreSet :
    -- PART_SET: a bad field, another function, valid with another function, settings that are accepted
    ([([(0, 16), (2, 1)], false, false), ([(0, 0), (1, 1), (2, 1)], true, true), ([(0, 15), (2, 1)], true, false), ([(0, 1), (2, 0)], false, false)].all
      (fun (e : List (Nat × Nat) × Bool × Bool) =>
        let d := asking twoParts 0x0100 20 e.1
        let r := theReq d
        let p := r.p 0 1
        formedB d 0 0x0100 20 [(0, 5), (6, 2), (8, 4), (12, 2), (16, 4)] &&
        decide (p < 16 ∧ r.p 1 1 < 16 ∧ 1 ≤ r.p 2 1 ∧ r.p 4 1 < 8 ∧ r.p 8 4 < 2 ^ 20 ∧ r.p 16 4 < 2 ^ 22) == e.2.1 &&
        (decide (d.mgmt.numVfs < r.p 1 1) || ((d.part p).cfg.valid && (d.part p).cfg.func != r.p 1 1) ||
          ((r.p 4 1).testBit 0 && (List.range 16).any (fun q => q != p && (d.cfgNext q).valid && (d.cfgNext q).safety))) == e.2.2)) = true ∧
    -- PART_WINDOW: a bad field, beyond memory, an invalid partition, a clash, a window
    ([([(0, 16)], false, true), ([(0, 0), (2, 1), (8, 1), (12, 1)], false, false), ([(0, 2), (2, 1), (12, 1)], true, true),
      ([(0, 1), (2, 1), (12, 1)], true, true), ([(0, 0), (1, 3), (2, 3), (12, 1)], true, false)].all (fun (e : List (Nat × Nat) × Bool × Bool) =>
        let d := asking twoParts 0x0101 16 e.1
        let r := theReq d
        let p := r.p 0 1
        let x : Window := { v := (r.p 2 1).testBit 0, w := (r.p 2 1).testBit 1, base := r.p 8 4, size := r.p 12 4 }
        formedB d 0 0x0101 16 [(0, 3), (8, 8)] &&
        decide (p < 16 ∧ r.p 1 1 < 4 ∧ r.p 2 1 < 4 ∧ x.base < 2 ^ 26 ∧ x.size < 2 ^ 26 ∧
          (x.v = true → 1 ≤ x.size ∧ (x.base + x.size) * 2 ^ 21 ≤ d.mmu.dramSize)) == e.2.1 &&
        decide ((d.part p).cfg.valid = false ∨ d.windowClash p x = true) == e.2.2)) = true ∧
    -- CLUSTER_MOVE: a cluster that is not there, one that another holds, a move
    ([([(0, 63), (2, 1)], true), ([(0, 0), (1, 1), (2, 0)], true), ([(0, 0), (1, 0), (2, 0xFF)], false)].all (fun (e : List (Nat × Nat) × Bool) =>
        let d := asking twoParts 0x0102 3 e.1
        let r := theReq d
        formedB d 0 0x0102 3 [(0, 3)] && decide (r.p 0 1 < 64 ∧ (r.p 1 1 < 16 ∨ r.p 1 1 = 0xFF) ∧ (r.p 2 1 < 16 ∨ r.p 2 1 = 0xFF)) &&
        decide (d.plan.clusterOk (r.p 0 1) = false ∨ d.partNamed (r.p 1 1) = false ∨ d.partNamed (r.p 2 1) = false ∨
          d.holderOf (r.p 0 1) ≠ namedPart (r.p 1 1)) == e.2 && d.reserves.isEmpty && (d.homedOn (r.p 0 1)).isEmpty)) = true ∧
    -- a move: idle, not idle, timed out, zeroed
    (let d := { twoParts with moves := [(0, moveOf .draining 0)] }
     d.clusterIdle 0 = true ∧ ({ d with cores := [(15, core1)] } : Dev).clusterIdle 0 = false ∧
     (let d := { mailDev twoParts .ready [reqOf 0 0x0102 3 (pay [(2, 1)]) true] with moves := [(0, moveOf .draining 500000)] }
      d.moveReq 0 (moveOf .draining 500000) = some 0) ∧
     (List.range 16).all (fun i => (d.core i).l1.isEmpty && (d.core i).leaving.isEmpty) = true) ∧
    -- RESERVE_SET: a slot lent, a cluster held, a free one, an end
    ([(withSlot noHolder (slotOf (some 1) 0), [(1, 1)], true), (twoParts, [(1, 1)], true), (noHolder, [(0, 3), (1, 1), (3, 48)], false), (noHolder, [], false)].all
      (fun (e : Dev × List (Nat × Nat) × Bool) =>
        let d := asking e.1 0x0107 4 e.2.1
        let r := theReq d
        let slot := Tab.get? d.reserves (r.p 0 1)
        formedB d 0 0x0107 4 [(0, 4)] && decide (r.p 0 1 < 4) && decide (r.p 1 1 < 2) && decide (r.p 2 1 < 64) && decide (r.p 3 1 ≤ 48) &&
        (slot.any (fun x => x.holder.isSome || x.suspended.isSome) || (r.p 1 1 == 1 && (!d.plan.clusterOk (r.p 2 1) || (d.holderOf (r.p 2 1)).isSome ||
          d.reserves.any (fun y => y.1 != r.p 0 1 && y.2.cluster == r.p 2 1)))) == e.2.2)) = true ∧
    -- RESERVE_LEND
    ([(noHolder, [(1, 1)], false), (withSlot noHolder (slotOf none 0), [(1, 2)], false), (withSlot noHolder (slotOf none 0), [(1, 0xFF)], true)].all
      (fun (e : Dev × List (Nat × Nat) × Bool) =>
        let d := asking e.1 0x0108 2 e.2.1
        let r := theReq d
        formedB d 0 0x0108 2 [(0, 2)] && decide (r.p 0 1 < 4) && ((Tab.get? d.reserves (r.p 0 1)).isSome && d.partNamed (r.p 1 1)) == e.2.2 &&
        (d.homedOn 0).isEmpty)) = true ∧
    -- HOTSET_LOAD
    ([(withSlot noHolder (slotOf none 0), 65537, true), (noHolder, 0, true), (withSlot noHolder (slotOf none 0), 0, false)].all (fun (e : Dev × Nat × Bool) =>
        let d := asking e.1 0x0109 16 [(4, e.2.1)]
        let r := theReq d
        formedB d 0 0x0109 16 [(0, 16)] && decide (r.p 8 8 < 2 ^ 48) &&
        ((match Tab.get? d.reserves (r.p 0 1) with | none => true | some x => x.holder.isSome || decide (x.hotUnits * 65536 < r.p 4 4)) ||
          !d.ownsCtx 0 (r.p 1 1) || (d.part (d.ctxPart (r.p 1 1))).cfg.func != 0 || (e.2.1 == 0 && !(d.imageMapped (r.p 1 1) (pagesOf (r.p 8 8) (r.p 4 4))).1))
          == e.2.2)) = true ∧
    -- the image is read
    (Tab.get? devHot.reserves 0 = some (slotOf none 1) ∧ devHot.running = true ∧ TilesOk devHot ∧
     (devHot.mgmt.reqs.all (fun q => q.accepted && q.msg == 0x0109 && q.p 0 1 == 0)) = true ∧
     ∃ d1, devHot.agentRead (imageAgent 0) false 0x200 64 = (.ok (toLe 64 7), d1)) := by
  refine ⟨by decide +kernel, by decide +kernel, by decide +kernel, by decide +kernel, by decide +kernel, by decide +kernel, by decide +kernel,
    rfl, rfl, fun _ => rfl, by decide +kernel, hot_read⟩

theorem witness_ResourcesAreSet :
    -- VAULT_ALLOC, VAULT_PIN
    ([0, 36].all (fun q => [0, 1].all (fun lock => let d := asking demo 0x0103 5 [(0, q), (2, 7), (4, lock)]
       formedB d 0 0x0103 5 [(0, 1), (2, 3)] && (theReq d).p 0 1 == q && (theReq d).p 4 1 == lock)) &&
     formedB (asking demo 0x0104 2 [(0, 7)]) 0 0x0104 2 [(0, 2)]) = true ∧
    -- TALLY_OWN: an invalid partition, a valid one, none; with a waiter
    ([(2, false), (1, true), (0xFF, true)].all (fun (e : Nat × Bool) =>
       let d := { twoParts with tly := { demo.tly with tallies := [(16383, tally)], waiters := [⟨.command cid, 16383, 6⟩] } }
       let d := asking d 0x0105 5 [(0, 16383), (2, 1), (4, e.1)]
       formedB d 0 0x0105 5 [(0, 5)] && (theReq d).p 2 2 == 1 && (theReq d).p 0 2 + (theReq d).p 2 2 == 16384 &&
       d.partNamed ((theReq d).p 4 1) == e.2 && (d.tally 16383).owner != namedPart e.1)) = true ∧
    -- CTX_SET: a conflict, one that is written at once, one that waits, one accepted earlier
    ([([(0, 0), (1, 1), (2, 2)], true, true), ([(0, 9), (1, 1), (2, 0), (9, 0x10)], false, false), ([(0, 0)], false, true)].all
      (fun (e : List (Nat × Nat) × Bool × Bool) =>
        let d := { twoParts with launches := [(0, { Launch.empty with live := 1, groups := 1 })] }
        let d := asking d 0x0200 16 e.1
        let r := theReq d
        formedB d 0 0x0200 16 [(0, 4), (8, 8)] && decide (r.p 1 1 < 2) && decide (r.p 2 1 < 16) && decide (r.p 3 1 < 16) && decide (r.p 8 8 < 2 ^ 48) &&
        r.p 8 8 % 4096 == 0 && (!(d.part (r.p 2 1)).cfg.valid || (d.part (r.p 2 1)).cfg.func != r.p 3 1 || !d.inWindow (r.p 2 1) (r.p 8 8) false) == e.2.1 &&
        d.ctxWaits r == e.2.2)) = true ∧
    ([true, false].all (fun busy =>
       let r := { reqOf 0 0x0200 16 0 true with waited := 500000 }
       let d := mailDev { twoParts with launches := if busy then [(0, { Launch.empty with live := 1, groups := 1 })] else [] } .ready [r]
       (d.findReq 0 0x0200 true).isSome && d.ctxWaits r == busy)) = true ∧
    -- TAG_RANGE: beyond the table, over another function's range, its own
    ([([(0, 1), (2, 40960), (4, 1)], true), ([(0, 1), (2, 0), (4, 1)], true), ([(0, 15), (2, 40959), (4, 1)], false)].all
      (fun (e : List (Nat × Nat) × Bool) =>
        let d := asking { twoParts with funcs := [(0, Func.reset 0), (1, Func.reset 1), (15, Func.reset 15)] } 0x0201 6 e.1
        let r := theReq d
        formedB d 0 0x0201 6 [(0, 1), (2, 4)] && decide (r.p 0 1 < 16) &&
        (decide (40960 < r.p 2 2 + r.p 4 2) || (List.range 16).any (fun g => g != r.p 0 1 &&
          decide (r.p 2 2 < (d.func g).tagBase + (d.func g).tagCount) && decide ((d.func g).tagBase < r.p 2 2 + r.p 4 2))) == e.2)) = true ∧
    -- PART_RELEASE accepted: drained, not drained, timed out; and refused
    ([true, false].all (fun busy =>
       let r := { reqOf 0 0x0106 1 0 true with waited := 500000 }
       let d := mailDev { twoParts with launches := if busy then [(0, { Launch.empty with live := 1, groups := 1 })] else [] } .ready [r]
       (d.findReq 0 0x0106 true).isSome && r.p 0 1 == 0 && d.releaseDrained 0 == !busy && d.dp.step == 0)) = true ∧
    ([(16, false), (2, false), (1, true)].all (fun (e : Nat × Bool) => formedB (asking twoParts 0x0106 1 [(0, e.1)]) 0 0x0106 1 [(0, 1)] &&
       (twoParts.part e.1).cfg.valid == e.2)) = true ∧
    -- INGEST_PORT: an invalid partition, none, a valid one
    ([(2, false), (0xFF, true), (1, true)].all (fun (e : Nat × Bool) => [(0, 4500), (1, 2500)].all (fun (v : Nat × Nat) =>
       let d := asking { twoParts with plan := { twoParts.plan with csi := 0x80 } } 0x0400 6 [(0, 7), (1, e.1), (2, v.1), (3, 2), (4, v.2)]
       let r := theReq d
       formedB d 0 0x0400 6 [(0, 6)] && d.plan.csi.getLsbD (r.p 0 1) && r.p 2 1 == v.1 && r.p 3 1 == 2 && r.p 4 2 == v.2 &&
       (d.port 7).streams.isEmpty && d.partNamed (r.p 1 1) == e.2))) = true ∧
    ((mailDev twoParts .ready [reqOf 0 0x0400 6 0 true]).findReq 0 0x0400 true).isSome = true ∧
    -- power
    ([0, 2].all (fun n => formedB (asking demo 0x0300 1 [(0, n)]) 0 0x0300 1 [(0, 1)] && (theReq (asking demo 0x0300 1 [(0, n)])).p 0 1 == n)) = true ∧
    ([4999, 5000, 40000, 40001].all (fun n => formedB (asking demo 0x0301 4 [(0, n)]) 0 0x0301 4 [(0, 4)] &&
       (theReq (asking demo 0x0301 4 [(0, n)])).p 0 4 == n)) = true ∧
    formedB (asking demo 0x0302 0 []) 0 0x0302 0 [] = true := by
  decide +kernel

/-- A display mode: 320 by 240 pixels, 25 MHz, one lane pair at 1,000 Mbit/s. -/
def goodMode : Nat :=
  2 ^ 255 + 1 * 2 ^ 249 + 1000 * 2 ^ 231 + 25000 * 2 ^ 212 + 320 * 2 ^ 176 + 200 * 2 ^ 164 + 200 * 2 ^ 152 + 200 * 2 ^ 140 + 240 * 2 ^ 128 +
    200 * 2 ^ 116 + 100 * 2 ^ 104 + 100 * 2 ^ 92

theorem witness_DisplaysAreSet :
    -- DISPLAY_MODE: a bad mode, an engine that runs, one that does not; EN = 0 in and between refreshes
    ([(2 ^ 255, false, false, false), (goodMode, true, false, true), (goodMode, false, false, true), (0, true, true, true), (0, true, false, true),
      (0, false, false, true)].all (fun (e : Nat × Bool × Bool × Bool) =>
       let g := { engineOf e.2.1 0 with scanning := e.2.2.1 }
       let d := { demo with plan := { demo.plan with dsi := 2 }, engines := [(1, g)] }
       let d := mailDev d .ready [reqOf 0 0x0401 40 (1 + e.1 * 2 ^ 64) false]
       let r := theReq d
       formedB d 0 0x0401 40 [(0, 1), (8, 32)] && r.p 0 1 == 1 && r.p 8 32 == e.1 && d.plan.dsi.getLsbD 1 &&
       (!(r.p 8 32).testBit 255 || !modeBad (r.p 8 32)) == e.2.2.2 && (d.engine 1).running == e.2.1 && !(d.engine 1).starting &&
       (d.engine 1).scanning == e.2.2.1 && (d.engine 1).commits.isEmpty)) = true ∧
    -- the display PLL locks
    (let d := mailDev { demo with engines := [(1, { engineOf false 0 with starting := true })] } .ready [reqOf 0 0x0401 40 1 true]
     (d.engine 1).starting = true ∧ (d.mgmt.reqs.all (fun r => r.accepted && r.msg == 0x0401 && r.p 0 1 == 1)) = true) ∧
    -- DISPLAY_LAYER: a partition that is invalid, that is valid, none
    ([(2, true), (1, false), (0xFF, false)].all (fun (e : Nat × Bool) => [true, false].all (fun run =>
       let d := asking { twoParts with engines := [(1, engineOf run 0)] } 0x0402 3 [(0, 1), (1, 6), (2, e.1)]
       let r := theReq d
       formedB d 0 0x0402 3 [(0, 3)] && r.p 0 1 == 1 && r.p 1 1 == 6 && r.p 2 1 == e.1 &&
       (r.p 2 1 != 0xFF && !(d.part (r.p 2 1)).cfg.valid) == e.2 && (d.engine 1).running == run))) = true ∧
    -- DISPLAY_DCS: in a refresh, between refreshes, a read
    ([(true, 0), (false, 0), (false, 1)].all (fun (e : Bool × Nat) => [0, 200].all (fun n =>
       let d := asking { demo with engines := [(1, { engineOf true 0 with scanning := e.1 })] } 0x0403 (8 + n) [(0, 1), (1, e.2), (3, n), (4, 200)]
       let r := theReq d
       formedB d 0 0x0403 (8 + n) [(0, 5), (8, 200)] && r.p 0 1 == 1 && r.p 1 1 == e.2 && r.p 3 1 == n && r.p 4 1 == 200 &&
       (n == 200 || (List.range 200).all (fun i => payloadByte r (8 + i) == 0)) && !d.mgmt.bring.wild))) = true ∧
    -- a read that waits for the panel
    ([0, 200].all (fun n =>
       let d := mailDev demo .ready [{ reqOf 0 0x0403 8 (pay [(0, 1), (1, 1), (4, n)]) true with phase := 2 }]
       d.dcsReader 1 == some 0 && (theReq d).p 4 1 == n)) = true := by
  decide +kernel

/-- A job fault of partition 0. -/
def faultOf : JobFault := { code := 4, unit := 0, index := 0, part := 0, func := 0, ctx := 0, pc := 0, group := 0, addr := 0 }
/-- The demo device at a step of a data-plane reset. -/
def atStep (d : Dev) (n : Nat) : Dev := { d with dp := { d.dp with step := n } }

theorem witness_JobFaultsResetTheDataPlane :
    ([(3, false), (0, true), (0, false)].all (fun (e : Nat × Bool) =>
       let d := { demo with faults := [faultOf], dp := { demo.dp with step := e.1, recorded := e.2 } }
       d.faults[0]? == some faultOf && d.dp.step == e.1 && d.dp.recorded == e.2 && d.dp.pending.isNone)) = true ∧
    formedB (asking demo 0x0500 0 []) 0 0x0500 0 [] = true ∧
    (let u := { Func.reset 0 with eventVec := 2 ^ 31, bme := true, msixEn := true, msixMask := false, vecs := [(0, { (demo.vec 0 0) with masked := false })] }
     let d := { demo with dp := { demo.dp with pending := some (1, [0]) }, funcs := [(0, u)] }
     d.dp.pending = some (1, [0]) ∧ d.dp.step = 0 ∧ (d.func 0).eventVec.testBit 31 = true ∧ fld (d.func 0).eventVec 29 24 < vecCount 0 ∧
     d.mgmt.bring.wild = false ∧ (d.func 0).msixEn = true ∧ (d.func 0).msixMask = false ∧ (d.vec 0 0).masked = false ∧ (d.func 0).bme = true ∧
     (d.func 0).d3hot = false) ∧
    ([1, 3, 4].all (fun n => (atStep demo n).dp.step == n)) = true ∧
    -- DP_CHECK: no cluster to check; one that is complete, or not
    ((atStep demo 4).checkCluster = none ∧
     (let d := { demo with
        dp := { demo.dp with step := 4, recorded := true }, faultRec := { demo.faultRec with fault := { faultOf with code := 0x0A } } }
      d.checkCluster = some 0 ∧ Tab.get d.plan.cores 0 0 &&& ~~~ 0xFFFF = 0 ∧ Tab.get d.plan.cores 0 0 &&& ~~~ 1 ≠ 0)) ∧
    ([0, 1].all (fun m => let d := atStep { demo with mgmt := { demo.mgmt with bring := { demo.mgmt.bring with mismatch := m, st := .recovering } } } 5
       d.dp.step == 5 && d.mgmt.bring.mismatch == m && !d.mgmt.clk.lost.getLsbD 3)) = true := by
  decide +kernel

/-- A device whose function 15 has tags and this reset in progress. -/
def devFlr (x : Option Flr) (busy : Bool) : Dev :=
  { twoParts with
    funcs := [(15, { Func.reset 15 with flr := x, rings := if busy then [(0, ring [cmdOf 0x10 .running []])] else [] })] }

theorem witness_FunctionLevelResets :
    ((devFlr (some ⟨0, 15⟩) false).func 15).flr ≠ none ∧ ((devFlr none false).func 15).flr = none ∧
    ([true, false].all (fun vf => let d := { demo with mgmt := { demo.mgmt with vfEnable := vf } }
       d.mgmt.vfEnable == vf && (List.range 16).all (fun f => (d.func f).flr.isNone))) = true ∧
    ([true, false].all (fun busy => let d := devFlr (some ⟨500000, 15⟩) busy
       d.flrGroup 15 == [15] && d.flrDrained [15] == !busy && d.dp.step == 0 && d.dp.pending.isNone &&
       (d.func 15).flr == some ⟨500000, 15⟩ && (d.partsOf 15).isEmpty)) = true ∧
    (let d := { devFlr (some ⟨499999, 15⟩) true with parts := [(3, { Part.zero with cfg := { validCfg with func := 15 } })] }
     d.partsOf 15 = [3] ∧ (d.func 15).flr = some ⟨499999, 15⟩ ∧ d.flrDrained (d.flrGroup 15) = false) := by
  decide +kernel

/-- The demo device powered and out of reset, in a state of bring-up. -/
def inState (st : Bring) : Dev := { demo with mgmt := { demo.mgmt with bring := { demo.mgmt.bring with st := st, powered := true, held := false } } }

theorem witness_FullResetsAndBringUp :
    ([Bring.romStart, .memTrain, .memInit, .selfTest, .topology, .ready].all (fun st => (inState st).mgmt.bring.st == st &&
       (inState st).mgmt.bring.powered && !(inState st).mgmt.bring.held)) = true ∧
    (inState .topology).time.aPoint = (inState .topology).mgmt.clk.aNext ∧
    ({ Mgmt.blank.bring with powered := false }).powered = false ∧
    (let b := { (inState .ready).mgmt.bring with held := true }
     b.powered = true ∧ b.held = true) := by
  decide +kernel

theorem witness_ChipFaultsStopThePart :
    ([Pll.array, .sys, .mem, .pcie, .disp0, .disp1].all (fun p => [true, false].all (fun lock =>
       let k : Clocks := { demo.mgmt.clk with locks := if lock then 0x3F else 0, lost := if lock then 0 else 0x3F }
       k.locks.getLsbD (pllBit p) == lock && k.lost.getLsbD (pllBit p) == !lock))) = true ∧
    demo.dp.step = 0 ∧ (inState .ready).mgmt.bring.held = false ∧ (inState .ready).mgmt.fw.dead = false ∧ (inState .ready).clocked = true ∧
    (List.replicate 72 1840).length = 72 ∧ (inState .ready).mgmt.thermTrip = false ∧
    ({ (inState .ready).mgmt.fw with header := some 0 }).header ≠ none := by
  decide +kernel

theorem witness_AnEmptyQueueLetsAKCyclePass :
    (blockOf (inState .ready)).pending = [] ∧ (inState .ready).clocked = true ∧ (inState .ready).time.phase + 1 < 125000 ∧
    (inState .ready).time.ts + 1 < 2 ^ 64 ∧ State.reset.dev.clocked = false := by
  decide +kernel

theorem witness_EpochBoundaries :
    ((inState .ready).clocked = true ∧ (inState .ready).time.ts + (125000 - (inState .ready).time.phase) < 2 ^ 64) ∧
    (let t := { demo.time with ts := 2 ^ 64 - 1, phase := 51615 }
     2 ^ 64 ≤ t.ts + (125000 - t.phase)) ∧
    State.reset.dev.clocked = false ∧ demo.mgmt.reqs = [] ∧ (∀ p, (demo.part p).pendCfg = none) := by
  refine ⟨by decide +kernel, by decide +kernel, by decide +kernel, rfl, fun p => ?_⟩
  simp only [Dev.part, demo, Tab.get, Tab.get?]
  split <;> rfl

theorem witness_EveryStepKeepsTheTimeBaseConsistent : TimeOk State.reset.dev.time ∧ ∃ t, step State.reset = .next t := by
  refine ⟨?_, _, rfl⟩
  unfold TimeOk
  decide +kernel

theorem witness_RegistersOfTheBoard :
    -- the heartbeat: unlocked, locked as it is, locked otherwise
    ((inState .ready).clocked = true ∧ (inState .ready).hostOk 0 = true ∧
     ([(false, false), (true, true), (true, false)].all (fun (e : Bool × Bool) => let h := { demo.mgmt.hb with lock := e.1, en := true, feedTally := 16383 }
       let v := 16383 * 2 ^ 14 + (if e.2 then 2 ^ 30 else 0)
       h.lock == e.1 && v.testBit 30 == e.2 && fld v 27 14 == h.feedTally)) = true) ∧
    -- a violation counter of a function that answers, and of one in D3
    ((inState .ready).hostOk 15 = true ∧
     ({ inState .ready with funcs := [(15, { Func.reset 15 with d3hot := true })] } : Dev).hostOk 15 = false ∧ (inState .ready).mgmt.bring.wild = false) ∧
    -- PCS_CTRL: allowed or not; enabled or not; a tail within the ring or beyond
    ([(0, true), (16, false)].all (fun (e : Nat × Bool) =>
       let v := 2 ^ 31 + e.1 * 2 ^ 20 + 10 * 2 ^ 8 + 8
       let d := { inState .ready with parts := [(0, { Part.zero with cfg := validCfg })] }
       v.testBit 31 && (d.bound 0 (fld v 27 24) && d.ownsCtx 0 (fld v 23 16)) == e.2)) = true ∧
    ([(256, 0), (257, 0), (0, 2 ^ 32 - 256)].all (fun (e : Nat × Nat) =>
       decide ((((e.1 : Int) - (e.2 % 2 ^ 32 : Nat)) % (2 ^ 32 : Nat)).toNat ≤ 2 ^ 8) == (e.1 != 257))) = true ∧
    -- a sample that is due: of a full ring, of one with room
    ([256, 0].all (fun fill =>
       let p := { (Func.reset 0).pcs with en := true, part := 0, ctx := 0, periodLog2 := 10, sizeLog2 := 8, head := fill, tail := 0, base := 8 }
       let c := { core1 with lastIssue := some (0, 0, false, 1) }
       let d := { devOf c with funcs := [(0, { Func.reset 0 with pcs := p })] }
       (d.func 0).pcs.en && d.running && d.plan.coreOk 0 && (d.part 0).held.getLsbD 0 && !(d.core 0).groups.isEmpty &&
       (d.cycle + 0) % 2 ^ p.periodLog2 == 0 * 2 ^ p.periodLog2 / 1024 && (d.core 0).lastIssue == some (0, 0, false, 1) && Nat.ble d.cycle (1 + 4) &&
       (fill == 256 || (({ d with free := d.free + 1 } : Dev).translate 0 (p.base * 64 + 16 * (p.head % 2 ^ p.sizeLog2)) .write).1.toOption ==
         some (0x5200, 0)))) = true ∧
    -- MSI-X: pending and open, or not
    ([true, false].all (fun pending => [true, false].all (fun en =>
       let u := { Func.reset 0 with
         bme := true, msixEn := en, msixMask := false, vecs := [(0, { (demo.vec 0 0) with pending := pending, masked := false })] }
       let d := { inState .ready with funcs := [(0, u)] }
       decide (0 < vecCount 0) && (d.vec 0 0).pending == pending && (d.func 0).msixEn == en && !(d.func 0).d3hot))) = true ∧
    (State.reset.dev.clocked = false ∧ (inState .ready).engines = []) := by
  decide +kernel

theorem witness_BoardBuses :
    (inState .ready).clocked = true ∧ State.reset.dev.clocked = false ∧ (inState .ready).mgmt.bring.wild = false ∧ (inState .ready).mgmt.bring.powered = true ∧
    State.reset.dev.mgmt.bring.powered = true ∧ ({ Mgmt.blank.bring with powered := false }).powered = false := by
  decide +kernel

/-! ### Ill-formed commands -/

/-- Every command of the list is refused. -/
def refuses (l : List Instr) : Bool := l.all (fun c => !c.wf)

/-- Core numbers end at 1023, rings at 15, counts at 2^32 - 1 (00 R22; 07 Table 7-11). -/
theorem test_wf_refuses_cores_and_rings : refuses
    [.iadd { core := 1024, strand := 0, word := 0 }, .rayw { core := 1024, strand := 0, word := 0 },
     .copy { fn := 16, ring := 0, count := 0, inner := 0 }, .copy { fn := 0, ring := 16, count := 0, inner := 0 },
     .cmpStrong { fn := 0, ring := 0, count := 2 ^ 32, inner := 0 },
     .joinWindowExpiry 1024 0, .mxSlotBind 1024, .lckRetry 1024 0, .coreWatchdog 1024 0, .dirWtStore 1024 0, .mxPipeStart 1024 0,
     .twaitTimeout 1024 0 0, .groupCloseTimeout 1024, .ilkGrant 1024 0, .rayAccept 1024 0, .mxInstructionComplete 1024 true [],
     .pcSample 16 0, .pcSample 0 1024] = true := by decide +kernel

/-- Lines end at 2^41 - 1 (00 R12), requesters at 63, slices at 63, banks and channels at 15. -/
theorem test_wf_refuses_lines_and_units : refuses
    [.memoryResponse 0 (2 ^ 41) .clean, .memoryResponse 1024 0 .clean, .dirReadMiss 0 (2 ^ 41), .dirReadMiss 1024 0, .dirWriteMiss 0 (2 ^ 41),
     .dirWriteMiss 1024 0, .purseEvict 0 (2 ^ 41), .purseEvict 1024 0, .nonCoreRead 64 0, .nonCoreRead 0 (2 ^ 41),
     .nonCoreWrite 64 0 0 0, .nonCoreWrite 0 (2 ^ 41) 0 0, .dirAck (2 ^ 41), .vaultFill (2 ^ 41) .clean,
     .dramRead (2 ^ 41) .clean, .dramWrite (2 ^ 41) 0 0, .dramPartialWrite (2 ^ 41) 0 0 .clean, .invalidationAtCore 0 (2 ^ 41),
     .invalidationAtCore 1024 0, .forwardAtCore 0 (2 ^ 41), .forwardAtCore 1024 0, .dramRefresh 16, .dramScrub 16 [],
     .dramScrub 0 [(7, .clean)], .clusterDrained 64, .clusterMoveTimeout 64, .zeroingComplete 64, .hotsetReady 4,
     .hostReadError (.fill (2 ^ 41)), .hostReadError (.refuse (2 ^ 40 - 1)), .hostReadError (.refuse (2 ^ 41)),
     .hostReadError (.accept 0)] = true := by decide +kernel

/-- Tallies end at 16383, records at 255, functions at 15; register values fit their width (06 R221; 05 R206; 00 R15). -/
theorem test_wf_refuses_registers : refuses
    [.tlySet 16 0 0, .tlySet 0 16384 0, .tlySet 0 0 (2 ^ 64), .tlyAdd 16 0 0, .tlyAdd 0 16384 0, .tlyRearm 0 16384 0,
     .tlyRearm 0 0 (2 ^ 64), .faultRecordClear 16 0 0, .faultRecordClear 0 256 0, .faultRecordClear 0 0 (2 ^ 64),
     .mmuInvRange 16 0, .mmuInvContext 0 (2 ^ 32), .mmuInvAll 16 0, .maintFlush 0 (2 ^ 32), .maintInvalidate 16 0,
     .maintFlushInv 0 (2 ^ 32), .maintFill 16 0, .registerWrite { fn := 16, target := .bar0 0 4, value := 0 },
     .registerWrite { fn := 0, target := .bar0 0 4, value := 2 ^ 64 }, .registerWrite { fn := 0, target := .bar0 (2 ^ 22) 4, value := 0 },
     .registerWrite { fn := 0, target := .bar0 0 0, value := 0 }, .registerWrite { fn := 0, target := .bar0 0 9, value := 0 },
     .hifWinWrite 16 0, .hifWinWrite 0 (2 ^ 64), .tagWrite 16 0 0, .tagWrite 0 65536 0, .tagWrite 0 0 (2 ^ 64),
     .bar2Read 16 0 1, .bar2Read 0 (2 ^ 36) 1, .bar2Read 0 0 0, .bar2Write 0 0 [] false, .bar2Write 0 (2 ^ 36) [0] false,
     .ringEnable 0 16 0, .ringEnable 0 0 (2 ^ 32), .ringIdle 16 0, .ringDisable 0 16 0, .ringDrained 0 16, .doorbell 0 0 (2 ^ 32),
     .commandFetch 16 0, .slotRead 0 16, .commandStart 16 0, .noticeTailWrite 16 0, .noticeTailWrite 0 (2 ^ 32),
     .heartbeatWrite (2 ^ 32), .violationCounterRead 16 0, .violationCounterRead 0 (2 ^ 36), .pcsCtrlWrite 0 (2 ^ 32),
     .pcsTailWrite 16 0, .msixUnmask 16 none, .msixUnmask 0 (some 64), .msixUnmask 1 (some 8)] = true := by decide +kernel

/-- Queries end at 63, passes at 15, ports at 7, virtual channels at 15, engines at 1, pins at 15. -/
theorem test_wf_refuses_engines : refuses
    [.queryJoin 64, .sweepEnd 64, .queryComplete 64, .incrementalFlush 16, .tileHandout 16, .tileStored 16 0, .tileStored 0 1024,
     .roundEnd 16, .frameStart 8 0 0, .frameStart 0 16 0, .frameStart 0 0 65536, .linePacket 8 0 0 [] false false,
     .linePacket 0 16 0 [] false false, .linePacket 0 0 64 [] false false, .frameEnd 8 0, .frameEnd 0 16, .frameTimeout 8 0,
     .frameTimeout 0 4, .latch 2, .refreshStart 2, .outputLineStart 2 false, .tearingEffect 16, .gpioEdge 16 true, .panelTimeout 2,
     .panelReply 2 .ack, .displayPllLock 2, .csi2LinkUp 8, .csi2LinkDown 8, .groupDispatch 0 1024, .sliceScrub 64 .clean, .ledgerScrub 16 [],
     .epochBoundary (2 ^ 32), .sensorSample [], .sensorSample (List.replicate 72 65536), .avsbusTransaction (some 65536),
     .doeDiscovery 256, .getCert 256, .controlFatal 256] = true := by decide +kernel

/-- Mailbox requests come from functions 0 to 15. -/
theorem test_wf_refuses_functions : refuses
    [.getVersion 16, .getState 16, .getFloorplan 16, .fwLoad 16, .svnCommit 16 0, .keyRevoke 16 true, .partSet 16, .partWindow 16,
     .clusterMove 16, .vaultAlloc 16, .vaultPin 16, .tallyOwn 16, .partRelease 16, .reserveSet 16, .reserveLend 16, .hotsetLoad 16,
     .ctxSet 16, .tagRange 16, .powerPoint 16, .powerLimit 16, .telemetry 16, .ingestPort 16, .displayMode 16, .displayLayer 16,
     .displayDcs 16, .dpReset 16, .flr 16, .flrDrained 16, .flrEscalation 16, .ctxSetTimeout 16, .partReleaseTimeout 16,
     .unknownMessage 16] = true := by decide +kernel

/-! ### Values that the specification gives -/

/-- Lane 0 holds these pairs in w2, w4 and w6, and p0 to p2; lane 1 holds `other` in w2. -/
def coreV (a b c : Nat) (ps : List Bool) (other : Nat) : Core :=
  let pair := fun (k v : Nat) => [(k, BitVec.ofNat 32 v), (k + 1, BitVec.ofNat 32 (v / 2 ^ 32))]
  coreOf [(0, { Group.empty with regs := pair 2 a ++ pair 4 b ++ pair 6 c ++ [(130, BitVec.ofNat 32 other)]
                                 preds := ps.zipIdx.map (fun e => (e.2, e.1)) })] [(0, ready [(0, 0), (1, 0)])]

/-- What the instruction `mk` with word `w` leaves: register w0 and w1 of lane 0 as a 64-bit value. -/
def leaves (mk : Issue → Instr) (c : Core) (w : BitVec 64) : Nat :=
  match exec (mk (issue w)) (blockOf (devOf c)) with
  | .next t => (Tab.get (t.dev.group 0 0).regs 0 0).toNat + 2 ^ 32 * (Tab.get (t.dev.group 0 0).regs 1 0).toNat
  | _ => 0

/-- What it leaves with DST = w0, A = w2, B = w4, C = w6 of these values, TYPE and MOD. -/
def gives (mk : Issue → Instr) (op ty mod a b c : Nat) : Nat :=
  leaves mk (coreV a b c [] 0) (word op 0 2 4 6 (ty * 4096 + mod))

/-- Integer results (02 R85, R86, Table 2-8), each worked by hand. -/
theorem test_integer_values :
    [gives .iadd 0x04 0 0 0xFFFFFFFF 2 0, gives .iadd 0x04 5 0 0xFFFFFFFF 1 0, gives .isub 0x05 0 0 3 5 0, gives .imul 0x06 0 0 0x10001 0x10001 0,
     gives .imulh 0x07 0 0 0xFFFFFFFE 3 0, gives .imulh 0x07 1 0 0xFFFFFFFE 3 0, gives .imad 0x08 0 0 3 4 5,
     gives .imin 0x09 0 0 0xFFFFFFFF 1 0, gives .imin 0x09 1 0 0xFFFFFFFF 1 0, gives .imax 0x0A 1 0 0xFFFFFFFF 1 0] =
    [1, 2 ^ 32, 0xFFFFFFFE, 0x20001, 2, 0xFFFFFFFF, 17, 1, 0xFFFFFFFF, 1] := by decide +kernel

/-- Bit operations; counts are taken modulo the width; BFX and BFI take them as they stand (02 R85, R583). -/
theorem test_bit_values :
    [gives .andOp 0x0C 0 0 0xF0 0x3C 0, gives .orOp 0x0D 0 0 0xF0 0x3C 0, gives .xorOp 0x0E 0 0 0xF0 0x3C 0, gives .shl 0x10 0 0 1 33 0,
     gives .shr 0x11 0 1 0x80000000 4 0, gives .shr 0x11 0 0 0x80000000 4 0, gives .rot 0x12 0 0 0x80000001 1 0,
     gives .popc 0x13 0 0 0xF0F1 0 0, gives .clz 0x14 0 0 0 0 0, gives .brev 0x15 0 0 1 0 0] =
    [0x30, 0xFC, 0xCC, 2, 0xF8000000, 0x08000000, 3, 9, 32, 0x80000000] ∧
    [gives .bfx 0x16 0 0 0xABCD 4 8, gives .bfx 0x16 1 0 0xABCD 4 8, gives .bfx 0x16 0 0 0xABCD 4 0, gives .bfx 0x16 0 0 0xABCD 32 8,
     gives .bfi 0x17 0 0 0xF 0x0804 0xFFFFFFFF, gives .bfi 0x17 0 0 0xFF 0x081C 0] =
    [0xBC, 0xFFFFFFBC, 0, 0, 0xFFFFF0FF, 0xF0000000] := by decide +kernel

/-- Floating-point results (02 R84, Table 2-7): 1 + 2, 1 - 2, a product of infinity and 0, 1.5 × 2 + 1, minimumNumber with a
NaN, rounding by direction, and packed halves. -/
theorem test_float_values :
    [gives .fadd 0x20 2 0 0x3F800000 0x40000000 0, gives .fsub 0x21 2 0 0x3F800000 0x40000000 0, gives .fmul 0x22 2 0 0x7F800000 0 0,
     gives .ffma 0x23 2 0 0x3FC00000 0x40000000 0x3F800000, gives .fmin 0x24 2 0 0x7FC00001 0x3F800000 0,
     gives .fmax 0x25 2 0 0xBF800000 0x3F800000 0, gives .fadd 0x20 2 0 0x3F800000 0x33000000 0, gives .fadd 0x20 2 3 0x3F800000 0x33000000 0,
     gives .fadd 0x20 3 0 0x3C004000 0x3C003C00 0] =
    [0x40400000, 0xBF800000, 0x7FC00000, 0x40800000, 0x3F800000, 0x3F800000, 0x3F800000, 0x3F800001, 0x40004200] := by decide +kernel

/-- Moves, conversions and selections (02 R84, R584, Table 2-8): 2.5 rounds to even 2; −1.0 to u32 gives 0; a NaN gives 0. -/
theorem test_move_values :
    [leaves .movi (coreV 0 0 0 [] 0) (word 0x01 0 0 0xDE 0xAD 0xBEEF), gives .mov 0x02 5 0 (2 ^ 40 + 7) 0 0,
     gives .cvt 0x32 1 0x20 0x40200000 0 0, gives .cvt 0x32 0 0x20 0xBF800000 0 0, gives .cvt 0x32 1 0x20 0x7FC00000 0 0,
     gives .cvt 0x32 2 0x10 0xFFFFFFFF 0 0, gives .cvt 0x32 3 0x20 0x47800000 0 0, gives .cvt 0x32 3 0x24 0x47800000 0 0,
     leaves .sel (coreV 8 9 0 [true] 0) (word 0x31 0 2 4 0xC0 0), leaves .sel (coreV 8 9 0 [false] 0) (word 0x31 0 2 4 0xC0 0),
     leaves .shfl (coreV 5 1 0 [] 77) (word 0x38 0 2 4 0xFF 3), leaves .vote (coreV 0 0 0 [true] 0) (word 0x39 0 0xC0 0xFF 0xFF 2)] =
    [0xDEADBEEF, 2 ^ 40 + 7, 2, 0, 0, 0xBF800000, 0x7C00, 0x7BFF, 8, 9, 77, 1] := by decide +kernel

/-- The predicate p1 of lane 0 after the instruction. -/
def leavesP (mk : Issue → Instr) (c : Core) (w : BitVec 64) : Bool :=
  match exec (mk (issue w)) (blockOf (devOf c)) with
  | .next t => Tab.get (t.dev.group 0 0).preds 1 false
  | _ => false

/-- CMP LT signed and unsigned, with a NaN ordered and unordered; format I tests EQ; PLOP 0x80 is A and B and C, 0xF0 is A
(02 R83, Table 2-7). -/
theorem test_predicate_values :
    [leavesP .cmp (coreV 0xFFFFFFFF 1 0 [] 0) (word 0x30 0xC1 2 4 0xFF 0x1072), leavesP .cmp (coreV 0xFFFFFFFF 1 0 [] 0) (word 0x30 0xC1 2 4 0xFF 0x0072),
     leavesP .cmp (coreV 0x7FC00000 0 0 [] 0) (word 0x30 0xC1 2 4 0xFF 0x2072), leavesP .cmp (coreV 0x7FC00000 0 0 [] 0) (word 0x30 0xC1 2 4 0xFF 0x207A),
     leavesP .cmp (coreV 0xFFFFFFFF 0 0 [] 0) (word 0x30 0xC1 2 0xFE 0xFF 0xFFFF),
     leavesP .plop (coreV 0 0 0 [true, true, true] 0) (word 0x33 0xC1 0xC0 0xC1 0xC2 0x80),
     leavesP .plop (coreV 0 0 0 [true, false, true] 0) (word 0x33 0xC1 0xC0 0xC1 0xC2 0x80),
     leavesP .plop (coreV 0 0 0 [true, false, false] 0) (word 0x33 0xC1 0xC0 0xC1 0xC2 0xF0)] =
    [true, false, false, true, true, true, false, true] := by decide +kernel

/-- The block-scaled FP4 element of 03 Tables 3-8 and 3-9: chunks in ascending order, and with chunks 2 and 3 first. -/
def fp4Slot : MxSlot :=
  let row := fun (lo hi : Nat) => (List.range 8).foldl (fun (s k : Nat) => s + (lo * 2 ^ (16 * k) + hi * 2 ^ (128 + 16 * k))) 0
  let frag := fun (lo hi scales : Nat) => ({ rows := [(0, BitVec.ofNat 512 (row lo hi))], scales := [(0, BitVec.ofNat 128 scales)]
                                             tag := some (6, false, true) } : Frag)
  { MxSlot.empty with frags := [(0, frag 0x51B7 0xD5F7 0x7F7F8475), (1, frag 0x1F64 0x6644 0x7F7F8474)] }

theorem test_fp4_worked_example :
    mmaElem fp4Slot 0x1600 1 [0, 1, 2, 3, 4, 5, 6, 7] 0 0 = 0x37800000 ∧ mmaElem fp4Slot 0x1600 1 [2, 3, 0, 1, 4, 5, 6, 7] 0 0 = 0x37900000 := by
  decide +kernel

/-- The SFD pixel of 11 R408: BASE 1,200, DX 24, SHIFT 2, pixel (3, 0) with residual −5 decodes to 1,216. -/
theorem test_sfd_worked_example :
    sfdPred 1200 24 0 2 3 0 = 1236 ∧ sfdDecode (1200 + 24 * 2 ^ 16 + 2 * 2 ^ 40 + (128 - 5) * 2 ^ (64 + 21)) 3 0 = some 1216 := by
  decide +kernel

/-- A SET of 20 and an ADD of 5 on a tally of 10, in either order (06 R223). -/
theorem test_tally_orders :
    (let d := demo.setTally 3 { Tally.none with value := 10 }
     (((d.tallySet .frontEnd 3 20).tallyAdd .ledger 3 5).tally 3).value = 25 ∧
     (((d.tallyAdd .ledger 3 5).tallySet .frontEnd 3 20).tally 3).value = 20) := by decide +kernel

/-- The brick of 12's stair edge. -/
def stairBrick : Nat :=
  let cells := (List.range 512).map (fun n =>
    if n % 8 ≤ 3 && n / 64 ≤ 3 then 2 ^ (2 * n) else if n % 8 = 6 && (n / 64 = 1 || n / 64 = 2) then 2 * 2 ^ (2 * n) else 0)
  cells.sum

/-- A cliff ray down at this x (12, the worked example). -/
def stairRay (x : Nat) : Ray :=
  { core := 0, launch := 0, gindex := 0, lane := 0, sub := 0x1000, part := 0, ctx := 0
    words := [x, 0x3F0F5C29, 0x3D4CCCCD, 0, 0, 0xBF800000, 0, 0x3DB851EC], off := 0, before := [], items := [], fetches := 0
    invalid := false, hit := none, done := false, stuck := false }

/-- The box of child 3 of its parent node (12 R415). -/
def stairBox : List Q × List Q :=
  childBox (0x3D800000 + 0xBD800000 * 2 ^ 64 + 0xFDFDFD * 2 ^ 96 + (7 + 4 * 256 + 7 * 2 ^ 24 + 4 * 2 ^ 32) * 2 ^ (128 + 48 * 3)) 3 0

/-- Status, voxel, state and entry face of the stopping voxels, in voxel order. -/
def stairHits (x : Nat) : List (Nat × Nat × Nat × Nat) :=
  let r := stairRay x
  ((r.brickHits stairBrick 0 0x12 stairBox.1 stairBox.2 ((r.voxels stairBox.1 stairBox.2).filterMap (fun e =>
    if e.2.2 then some (e.1, e.2.1) else none)) 0).map (fun h => (h.status, h.prim, h.vstate, 0)))

theorem test_stair_edge :
    stairBox = ([mkQ 15 16, mkQ 1 2, mkQ (-1) 16], [mkQ 17 16, mkQ 5 8, mkQ 1 16]) ∧
    (stairHits 0x3F7AE148).getLast? = some (2, 218, 1, 0) ∧ stairHits 0x3F828F5C = [] ∧
    (stairHits 0x3F851EB8).getLast? = some (4, 158, 2, 0) := by decide +kernel

/-- The throttle of 18 Table 18-7: an epoch of 28.0 W over a limit of 20 W at 200 MHz makes 150 MHz due; 19.8 W at 150 MHz leaves it. -/
theorem test_throttle :
    (let d := demo.modMgmt (fun m => { m with fw := { m.fw with header := some 0, dead := false }
                                              pow := { m.pow with limit := 20000, ceiling := 2, hist := [] } })
     let at' := fun (n : Nat) => { d with time := { d.time with aPoint := n } }
     let e := fun (p mw : Nat) => ({ point := p, tsum := 800, tn := 1, mw := mw } : EpochStat)
     ((at' 2).policy (e 2 28000)).mgmt.pow.ceiling = 1 ∧ ((at' 1).policy (e 2 28000)).mgmt.pow.ceiling = 2 ∧
     ((at' 1).policy (e 1 19800)).mgmt.pow.ceiling = 2) := by decide +kernel

theorem witness_StepsKeepTheQueueTheTimeAndTheFuses :
    { blockOf demo with pending := [.smbWrite] }.pending = .smbWrite :: [] ∧ keepsTime .smbWrite ∧
    (∀ f x, Instr.smbWrite ≠ .svnCommit f x) ∧ (∀ f b, Instr.smbWrite ≠ .keyRevoke f b) := by
  refine ⟨rfl, ?_, ?_, ?_⟩ <;> simp [keepsTime]

theorem witness_ResetLeavesTheStatedValues : (1 : Nat) ≠ 0 := by decide

end Sys2Proof.Tests
end

/-! ## Steps: the queue, the fuses and the time base

Proofs about `step` itself. `exec_next` says once what every command does to the queue, the fuses and the time base; what the
commands that change the time base make of it follows from the frame lemmas of the boundary's actions (01 Table 1-7). -/

namespace Sys2Proof.Proofs
open Sys2Proof.Machine Sys2Proof.Safety

/-! ### What every command does to the queue, the fuses and the time base -/

theorem step_of_nil {s : State} (h : s.pending = []) : step s = s.onTime Dev.tick := by
  unfold step; rw [h]

theorem step_of_cons {s : State} {c : Instr} {r : List Instr} (h : s.pending = c :: r) :
    step s = exec c { s with pending := r } := by
  unfold step; rw [h]

theorem fusesGrow_refl (a : Fuses) : FusesGrow a a := ⟨fun _ h => h, fun _ h => h⟩

/-- Fuses that a command burns are added to those that are set (14 R490, R491). -/
theorem fusesGrow_or (a : Fuses) (svn : BitVec 64) (revoked : BitVec 16) :
    FusesGrow a { svn := svn ||| a.svn, revoked := revoked ||| a.revoked } :=
  ⟨fun i h => by simp [h], fun i h => by simp [h]⟩

/-- The commands that may burn fuses (14 R490, R491). -/
def BurnsFuses (c : Instr) : Prop := (∃ f x, c = .svnCommit f x) ∨ ∃ f b, c = .keyRevoke f b

theorem not_keepsTime_iff (c : Instr) :
    ¬ keepsTime c ↔ (∃ x, c = .fullReset x) ∨ (∃ x, c = .epochBoundary x) ∨ c = .timestampWrap := by
  unfold keepsTime
  simp only [Classical.not_and_iff_not_or_not, Classical.not_forall, Classical.not_not]

/-- A command that neither changes the time base nor burns fuses. -/
theorem exec_keeps_time_and_fuses {c : Instr} (ht : keepsTime c) (hf : ¬ BurnsFuses c) (s : State) :
    ∃ t, exec c s = .next t ∧ t.pending = s.pending ∧ t.dev.time = s.dev.time ∧ t.dev.fuses = s.dev.fuses := by
  obtain ⟨hreset, hboundary, hwrap⟩ := ht
  cases c with
  | fullReset x => exact absurd rfl (hreset x)
  | epochBoundary x => exact absurd rfl (hboundary x)
  | timestampWrap => exact absurd rfl hwrap
  | svnCommit f x => exact absurd (.inl ⟨f, x, rfl⟩) hf
  | keyRevoke f b => exact absurd (.inr ⟨f, b, rfl⟩) hf
  | _ => exact ⟨_, rfl, rfl, rfl, rfl⟩

/-- A command that changes the time base keeps the fuses. -/
theorem exec_keeps_fuses {c : Instr} (ht : ¬ keepsTime c) (s : State) :
    ∃ t, exec c s = .next t ∧ t.pending = s.pending ∧ t.dev.fuses = s.dev.fuses := by
  obtain ⟨x, rfl⟩ | ⟨x, rfl⟩ | rfl := (not_keepsTime_iff c).mp ht
  · exact ⟨_, rfl, rfl, rfl⟩
  · exact ⟨_, rfl, rfl, rfl⟩
  · exact ⟨_, rfl, rfl, rfl⟩

/-- A command that may burn fuses keeps the time base and every fuse that is set. -/
theorem exec_burns_fuses {c : Instr} (hf : BurnsFuses c) (s : State) :
    ∃ t, exec c s = .next t ∧ t.pending = s.pending ∧ t.dev.time = s.dev.time ∧ FusesGrow s.dev.fuses t.dev.fuses := by
  obtain ⟨f, x, rfl⟩ | ⟨f, b, rfl⟩ := hf
  · exact ⟨_, rfl, rfl, rfl, fusesGrow_or _ _ _⟩
  · exact ⟨_, rfl, rfl, rfl, fusesGrow_or _ _ _⟩

/-- The one statement of what every command does to the queue, the time base and the fuses. -/
theorem exec_next (c : Instr) (s : State) :
    ∃ t, exec c s = .next t ∧ t.pending = s.pending ∧ FusesGrow s.dev.fuses t.dev.fuses ∧
      (keepsTime c → t.dev.time = s.dev.time) ∧ (¬ BurnsFuses c → t.dev.fuses = s.dev.fuses) := by
  by_cases ht : keepsTime c
  · by_cases hf : BurnsFuses c
    · obtain ⟨t, h, hq, htime, hgrow⟩ := exec_burns_fuses hf s
      exact ⟨t, h, hq, hgrow, fun _ => htime, fun k => absurd hf k⟩
    · obtain ⟨t, h, hq, htime, hfuses⟩ := exec_keeps_time_and_fuses ht hf s
      exact ⟨t, h, hq, hfuses ▸ fusesGrow_refl _, fun _ => htime, fun _ => hfuses⟩
  · obtain ⟨t, h, hq, hfuses⟩ := exec_keeps_fuses ht s
    exact ⟨t, h, hq, hfuses ▸ fusesGrow_refl _, fun k => absurd k ht, fun _ => hfuses⟩

/-- Settles O58: every command has one of the three shapes that `exec_next` gathers, and the k-cycle of an empty queue keeps the
fuses. -/
theorem stepsKeepTheQueueTheTimeAndTheFuses : Obligations.StepsKeepTheQueueTheTimeAndTheFuses := by
  intro s
  cases hp : s.pending with
  | nil =>
    exact ⟨_, step_of_nil hp, hp, fusesGrow_refl _, fun c r h => by simp at h, fun c r h => by simp at h⟩
  | cons c r =>
    obtain ⟨t, h, hq, hgrow, htime, hfuses⟩ := exec_next c { s with pending := r }
    refine ⟨t, (step_of_cons hp).trans h, hq, hgrow, fun c' r' hc hk => ?_, fun c' r' hc hs hr => ?_⟩
    · obtain ⟨rfl, rfl⟩ := List.cons.inj hc
      exact htime hk
    · obtain ⟨rfl, rfl⟩ := List.cons.inj hc
      refine hfuses ?_
      rintro (⟨f, x, h⟩ | ⟨f, b, h⟩)
      · exact hs f x h
      · exact hr f b h

/-! ### With an empty queue (notes/assumptions/3.md) -/

/-- A part at its slowest operating point, right after reset was released: four a-cycles pass in a k-cycle. -/
def released : State :=
  { pending := []
    dev := { Dev.blank with mgmt := { Mgmt.blank with bring := { Mgmt.blank.bring with held := false } } } }

/-- Operand 0xCD is CYCLE (02 Table 2-6): after the k-cycle every lane reads 4 there, where it read 0 before. -/
theorem step_released_counts_cycle {t : State} (h : step released = .next t) (ci slot lane : Nat) :
    released.dev.readW ci slot lane 0xCD = 0 ∧ t.dev.readW ci slot lane 0xCD = 4 := by
  cases h
  exact ⟨rfl, rfl⟩

/-- Refutes O54: the statement lets every operand code read as before, and CYCLE (code 0xCD) counts the a-cycles of the
k-cycle. On a part just released from reset it reads 0 before the step and 4 after it. -/
theorem not_anEmptyQueueLetsAKCyclePass : ¬ Obligations.AnEmptyQueueLetsAKCyclePass := by
  intro h
  obtain ⟨t, hstep, -, -, -, -, -, -, hread⟩ := (h released rfl).1 rfl (by decide) (by decide)
  obtain ⟨hbefore, hafter⟩ := step_released_counts_cycle hstep 0 0 0
  rw [hread, hbefore] at hafter
  exact absurd hafter (by decide)

/-! ### The time base within an epoch -/

theorem timeOk_elapse {d : Dev} (h : TimeOk d.time) (hphase : d.time.phase + 1 < 125000) (hts : d.time.ts + 1 < 2 ^ 64) :
    TimeOk (d.elapse 1).time := by
  obtain ⟨-, hepoch, -, hmod, hpoint⟩ := h
  refine ⟨hts, hepoch, hphase, ?_, hpoint⟩
  show d.time.phase + 1 = (d.time.ts + 1) % 125000
  omega

theorem timeOk_tick {d : Dev} (h : TimeOk d.time) : TimeOk d.tick.time := by
  unfold Dev.tick
  split
  · rename_i hc
    rw [Bool.and_eq_true, Bool.and_eq_true, decide_eq_true_iff, decide_eq_true_iff] at hc
    obtain ⟨⟨-, hphase⟩, hts⟩ := hc
    exact timeOk_elapse h hphase hts
  · exact h

/-! ### A full reset (15 R496) -/

theorem timeOk_blank : TimeOk Dev.blank.time := by
  refine ⟨?_, ?_, ?_, ?_, ?_⟩ <;> decide

theorem timeOk_execFullReset {cause : ResetCause} {s t : State} (h : TimeOk s.dev.time)
    (hstep : execFullReset cause s = .next t) : TimeOk t.dev.time := by
  cases hstep
  cases cause with
  | powerUp =>
    dsimp only
    split
    · exact h
    · exact timeOk_blank
  | perst | hotReset | linkDown =>
    dsimp only
    split
    · exact timeOk_blank
    · exact h

/-! ### The actions of a boundary leave the time base alone, the operating point apart (01 Table 1-7) -/

theorem foldl_time {β : Type} {f : Dev → β → Dev} (h : ∀ d b, (f d b).time = d.time) (l : List β) (d : Dev) :
    (l.foldl f d).time = d.time := by
  induction l generalizing d with
  | nil => rfl
  | cons b r ih => rw [List.foldl_cons, ih, h]

@[simp] theorem count_time (d : Dev) (off n : Nat) : (d.count off n).time = d.time := by
  unfold Dev.count; split <;> rfl

@[simp] theorem send_time (d : Dev) (o : Sent) : (d.send o).time = d.time := by
  unfold Dev.send; split <;> rfl

@[simp] theorem violPart_time (d : Dev) (p k : Nat) : (d.violPart p k).time = d.time := by
  unfold Dev.violPart; split <;> rfl

@[simp] theorem sendMsg_time (d : Dev) (f v : Nat) : (d.sendMsg f v).time = d.time := by
  unfold Dev.sendMsg
  simp only
  split
  · exact send_time _ _
  · rfl

@[simp] theorem raiseVec_time (d : Dev) (f v : Nat) : (d.raiseVec f v).time = d.time := by
  unfold Dev.raiseVec
  simp only
  split
  · rfl
  · split
    · split
      · rfl
      · exact sendMsg_time _ _ _
    · split
      · split
        · exact sendMsg_time _ _ _
        · rfl
      · exact sendMsg_time _ _ _

@[simp] theorem reply_time (d : Dev) (k status detail : Nat) (payload : List Byte) :
    (d.reply k status detail payload).time = d.time := by
  unfold Dev.reply
  split
  · rfl
  · simp only
    split
    · rfl
    · split
      · exact raiseVec_time _ _ _
      · rfl

@[simp] theorem replyAll_time (d : Dev) (msg : Nat) (p : MbxReq → Bool) (payload : List Byte) (n : Nat) :
    (d.replyAll msg p payload n).time = d.time := by
  induction n generalizing d with
  | zero => rfl
  | succ n ih =>
    unfold Dev.replyAll
    split
    · rw [ih, reply_time]
    · rfl

@[simp] theorem notice_time (d : Dev) (f kind data : Nat) : (d.notice f kind data).time = d.time := by
  unfold Dev.notice
  simp only
  split
  · rfl
  · split
    · exact raiseVec_time _ _ _
    · rfl

@[simp] theorem strongClear_time (d : Dev) : d.strongClear.time = d.time := by
  refine foldl_time (fun e n => ?_) _ d
  refine foldl_time (fun e l => ?_) _ _
  rfl

@[simp] theorem budgetViolations_time (d : Dev) : d.budgetViolations.time = d.time := by
  unfold Dev.budgetViolations
  simp only
  rw [foldl_time fun e f => ?_, foldl_time fun e p => foldl_time (fun e k => violPart_time e p k) _ _]
  split
  · exact raiseVec_time _ _ _
  · rfl

@[simp] theorem rearmPart_time (d : Dev) (p epoch : Nat) : (d.rearmPart p epoch).time = d.time := by
  unfold Dev.rearmPart
  simp only
  split
  · split
    · rfl
    · rfl
  · split
    · rfl
    · rfl

@[simp] theorem joinMove_time (d : Dev) (c : Nat) (m : Move) : (d.joinMove c m).time = d.time := by
  unfold Dev.joinMove
  cases m.src <;> cases m.dst <;> cases m.loan <;> rfl

@[simp] theorem modAud_time (d : Dev) (g : Aud → Aud) : (d.modAud g).time = d.time := rfl

@[simp] theorem markJoin_time (d : Dev) (c : Nat) : (d.markJoin c).time = d.time := modAud_time _ _

@[simp] theorem joinAll_time (d : Dev) (epoch : Nat) : (d.joinAll epoch).time = d.time := by
  refine foldl_time (fun e x => ?_) _ d
  have hjoin : ∀ f : Dev → Option Nat → Dev, (∀ a q, (f a q).time = a.time) →
      ([x.2.src, x.2.dst].foldl f ((e.joinMove x.1 x.2).markJoin x.1)).time = e.time := fun f hf => by
    rw [foldl_time hf, markJoin_time, joinMove_time]
  dsimp only
  split
  · rw [reply_time, hjoin]
    intro a q
    cases q <;> rfl
  · rw [hjoin]
    intro a q
    cases q <;> rfl

@[simp] theorem returnLoans_time (d : Dev) (epoch : Nat) : (d.returnLoans epoch).time = d.time := by
  refine foldl_time (fun e x => ?_) _ d
  split
  · split <;> rfl
  · rfl

@[simp] theorem endReleases_time (d : Dev) (epoch : Nat) : (d.endReleases epoch).time = d.time := by
  unfold Dev.endReleases
  simp only
  rw [replyAll_time]
  refine foldl_time (fun e r => ?_) _ d
  rfl

@[simp] theorem rearm_time (d : Dev) (epoch : Nat) : (d.rearm epoch).time = d.time := by
  have hsettings : ((((List.range 16).foldl (fun (d : Dev) p => d.rearmPart p epoch) d).joinAll epoch).returnLoans epoch
      |>.endReleases epoch).time = d.time := by
    rw [endReleases_time, returnLoans_time, joinAll_time]
    exact foldl_time (fun e p => rearmPart_time e p epoch) _ d
  unfold Dev.rearm
  simp only [replyAll_time]
  show (ite _ _ _ : Dev).time = d.time
  split
  · rw [strongClear_time, hsettings]
  · exact hsettings

@[simp] theorem closeWindows_time (d : Dev) : d.closeWindows.time = d.time := by
  refine foldl_time (fun e x => ?_) _ d
  exact sendMsg_time _ _ _

@[simp] theorem pointReplies_time (d : Dev) (epoch : Nat) : (d.pointReplies epoch).time = d.time := by
  unfold Dev.pointReplies
  simp only
  split
  · rw [notice_time]; exact replyAll_time _ _ _ _ _
  · exact replyAll_time _ _ _ _ _

@[simp] theorem endEpochStats_time (d : Dev) (ended point mw : Nat) : (d.endEpochStats ended point mw).2.time = d.time := rfl

@[simp] theorem policy_time (d : Dev) (e : EpochStat) : (d.policy e).time = d.time := by
  unfold Dev.policy
  simp only
  split
  · rfl
  · split
    · rfl
    · split
      · split
        · rfl
        · rfl
      · split
        · rfl
        · rfl

@[simp] theorem heartbeat_time (d : Dev) : d.heartbeat.time = d.time := rfl

@[simp] theorem countBoundary_time (d : Dev) : d.countBoundary.time = d.time := count_time _ _ _

/-- OPERATING_POINT_APPLY changes nothing but the operating point, to one that exists (01 Table 1-4). -/
theorem timeOk_applyPoint {d : Dev} (h : TimeOk d.time) : TimeOk d.applyPoint.time := by
  unfold Dev.applyPoint
  simp only
  split
  · obtain ⟨hts, hepoch, hphase, hmod, -⟩ := h
    exact ⟨hts, hepoch, hphase, hmod, Nat.min_le_right _ _⟩
  · exact h

/-- The actions of a boundary keep the time base that it sets out from consistent. -/
theorem timeOk_boundary (d : Dev) {t : Time} (h : TimeOk t) (mw : Nat) : TimeOk (d.boundary t mw).time := by
  unfold Dev.boundary
  simp only
  rw [countBoundary_time, heartbeat_time, policy_time, endEpochStats_time, pointReplies_time]
  refine timeOk_applyPoint ?_
  rw [closeWindows_time, rearm_time, budgetViolations_time]
  exact h

/-! ### The boundaries (00 R26, R28) -/

/-- The time at which an epoch begins. -/
theorem timeOk_epochStart {t : Time} (h : TimeOk t) {ts : Nat} (hts : ts < 2 ^ 64) (hmod : ts % 125000 = 0) :
    TimeOk { ts := ts, epoch := (t.epoch + 1) % 2 ^ 47, phase := 0, aPoint := t.aPoint } := by
  obtain ⟨-, -, -, -, hpoint⟩ := h
  exact ⟨hts, Nat.mod_lt _ (by decide), Nat.succ_pos _, hmod.symm, hpoint⟩

theorem timeOk_execEpochBoundary {mw : Nat} {s t : State} (h : TimeOk s.dev.time)
    (hstep : execEpochBoundary mw s = .next t) : TimeOk t.dev.time := by
  cases hstep
  dsimp only
  split
  · exact h
  · rename_i hc
    simp only [Bool.or_eq_true, decide_eq_true_eq, not_or, Nat.not_le] at hc
    refine timeOk_boundary _ (timeOk_epochStart h hc.2 ?_) mw
    obtain ⟨-, -, hphase, hmod, -⟩ := h
    unfold epochK
    omega

theorem timeOk_execTimestampWrap {s t : State} (h : TimeOk s.dev.time)
    (hstep : execTimestampWrap s = .next t) : TimeOk t.dev.time := by
  cases hstep
  dsimp only
  split
  · exact h
  · exact timeOk_boundary _ (timeOk_epochStart h (by decide) rfl) _

/-- Settles O57: a k-cycle within an epoch counts timestamp and phase together, a boundary begins the next epoch at phase 0
with an operating point that exists, a full reset clears the time base, and every other command keeps it. -/
theorem everyStepKeepsTheTimeBaseConsistent : Obligations.EveryStepKeepsTheTimeBaseConsistent := by
  intro s t h hstep
  cases hp : s.pending with
  | nil =>
    rw [step_of_nil hp] at hstep
    cases hstep
    exact timeOk_tick h
  | cons c r =>
    rw [step_of_cons hp] at hstep
    by_cases hk : keepsTime c
    · obtain ⟨t', hnext, -, -, htime, -⟩ := exec_next c { s with pending := r }
      obtain rfl : t' = t := by rw [hnext] at hstep; exact Host.Outcome.next.inj hstep
      rw [htime hk]
      exact h
    · obtain ⟨cause, rfl⟩ | ⟨mw, rfl⟩ | rfl := (not_keepsTime_iff c).mp hk
      · exact timeOk_execFullReset (s := { s with pending := r }) h hstep
      · exact timeOk_execEpochBoundary (s := { s with pending := r }) h hstep
      · exact timeOk_execTimestampWrap (s := { s with pending := r }) h hstep

end Sys2Proof.Proofs

/-! ## Lines of memory as bytes

What single bytes of a merged, a placed and a listed line are, and which bytes a span names. -/

namespace Sys2Proof.Proofs
open Sys2Proof.Machine Sys2Proof.Safety

theorem fld_eq (x hi lo : Nat) : fld x hi lo = x / 2 ^ lo % 2 ^ (hi + 1 - lo) := by
  rw [fld, Nat.shiftRight_eq_div_pow]

theorem leNat_lt (bs : List Byte) : leNat bs < 2 ^ (8 * bs.length) := by
  induction bs with
  | nil => decide
  | cons b r ih =>
    have hb := b.isLt
    rw [leNat, List.length_cons, Nat.mul_succ, Nat.pow_add]
    omega

/-- Byte `k` of a little-endian value. -/
theorem ofNat_leNat_div (bs : List Byte) (k : Nat) : BitVec.ofNat 8 (leNat bs / 2 ^ (8 * k)) = bs.getD k 0 := by
  induction bs generalizing k with
  | nil => simp [leNat]
  | cons b r ih =>
    cases k with
    | zero =>
      apply BitVec.eq_of_toNat_eq
      have hb := b.isLt
      simp only [leNat, List.getD_cons_zero, BitVec.toNat_ofNat]
      omega
    | succ k =>
      have hshift : leNat (b :: r) / 2 ^ (8 * (k + 1)) = leNat r / 2 ^ (8 * k) := by
        have hb := b.isLt
        rw [Nat.mul_succ, Nat.add_comm, Nat.pow_add, ← Nat.div_div_eq_div_mul]
        congr 1
        rw [leNat]
        omega
      rw [hshift, ih, List.getD_cons_succ]

theorem lineByte_ofNat (x : Nat) {k : Nat} (hk : k < 128) :
    lineByte (BitVec.ofNat 1024 x) k = BitVec.ofNat 8 (x / 2 ^ (8 * k)) := by
  apply BitVec.eq_of_getLsbD_eq
  intro i hi
  rw [lineByte, BitVec.getLsbD_extractLsb', BitVec.getLsbD_ofNat, BitVec.getLsbD_ofNat, Nat.testBit_div_two_pow,
    decide_eq_true (show 8 * k + i < 1024 by omega), Bool.true_and, Nat.add_comm]

theorem lineByte_lineOf (bs : List Byte) {k : Nat} (hk : k < 128) : lineByte (lineOf bs) k = bs.getD k 0 :=
  (lineByte_ofNat _ hk).trans (ofNat_leNat_div bs k)

theorem lineByte_mergeLine (mask : LineMask) (old new : Line) {k : Nat} (hk : k < 128) :
    lineByte (mergeLine mask old new) k = if mask.getLsbD k then lineByte new k else lineByte old k := by
  refine (lineByte_lineOf _ hk).trans ?_
  rw [List.getD_eq_getElem?_getD, List.getElem?_map, List.getElem?_range hk]
  rfl

/-- A field placed in a number that holds nothing. -/
theorem setFld_zero {n lo v : Nat} (hn : 1 ≤ n) (hv : v < 2 ^ n) : setFld 0 (lo + n - 1) lo v = v * 2 ^ lo := by
  have hwidth : lo + n - 1 + 1 - lo = n := by omega
  rw [setFld, hwidth, Nat.mod_eq_of_lt hv, Nat.zero_sub, Nat.zero_add]

/-- Bytes placed in an empty line. -/
theorem lineByte_lineSet_zero {bs : List Byte} {i k : Nat} (hne : 1 ≤ bs.length) (hik : i ≤ k) (hk : k < 128) :
    lineByte (lineSet 0 i bs) k = bs.getD (k - i) 0 := by
  have hset : lineSet 0 i bs = BitVec.ofNat 1024 (leNat bs * 2 ^ (8 * i)) := by
    simp only [lineSet, BitVec.ofNat_eq_ofNat, BitVec.toNat_zero]
    rw [setFld_zero (by omega) (leNat_lt bs)]
  have hbits : 8 * k = 8 * i + 8 * (k - i) := by omega
  rw [hset, lineByte_ofNat _ hk, hbits, Nat.pow_add, ← Nat.div_div_eq_div_mul, Nat.mul_div_cancel _ (Nat.two_pow_pos _),
    ofNat_leNat_div]

theorem getLsbD_spanMask {i n k : Nat} (hk : k < 128) : (spanMask i n).getLsbD k = decide (i ≤ k ∧ k < i + n) := by
  rw [spanMask, BitVec.getLsbD_ofNat, Nat.testBit_mul_two_pow, Nat.testBit_two_pow_sub_one]
  simp only [hk, decide_true, Bool.true_and, ← Bool.decide_and]
  exact decide_eq_decide.mpr (by omega)

/-- A line with the bytes of a span written. -/
theorem lineByte_mergeLine_span (old : Line) {bs : List Byte} {i k : Nat} (hne : 1 ≤ bs.length) (hk : k < 128) :
    lineByte (mergeLine (spanMask i bs.length) old (lineSet 0 i bs)) k =
      if i ≤ k ∧ k < i + bs.length then bs.getD (k - i) 0 else lineByte old k := by
  rw [lineByte_mergeLine _ _ _ hk, getLsbD_spanMask hk]
  by_cases h : i ≤ k ∧ k < i + bs.length
  · rw [if_pos h, if_pos (decide_eq_true h), lineByte_lineSet_zero hne h.1 hk]
  · rw [if_neg h, if_neg (by simpa using h)]

/-- An access within one line is one piece. -/
theorem piecesOf_within {a n : Nat} (hn : 1 ≤ n) (h : a % 128 + n ≤ 128) : piecesOf a n = [(a, n)] := by
  obtain ⟨m, rfl⟩ := Nat.exists_eq_add_of_le' hn
  have hmin : min (m + 1) (128 - a % 128) = m + 1 := by omega
  simp [piecesOf, pieces, hmin]

end Sys2Proof.Proofs

/-! ## Host accesses through BAR2 and to registers (00 R15-R18; 07 R242, R244, R246, R250) -/

namespace Sys2Proof.Proofs
open Sys2Proof.Machine Sys2Proof.Safety

/-! ### One rule for every command that keeps the time base and the fuses -/

theorem on_eq_withDev {f : Dev → Dev} {s : State} {d : Dev} (h : f s.dev = d) (ht : d.time = s.dev.time)
    (hf : d.fuses = s.dev.fuses) : s.on f = .next (withDev s d) := by
  rw [State.on_eq, h, ← ht, ← hf]
  rfl

theorem on_eq_self {f : Dev → Dev} {s : State} (h : f s.dev = s.dev) : s.on f = .next s :=
  on_eq_withDev h rfl rfl

/-! ### What counts changes nothing but the counters -/

/-- Nothing but the counters differs. -/
def AudSide (d e : Dev) : Prop := e = { d with aud := e.aud }

/-- Nothing but the counters and the cached translations differs. -/
def TlbSide (d e : Dev) : Prop := e = { d with aud := e.aud, mmu := { d.mmu with tlb := e.mmu.tlb } }

theorem AudSide.trans {d e g : Dev} (h : AudSide d e) (k : AudSide e g) : AudSide d g := by
  unfold AudSide at *; rw [k, h]

theorem TlbSide.trans_audSide {d e g : Dev} (h : TlbSide d e) (k : AudSide e g) : TlbSide d g := by
  unfold TlbSide AudSide at *; rw [k, h]

theorem AudSide.tlbSide {d e : Dev} (h : AudSide d e) : TlbSide d e := by
  unfold TlbSide; rw [h]

theorem TlbSide.time {d e : Dev} (h : TlbSide d e) : e.time = d.time := by rw [h]

theorem TlbSide.fuses {d e : Dev} (h : TlbSide d e) : e.fuses = d.fuses := by rw [h]

theorem TlbSide.mem {d e : Dev} (h : TlbSide d e) : e.mem = d.mem := by rw [h]

theorem TlbSide.funcs {d e : Dev} (h : TlbSide d e) : e.funcs = d.funcs := by rw [h]

theorem TlbSide.ctxs {d e : Dev} (h : TlbSide d e) : e.mmu.ctxs = d.mmu.ctxs := by rw [h]

theorem count_audSide (d : Dev) (off n : Nat) : AudSide d (d.count off n) := by
  unfold AudSide Dev.count; split <;> rfl

@[simp] theorem count_viol (d : Dev) (off n : Nat) : (d.count off n).aud.viol = d.aud.viol := by
  unfold Dev.count
  split
  · rfl
  · simp only
    split <;> rfl

/-- ACCESS_VIOLATION of a function counts one (16 R520, Table 16-10). -/
theorem denied_eq_counted {d : Dev} {f : Nat} (hf : f < 16) : d.denied f = counted d (0x70000 + 32 * f) := by
  unfold Dev.denied Dev.violFn
  rw [if_pos hf]
  rfl

theorem denied_audSide {d : Dev} {f : Nat} (hf : f < 16) : AudSide d (d.denied f) := by
  rw [denied_eq_counted hf]; rfl

theorem send_eq_of_tame {d : Dev} (h : d.mgmt.bring.wild = false) (o : Sent) : d.send o = { d with sent := d.sent ++ [o] } := by
  unfold Dev.send
  rw [h]
  rfl

/-! ### A line of which nothing is on its way -/

theorem quiet_congr {d e : Dev} (h : e.mem = d.mem) (line : Nat) : Quiet e line ↔ Quiet d line := by
  unfold Quiet Dev.dirOf; rw [h]

theorem deliverLine_quiet {d : Dev} {line : Nat} (h : ∀ r ∈ d.mem.resps, r.line ≠ line) : d.deliverLine line = d := by
  have hnone : d.mem.resps.filter (fun r => r.line == line) = [] := by simpa [List.filter_eq_nil_iff] using h
  have hall : d.mem.resps.filter (fun r => r.line != line) = d.mem.resps := by simpa [List.filter_eq_self] using h
  unfold Dev.deliverLine
  simp only [hnone, hall, List.foldl_nil]

theorem settle_quiet {d : Dev} {line : Nat} (h : Quiet d line) (n : Nat) : d.settle line n = d := by
  obtain ⟨htxn, hmiss, hresp, -⟩ := h
  cases n with
  | zero => rfl
  | succ n =>
    have hfill : d.fill line 0 = d := by unfold Dev.fill; rw [hmiss]
    unfold Dev.settle
    simp only [hfill, deliverLine_quiet hresp, htxn]

theorem dirOf_quiet {d : Dev} {line : Nat} (h : Quiet d line) : d.dirOf line = none := by
  obtain ⟨-, -, -, hdir⟩ := h
  exact hdir

theorem sharersOf_quiet {d : Dev} {line : Nat} (h : Quiet d line) : d.sharersOf line = [] := by
  unfold Dev.sharersOf
  rw [dirOf_quiet h]

theorem count_delDir (d : Dev) (line off n : Nat) : (d.delDir line).count off n = (d.count off n).delDir line := by
  unfold Dev.count
  split
  · rfl
  · rfl

theorem ncRead_quiet {d : Dev} {line : Nat} {v : VLine} (h : Quiet d line) (hv : Tab.get? d.mem.vault line = some v) (rq : Rq)
    (attr : Nat) : d.ncRead rq attr line = (v.data, v.poison, d.countSlice (d.sliceOf line) 0 1) := by
  unfold Dev.ncRead Dev.ownerShares
  simp only [settle_quiet h, dirOf_quiet h, Dev.sliceRead, hv]

/-- The vault's copy after a write-back write of a line that it holds (04 Table 4-4). -/
def written (v : VLine) (mask : LineMask) (data : Line) (poison : BitVec 16) : VLine :=
  { v with data := mergeLine mask v.data data, poison := mergePoison mask v.poison poison, dirty := true }

theorem ncWrite_quiet {d : Dev} {line : Nat} {v : VLine} (h : Quiet d line) (hv : Tab.get? d.mem.vault line = some v) (rq : Rq)
    (mask : LineMask) (data : Line) (poison : BitVec 16) :
    d.ncWrite rq 0 line mask data poison =
      ((d.countSlice (d.sliceOf line) 0 1).delDir line).putVault line (written v mask data poison) := by
  have hdel : Tab.get? (d.delDir line).mem.vault line = some v := hv
  have hslice : (d.delDir line).sliceOf line = d.sliceOf line := rfl
  unfold Dev.ncWrite
  simp only [settle_quiet h, sharersOf_quiet h, List.foldl_nil, Dev.sliceWrite, hdel, Dev.countSlice, count_delDir]
  simp [written, hslice]

theorem hostRefuses_dram {d : Dev} {f line : Nat} (h : line < 2 ^ 40) : d.hostRefuses f line = false := by
  have hdram : isHostLine line = false := decide_eq_false (Nat.not_le.mpr h)
  unfold Dev.hostRefuses
  rw [hdram]
  rfl

/-! ### The window of BAR2 (07 R242) -/

theorem barPa_of_not_reaches {d : Dev} {f off : Nat} (h : ¬ WindowReaches d f off) (k : Acc) : d.barPa f off k = (none, d) := by
  unfold Dev.barPa
  simp only
  rw [if_pos]
  unfold WindowReaches at h
  simp only [Bool.or_eq_true, Bool.not_eq_true', decide_eq_true_eq]
  cases hown : d.ownsCtx f (d.func f).winCtx with
  | false => exact .inl (.inl rfl)
  | true =>
    rw [hown] at h
    by_cases hdva : 2 ^ 48 ≤ (d.func f).winBase * 2 ^ 30 + off
    · exact .inl (.inr hdva)
    · exact .inr (Nat.not_lt.mp fun hoff => h ⟨rfl, Nat.not_le.mp hdva, hoff⟩)

theorem barPa_of_reaches {d e : Dev} {f off : Nat} {k : Acc} {r : Nat × Nat} (h : WindowReaches d f off)
    (ht : d.translate (d.func f).winCtx ((d.func f).winBase * 2 ^ 30 + off) k = (.ok r, e)) : d.barPa f off k = (some r, e) := by
  obtain ⟨hown, hdva, hoff⟩ := h
  unfold Dev.barPa
  simp only [hown, ht]
  rw [if_neg]
  simp only [Bool.or_eq_true, Bool.not_eq_true', decide_eq_true_eq, Bool.true_eq_false, false_or, not_or, Nat.not_le]
  exact ⟨hdva, hoff⟩

theorem windowReaches_congr {d e : Dev} (hx : e.mmu.ctxs = d.mmu.ctxs) (hf : e.funcs = d.funcs) (f off : Nat) :
    WindowReaches e f off ↔ WindowReaches d f off := by
  unfold WindowReaches Dev.ownsCtx Dev.ctx Dev.func
  rw [hx, hf]

/-! ### Reads through BAR2 -/

theorem barRead1_of_not_reaches {d : Dev} {f off : Nat} (h : ¬ WindowReaches d f off) (n : Nat) :
    d.barRead1 f off n = (List.replicate n 0, false, d.denied f) := by
  unfold Dev.barRead1
  rw [barPa_of_not_reaches h]

/-- A clean line of the vault that nothing is on its way to is read as it stands. -/
theorem barRead1_of_vault {d : Dev} {f off n pa attr : Nat} {v : VLine} (h : WindowReaches d f off) (hpa : pa < 2 ^ 47)
    (hq : Quiet d (pa / 128)) (hv : Tab.get? d.mem.vault (pa / 128) = some v) (hp : v.poison = 0)
    (hm : Maps d (d.func f).winCtx ((d.func f).winBase * 2 ^ 30 + off) .read pa attr) :
    ∃ e, TlbSide d e ∧ d.barRead1 f off n = (lineBytes v.data (pa % 128) n, false, e) := by
  obtain ⟨e, ht, he⟩ := hm
  have hmem : e.mem = d.mem := TlbSide.mem he
  have hclean : onesOf v.poison = [] := by rw [hp]; rfl
  refine ⟨e.countSlice (e.sliceOf (pa / 128)) 0 1, TlbSide.trans_audSide (e := e) he (count_audSide _ _ _), ?_⟩
  unfold Dev.barRead1
  rw [barPa_of_reaches h ht]
  simp only [hostRefuses_dram (show pa / 128 < 2 ^ 40 by omega), ncRead_quiet ((quiet_congr hmem _).mpr hq) (hmem ▸ hv), hclean,
    List.find?_nil]
  rfl

/-- BAR2_READ within one line sends what its one piece read (07 R242). -/
theorem exec_bar2Read {s : State} {f off n : Nat} {bs : List Byte} {e : Dev} (hf : f < 16) (hok : s.dev.hostOk f = true)
    (hn : 1 ≤ n) (hline : off % 128 + n ≤ 128) (hwild : s.dev.mgmt.bring.wild = false)
    (hread : s.dev.barRead1 f off n = (bs, false, e)) (he : TlbSide s.dev e) :
    exec (.bar2Read f off n) s =
      .next (withDev s { e.countGlobal 13 n with sent := s.dev.sent ++ [.readData f bs false] }) := by
  have hside : TlbSide s.dev (e.countGlobal 13 n) := he.trans_audSide (count_audSide _ _ _)
  have htame : (e.countGlobal 13 n).mgmt.bring.wild = false := by rw [hside]; exact hwild
  have hsent : (e.countGlobal 13 n).sent = s.dev.sent := by rw [hside]
  show execBar2Read f off n s = _
  unfold execBar2Read
  refine on_eq_withDev ?_ hside.time hside.fuses
  rw [if_neg (Nat.not_le.mpr hf), hok, piecesOf_within hn hline]
  simp only [List.foldl_cons, List.foldl_nil, hread, List.nil_append, Bool.or_false, send_eq_of_tame htame, hsent]
  rfl

/-! ### Writes through BAR2 -/

theorem exec_bar2Write_of_not_reaches {s : State} {f off : Nat} {data : List Byte} (hf : f < 16) (hok : s.dev.hostOk f = true)
    (hn : 1 ≤ data.length) (hline : off % 128 + data.length ≤ 128) (h : ¬ WindowReaches s.dev f off) :
    exec (.bar2Write f off data false) s = .next (withDev s ((s.dev.countGlobal 12 data.length).denied f)) := by
  have hcount : AudSide s.dev (s.dev.countGlobal 12 data.length) := count_audSide _ _ _
  have hside : AudSide s.dev ((s.dev.countGlobal 12 data.length).denied f) := hcount.trans (denied_audSide hf)
  have hout : ¬ WindowReaches (s.dev.countGlobal 12 data.length) f off :=
    fun k => h ((windowReaches_congr hcount.tlbSide.ctxs hcount.tlbSide.funcs f off).mp k)
  show execBar2Write f off data false s = _
  unfold execBar2Write
  refine on_eq_withDev ?_ hside.tlbSide.time hside.tlbSide.fuses
  rw [hok, piecesOf_within hn hline]
  simp only [List.foldl_cons, List.foldl_nil, Bool.false_eq_true, if_false, Bool.not_true, barPa_of_not_reaches hout]

/-- A write to a line of the vault that nothing is on its way to leaves its bytes there (04 R174, Table 4-4). -/
theorem exec_bar2Write_of_vault {s : State} {f off pa : Nat} {data : List Byte} {v : VLine} (hok : s.dev.hostOk f = true)
    (hn : 1 ≤ data.length) (hline : off % 128 + data.length ≤ 128) (h : WindowReaches s.dev f off) (hpa : pa < 2 ^ 47)
    (hq : Quiet s.dev (pa / 128)) (hv : Tab.get? s.dev.mem.vault (pa / 128) = some v)
    (hm : Maps (s.dev.countGlobal 12 data.length) (s.dev.func f).winCtx ((s.dev.func f).winBase * 2 ^ 30 + off) .write pa 0) :
    ∃ e, TlbSide s.dev e ∧ exec (.bar2Write f off data false) s = .next (withDev s ((e.delDir (pa / 128)).putVault (pa / 128)
      (written v (spanMask (pa % 128) data.length) (lineSet 0 (pa % 128) data) 0))) := by
  obtain ⟨e, ht, he⟩ := hm
  have hcount : AudSide s.dev (s.dev.countGlobal 12 data.length) := count_audSide _ _ _
  have hin : WindowReaches (s.dev.countGlobal 12 data.length) f off :=
    (windowReaches_congr hcount.tlbSide.ctxs hcount.tlbSide.funcs f off).mpr h
  have hfunc : (s.dev.countGlobal 12 data.length).func f = s.dev.func f := by unfold Dev.func; rw [hcount]
  have hbar := barPa_of_reaches hin (by rw [hfunc]; exact ht)
  have hside : TlbSide s.dev e := by unfold TlbSide; rw [he, hcount]
  have hmem : e.mem = s.dev.mem := hside.mem
  have hbytes : (data.drop (off - off)).take data.length = data := by simp
  have hcounted : TlbSide s.dev (e.countSlice (e.sliceOf (pa / 128)) 0 1) := hside.trans_audSide (count_audSide _ _ _)
  refine ⟨e.countSlice (e.sliceOf (pa / 128)) 0 1, hcounted, ?_⟩
  show execBar2Write f off data false s = _
  unfold execBar2Write
  refine on_eq_withDev ?_ hcounted.time hcounted.fuses
  rw [hok, piecesOf_within hn hline]
  simp only [List.foldl_cons, List.foldl_nil, Bool.false_eq_true, if_false, Bool.not_true, hbar, hbytes,
    hostRefuses_dram (show pa / 128 < 2 ^ 40 by omega), Bool.false_and,
    ncWrite_quiet ((quiet_congr hmem _).mpr hq) (hmem ▸ hv)]

/-! ### Register writes (00 R15-R18) -/

theorem funcThere_of_hostOk {d : Dev} {f : Nat} (h : d.hostOk f = true) : d.funcThere f = true := by
  unfold Dev.hostOk at h
  rw [Bool.and_eq_true, Bool.and_eq_true] at h
  obtain ⟨⟨hthere, -⟩, -⟩ := h
  exact hthere

theorem exec_bar0Write {s : State} {f off width v : Nat} {d : Dev} (hc : s.dev.clocked = true)
    (hrom : s.dev.mgmt.bring.st ≠ .romStart) (hok : s.dev.hostOk f = true) (h : s.dev.bar0Write f off width v = d)
    (ht : d.time = s.dev.time) (hf : d.fuses = s.dev.fuses) :
    exec (.registerWrite ⟨f, .bar0 off width, v⟩) s = .next (withDev s d) := by
  show execRegisterWrite ⟨f, .bar0 off width, v⟩ s = _
  unfold execRegisterWrite
  refine on_eq_withDev ?_ ht hf
  simp [hc, hrom, funcThere_of_hostOk hok, hok, h]

theorem exec_cfgWrite {s : State} {f v : Nat} {r : CfgReg} {d : Dev} (hc : s.dev.clocked = true)
    (hrom : s.dev.mgmt.bring.st ≠ .romStart) (hok : s.dev.hostOk f = true) (h : s.dev.cfgWrite f r v = d)
    (ht : d.time = s.dev.time) (hf : d.fuses = s.dev.fuses) :
    exec (.registerWrite ⟨f, .config r, v⟩) s = .next (withDev s d) := by
  show execRegisterWrite ⟨f, .config r, v⟩ s = _
  unfold execRegisterWrite
  refine on_eq_withDev ?_ ht hf
  simp [hc, hrom, funcThere_of_hostOk hok, h]

theorem within_user_eq_false {off : Nat} (h : off < 0x30000 ∨ 0x40000 ≤ off) : within off 0x30000 0x10000 = false := by
  simp only [within, Bool.and_eq_false_iff, decide_eq_false_iff_not]
  omega

/-- A write to a reserved address does nothing (R16). -/
theorem bar0Write_reserved {d : Dev} {f off : Nat} (hu : off < 0x30000 ∨ 0x40000 ≤ off) (h : d.regAt f off = none)
    (width v : Nat) : d.bar0Write f off width v = d := by
  unfold Dev.bar0Write
  rw [within_user_eq_false hu, h]
  rfl

/-- A write of another width or alignment than its register's is discarded and counted (R18). -/
theorem bar0Write_misfit {d : Dev} {f off width : Nat} {r : Reg} (hu : off < 0x30000 ∨ 0x40000 ≤ off)
    (h : d.regAt f off = some r) (hr : ¬ (r.start = off ∧ r.width = width)) (v : Nat) :
    d.bar0Write f off width v = d.denied f := by
  unfold Dev.bar0Write
  rw [within_user_eq_false hu, h]
  simpa using fun h1 h2 => absurd ⟨h1, h2⟩ hr

theorem bar0Write_fit {d : Dev} {f off width : Nat} {r : Reg} (hu : off < 0x30000 ∨ 0x40000 ≤ off)
    (h : d.regAt f off = some r) (hstart : r.start = off) (hwidth : r.width = width) (v : Nat) :
    d.bar0Write f off width v = d.regDo f off v := by
  unfold Dev.bar0Write
  rw [within_user_eq_false hu, h]
  simp [hstart, hwidth]

/-! ### The base register of a ring (07 R250) -/

/-- FE_RING_BASE of ring `r` starts at 0x4000 + 64 r and is 8 bytes wide. -/
theorem regAt_ringBase (d : Dev) (f : Nat) {r : Nat} (hr : r < 16) :
    ∃ v, d.regAt f (0x4000 + 64 * r) = some { start := 0x4000 + 64 * r, width := 8, value := v } := by
  have hin : within (0x4000 + 64 * r) 0x4000 0x1000 = true := by
    simp only [within, Bool.and_eq_true, decide_eq_true_eq]; omega
  have hring : ∃ v, d.ringReg f (64 * r) = some { start := 64 * r, width := 8, value := v } := by
    unfold Dev.ringReg
    rw [if_neg (show ¬ 64 * r ≥ 0x400 by omega)]
    simp only [Nat.mul_mod_right, Nat.mul_div_cancel_left r (show 0 < 64 by decide)]
    rw [if_pos (by decide)]
    simp only [reg8, Reg.shift, Option.map_some, Nat.zero_div, Nat.zero_mul, Nat.zero_add]
    exact ⟨_, rfl⟩
  obtain ⟨v, hv⟩ := hring
  refine ⟨v, ?_⟩
  unfold Dev.regAt
  rw [if_neg (by omega), if_neg (by omega), if_neg (by omega), if_neg (by omega), if_pos hin]
  simp only [Nat.add_sub_cancel_left, hv, Reg.shift, Option.map_some]
  rw [Nat.add_comm]

/-- A write of a ring's base register: denied while the ring is enabled. -/
theorem regDo_ringBase (d : Dev) (f : Nat) {r : Nat} (hr : r < 16) (v : Nat) :
    d.regDo f (0x4000 + 64 * r) v = if (d.ring f r).en then d.denied f
      else withRing d f r { d.ring f r with ctx := v / 2 ^ 48 % 256, base := v / 2 ^ 12 % 2 ^ 36 } := by
  have hin : within (0x4000 + 64 * r) 0x4000 0x1000 = true := by
    simp only [within, Bool.and_eq_true, decide_eq_true_eq]; omega
  unfold Dev.regDo
  rw [if_neg (by omega), if_neg (by omega), if_neg (by omega), if_pos hin, Nat.add_sub_cancel_left]
  unfold Dev.ringWrite
  simp only [Nat.mul_mod_right, Nat.mul_div_cancel_left r (show 0 < 64 by decide), fld_eq]
  rfl

theorem bar0Write_ringBase (d : Dev) (f : Nat) {r : Nat} (hr : r < 16) (v : Nat) :
    d.bar0Write f (0x4000 + 64 * r) 8 v = if (d.ring f r).en then d.denied f
      else withRing d f r { d.ring f r with ctx := v / 2 ^ 48 % 256, base := v / 2 ^ 12 % 2 ^ 36 } := by
  obtain ⟨x, hx⟩ := regAt_ringBase d f hr
  rw [bar0Write_fit (.inl (by omega)) hx rfl rfl, regDo_ringBase d f hr]

/-! ### HIF_WIN and the tags (07 R244, R246) -/

/-- The context field of HIF_WIN and of a tag entry. -/
theorem fld_context (v : Nat) : fld v 55 48 = v / 2 ^ 48 % 256 := fld_eq v 55 48

theorem fld_windowBase (v : Nat) : fld v 47 30 = v / 2 ^ 30 % 2 ^ 18 := fld_eq v 47 30

theorem exec_hifWinWrite_own {s : State} {f v : Nat} (hok : s.dev.hostOk f = true)
    (hown : s.dev.ownsCtx f (v / 2 ^ 48 % 256) = true) :
    exec (.hifWinWrite f v) s = .next (withDev s { s.dev with
      funcs := Tab.put s.dev.funcs f { s.dev.func f with winCtx := v / 2 ^ 48 % 256, winBase := v / 2 ^ 30 % 2 ^ 18 } }) := by
  show execHifWinWrite f v s = _
  unfold execHifWinWrite
  refine on_eq_withDev ?_ rfl rfl
  rw [hok, if_pos rfl, Dev.winWrite, fld_context, fld_windowBase, hown]
  rfl

theorem exec_hifWinWrite_foreign {s : State} {f v : Nat} (hf : f < 16) (hok : s.dev.hostOk f = true)
    (hown : s.dev.ownsCtx f (v / 2 ^ 48 % 256) = false) :
    exec (.hifWinWrite f v) s = .next (withDev s (counted s.dev (0x70000 + 32 * f))) := by
  show execHifWinWrite f v s = _
  unfold execHifWinWrite
  refine on_eq_withDev ?_ rfl rfl
  rw [hok, if_pos rfl, Dev.winWrite, fld_context, hown, if_neg Bool.false_ne_true, denied_eq_counted hf]

theorem fld_bit_of_testBit {v n : Nat} (h : v.testBit n = true) : fld v n n = 1 := by
  rw [Nat.testBit_eq_decide_div_mod_eq, decide_eq_true_iff] at h
  rw [fld_eq, Nat.add_sub_cancel_left, Nat.pow_one, h]

theorem exec_tagWrite_own {s : State} {f i v : Nat} (hi : i < (s.dev.func f).tagCount) (hv : v.testBit 63 = true)
    (hown : s.dev.ownsCtx f (v / 2 ^ 48 % 256) = true) :
    exec (.tagWrite f i v) s = .next (withDev s { s.dev with
      tags := Tab.put s.dev.tags ((s.dev.func f).tagBase + i) (2 ^ 63 + v / 2 ^ 48 % 256 * 2 ^ 48) }) := by
  show execTagWrite f i v s = _
  unfold execTagWrite
  refine on_eq_withDev ?_ rfl rfl
  unfold Dev.tagWrite
  simp only [Nat.not_le.mpr hi, if_false, fld_bit_of_testBit hv, fld_context, hown, Bool.not_true, Bool.and_false,
    Bool.false_eq_true, at_, Nat.one_mul]

theorem exec_tagWrite_foreign {s : State} {f i v : Nat} (hf : f < 16) (hi : i < (s.dev.func f).tagCount)
    (hv : v.testBit 63 = true) (hown : s.dev.ownsCtx f (v / 2 ^ 48 % 256) = false) :
    exec (.tagWrite f i v) s = .next (withDev s (counted s.dev (0x70000 + 32 * f))) := by
  show execTagWrite f i v s = _
  unfold execTagWrite
  refine on_eq_withDev ?_ rfl rfl
  unfold Dev.tagWrite
  simp only [Nat.not_le.mpr hi, if_false, bitOf, hv, fld_context, hown, Bool.not_false, Bool.and_true, if_true,
    denied_eq_counted hf]

theorem exec_tagWrite_outside {s : State} {f i : Nat} (hi : (s.dev.func f).tagCount ≤ i) (v : Nat) :
    exec (.tagWrite f i v) s = .next s :=
  on_eq_self (f := fun d => d.tagWrite f i v) (if_pos hi)

/-! ### The statement -/

/-- Accesses to a function that completes no requests (10 R376; 17 R535, R539). -/
theorem bar2_of_not_hostOk {s : State} {f : Nat} (hf : f < 16) (hwild : s.dev.mgmt.bring.wild = false)
    (hok : s.dev.hostOk f = false) (off n : Nat) (data : List Byte) :
    exec (.bar2Read f off n) s = .next (withDev s { s.dev with sent := s.dev.sent ++ [.readUr f] }) ∧
    exec (.bar2Write f off data false) s = .next s := by
  constructor
  · show execBar2Read f off n s = _
    unfold execBar2Read
    refine on_eq_withDev ?_ rfl rfl
    rw [if_neg (Nat.not_le.mpr hf), hok]
    exact send_eq_of_tame hwild _
  · show execBar2Write f off data false s = _
    unfold execBar2Write
    refine on_eq_self ?_
    rw [hok]
    rfl

theorem counted_viol_congr {d e : Dev} (h : e.aud.viol = d.aud.viol) (off : Nat) :
    (counted e off).aud.viol = (counted d off).aud.viol := by
  unfold counted
  simp only [h]

/-- A read that the window does not reach returns zeros and counts ACCESS_VIOLATION (07 R242). -/
theorem exec_bar2Read_of_not_reaches {s : State} {f off n : Nat} (hf : f < 16) (hok : s.dev.hostOk f = true) (hn : 1 ≤ n)
    (hline : off % 128 + n ≤ 128) (hwild : s.dev.mgmt.bring.wild = false) (h : ¬ WindowReaches s.dev f off) :
    ∃ t, exec (.bar2Read f off n) s = .next t ∧
      t = { s with dev := { s.dev with aud := t.dev.aud, sent := s.dev.sent ++ [.readData f (List.replicate n 0) false] } } ∧
      t.dev.aud.viol = (counted s.dev (0x70000 + 32 * f)).aud.viol := by
  have hdenied : AudSide s.dev (s.dev.denied f) := denied_audSide hf
  have hside : AudSide s.dev ((s.dev.denied f).countGlobal 13 n) := hdenied.trans (count_audSide _ _ _)
  refine ⟨_, exec_bar2Read hf hok hn hline hwild (barRead1_of_not_reaches h n) hdenied.tlbSide, ?_, ?_⟩
  · unfold withDev
    rw [hside]
  · rw [← denied_eq_counted hf]
    exact count_viol _ _ _

/-- A write that the window does not reach is dropped and counts ACCESS_VIOLATION (07 R242). -/
theorem exec_bar2Write_dropped {s : State} {f off : Nat} {data : List Byte} (hf : f < 16) (hok : s.dev.hostOk f = true)
    (hn : 1 ≤ data.length) (hline : off % 128 + data.length ≤ 128) (h : ¬ WindowReaches s.dev f off) :
    ∃ t, exec (.bar2Write f off data false) s = .next t ∧ t = { s with dev := { s.dev with aud := t.dev.aud } } ∧
      t.dev.aud.viol = (counted s.dev (0x70000 + 32 * f)).aud.viol := by
  have hside : AudSide s.dev ((s.dev.countGlobal 12 data.length).denied f) :=
    (count_audSide _ _ _ : AudSide s.dev (s.dev.countGlobal 12 data.length)).trans (denied_audSide hf)
  refine ⟨_, exec_bar2Write_of_not_reaches hf hok hn hline h, ?_, ?_⟩
  · unfold withDev
    rw [hside]
  · show ((s.dev.countGlobal 12 data.length).denied f).aud.viol = _
    rw [denied_eq_counted hf]
    exact counted_viol_congr (count_viol _ _ _) _

/-- A read that the window reaches returns the bytes of the line. -/
theorem exec_bar2Read_of_vault {s : State} {f off n pa attr : Nat} {v : VLine} (hf : f < 16) (hok : s.dev.hostOk f = true)
    (hn : 1 ≤ n) (hline : off % 128 + n ≤ 128) (hwild : s.dev.mgmt.bring.wild = false) (h : WindowReaches s.dev f off)
    (hpa : pa < 2 ^ 47) (hq : Quiet s.dev (pa / 128)) (hv : Tab.get? s.dev.mem.vault (pa / 128) = some v) (hp : v.poison = 0)
    (hm : Maps s.dev (s.dev.func f).winCtx ((s.dev.func f).winBase * 2 ^ 30 + off) .read pa attr) :
    ∃ t, exec (.bar2Read f off n) s = .next t ∧ t = { s with dev := { s.dev with
      aud := t.dev.aud, mmu := { s.dev.mmu with tlb := t.dev.mmu.tlb }
      sent := s.dev.sent ++ [.readData f ((List.range n).map (fun k => lineByte v.data (pa % 128 + k))) false] } } := by
  obtain ⟨e, he, hread⟩ := barRead1_of_vault (n := n) h hpa hq hv hp hm
  have hside : TlbSide s.dev (e.countGlobal 13 n) := he.trans_audSide (count_audSide _ _ _)
  refine ⟨_, exec_bar2Read hf hok hn hline hwild hread he, ?_⟩
  unfold withDev
  rw [hside]
  rfl

/-- A write that the window reaches leaves its bytes in the line, in the vault and dirty, and touches no other line. -/
theorem exec_bar2Write_bytes {s : State} {f off pa : Nat} {data : List Byte} {v : VLine} (hok : s.dev.hostOk f = true)
    (hn : 1 ≤ data.length) (hline : off % 128 + data.length ≤ 128) (h : WindowReaches s.dev f off) (hpa : pa < 2 ^ 47)
    (hq : Quiet s.dev (pa / 128)) (hv : Tab.get? s.dev.mem.vault (pa / 128) = some v)
    (hm : Maps (s.dev.countGlobal 12 data.length) (s.dev.func f).winCtx ((s.dev.func f).winBase * 2 ^ 30 + off) .write pa 0) :
    ∃ t v', exec (.bar2Write f off data false) s = .next t ∧ t = { s with dev := { s.dev with
        aud := t.dev.aud, mmu := { s.dev.mmu with tlb := t.dev.mmu.tlb }
        mem := { s.dev.mem with vault := t.dev.mem.vault, dir := t.dev.mem.dir } } } ∧
      t.dev.mem.dir = Tab.del s.dev.mem.dir (pa / 128) ∧
      Tab.get? t.dev.mem.vault (pa / 128) = some v' ∧ v'.dirty = true ∧
      (∀ k, k < 128 → lineByte v'.data k =
        if pa % 128 ≤ k ∧ k < pa % 128 + data.length then data.getD (k - pa % 128) 0 else lineByte v.data k) ∧
      (∀ l, l ≠ pa / 128 → Tab.get? t.dev.mem.vault l = Tab.get? s.dev.mem.vault l) := by
  obtain ⟨e, he, hexec⟩ := exec_bar2Write_of_vault hok hn hline h hpa hq hv hm
  have hmem : e.mem = s.dev.mem := he.mem
  refine ⟨_, _, hexec, ?_, congrArg (fun m : MemSys => Tab.del m.dir (pa / 128)) hmem, Tab.get?_put_self _ _ _, rfl,
    fun k hk => lineByte_mergeLine_span v.data hn hk, fun l hl => ?_⟩
  · unfold withDev Dev.delDir Dev.putVault
    rw [he]
  · have hvault : (e.delDir (pa / 128)).mem.vault = s.dev.mem.vault := by rw [← hmem]; rfl
    exact (Tab.get?_put_of_ne _ _ hl).trans (by rw [hvault])

/-- Settles O24: each clause is one access; BAR2's go through the window check, the translation and a line of the vault that
nothing is on its way to, a register's through the register at its address. -/
theorem hostAccessesOfWindowsAndRegisters : Obligations.HostAccessesOfWindowsAndRegisters := by
  constructor
  · rintro s f off n data hf hn hline rfl hwild
    refine ⟨fun hok => bar2_of_not_hostOk hf hwild hok off _ data, ?_, ?_⟩
    · intro hok hout
      exact ⟨exec_bar2Read_of_not_reaches hf hok hn hline hwild hout, exec_bar2Write_dropped hf hok hn hline hout⟩
    · intro hok hin pa attr v hpa _ hq hv
      refine ⟨fun hm hp => exec_bar2Read_of_vault hf hok hn hline hwild hin hpa hq hv hp hm, fun hm hattr => ?_⟩
      subst hattr
      exact exec_bar2Write_bytes hok hn hline hin hpa hq hv hm
  · intro s f hf hok
    refine ⟨fun v => ⟨exec_hifWinWrite_own hok, exec_hifWinWrite_foreign hf hok⟩,
      fun i v => ⟨exec_tagWrite_own, exec_tagWrite_foreign hf, fun hi => exec_tagWrite_outside hi v⟩,
      fun hc hrom => ⟨?_, ?_, ?_, ?_, ?_⟩⟩
    · refine fun off width v hu => ⟨fun hr => ?_, fun r hr hfit => ?_⟩
      · exact exec_bar0Write hc hrom hok (bar0Write_reserved hu hr width v) rfl rfl
      · exact exec_bar0Write hc hrom hok ((bar0Write_misfit hu hr hfit v).trans (denied_eq_counted hf)) rfl rfl
    · intro r v hr hen
      exact exec_bar0Write hc hrom hok ((bar0Write_ringBase _ f hr v).trans (by rw [hen]; rfl)) rfl rfl
    · intro r v hr hen
      exact exec_bar0Write hc hrom hok ((bar0Write_ringBase _ f hr v).trans (by rw [hen, denied_eq_counted hf]; rfl)) rfl rfl
    · intro v hv hf0 hvf
      exact exec_cfgWrite hc hrom hok (if_pos (by simp [hf0, hvf, hv])) rfl rfl
    · intro v hvf
      exact exec_cfgWrite hc hrom hok (if_neg (by simp [hvf])) rfl rfl

end Sys2Proof.Proofs

/-! ## What reset leaves (01 R51, R52; 04 R157; 05 R185; 06 R221; 07 R248, R250; 10 R353)

The device after reset lists partition 0 alone: every other record reads as its empty value. -/

namespace Sys2Proof.Proofs
open Sys2Proof.Machine Sys2Proof.Safety

theorem part_reset_zero : State.reset.dev.part 0 = Part.zero := rfl

theorem part_reset_of_ne {p : Nat} (h : p ≠ 0) : State.reset.dev.part p = Part.empty :=
  Tab.get_put_of_ne [] Part.zero Part.empty h

theorem ctx_reset (c : Nat) : State.reset.dev.ctx c = CtxDesc.none := rfl

theorem func_reset (f : Nat) : State.reset.dev.func f = Func.reset f := rfl

theorem ring_reset (f r : Nat) : State.reset.dev.ring f r = Ring.empty := rfl

theorem allocMask_reset (r : Nat) : State.reset.dev.allocMask r = 0xFFFF :=
  show (0x1FFFF : BitVec 17).setWidth 16 = 0xFFFF from by decide

theorem tally_reset (n : Nat) : State.reset.dev.tally n = Tally.none := rfl

/-- Settles O56: the one partition that reset lists is number 0, and the time base is that of a blank device. -/
theorem resetLeavesTheStatedValues : Obligations.ResetLeavesTheStatedValues := by
  refine ⟨⟨rfl, rfl, rfl, rfl, ?_, ?_, ?_, ?_, ?_, ?_, allocMask_reset, rfl, rfl, rfl, rfl, rfl, rfl, rfl, rfl, rfl⟩,
    timeOk_blank⟩
  · rw [part_reset_zero]
    exact ⟨rfl, rfl, rfl, rfl⟩
  · intro p hp
    rw [part_reset_of_ne hp]
    rfl
  · intro c
    rw [ctx_reset]
    rfl
  · intro f r
    rw [ring_reset]
    exact ⟨rfl, rfl, rfl, rfl, rfl⟩
  · intro f
    rw [func_reset]
    exact ⟨rfl, rfl, rfl, rfl⟩
  · intro n
    rw [tally_reset]
    exact ⟨rfl, rfl, rfl, rfl⟩

end Sys2Proof.Proofs

/-! ## Chip-wide faults (01 R53; 14 R458; 15 R497, R504; 18 R569-R574; 17 R553)

What answers, notices and interrupts leave alone comes first; a FATAL fault and a display that stops are then read off those
frames. -/

namespace Sys2Proof.Proofs
open Sys2Proof.Machine Sys2Proof.Safety

/-! ### What goes out to the host -/

/-- Interrupts go out: nothing but the functions, the free values and what is sent differs, and what was sent stays sent. -/
def InterruptSide (d e : Dev) : Prop :=
  e = { d with funcs := e.funcs, sent := e.sent, free := e.free } ∧ d.sent <+: e.sent

/-- Requests are answered and notices posted: the requests that wait may differ too. -/
def AnswerSide (d e : Dev) : Prop := InterruptSide { d with mgmt := { d.mgmt with reqs := e.mgmt.reqs } } e

theorem InterruptSide.refl (d : Dev) : InterruptSide d d := ⟨rfl, List.prefix_rfl⟩

theorem InterruptSide.trans {d e g : Dev} (h : InterruptSide d e) (k : InterruptSide e g) : InterruptSide d g := by
  obtain ⟨he, hsent⟩ := h
  obtain ⟨hg, hsent'⟩ := k
  refine ⟨?_, hsent.trans hsent'⟩
  rw [hg, he]

theorem InterruptSide.mgmt {d e : Dev} (h : InterruptSide d e) : e.mgmt = d.mgmt := by rw [h.1]

theorem InterruptSide.engines {d e : Dev} (h : InterruptSide d e) : e.engines = d.engines := by rw [h.1]

theorem InterruptSide.answerSide {d e : Dev} (h : InterruptSide d e) : AnswerSide d e := by
  unfold AnswerSide
  rw [h.mgmt]
  exact h

theorem AnswerSide.refl (d : Dev) : AnswerSide d d := (InterruptSide.refl d).answerSide

theorem AnswerSide.trans {d e g : Dev} (h : AnswerSide d e) (k : AnswerSide e g) : AnswerSide d g := by
  obtain ⟨he, hsent⟩ := h
  obtain ⟨hg, hsent'⟩ := k
  refine ⟨?_, hsent.trans hsent'⟩
  rw [hg, he]

theorem AnswerSide.mgmt {d e : Dev} (h : AnswerSide d e) : e.mgmt = { d.mgmt with reqs := e.mgmt.reqs } :=
  InterruptSide.mgmt h

theorem AnswerSide.engine {d e : Dev} (h : AnswerSide d e) (k : Nat) : e.engine k = d.engine k := by
  unfold Dev.engine
  rw [InterruptSide.engines h]

theorem modFunc_interruptSide (d : Dev) (f : Nat) (g : Func → Func) : InterruptSide d (d.modFunc f g) :=
  ⟨rfl, List.prefix_rfl⟩

theorem send_interruptSide (d : Dev) (o : Sent) : InterruptSide d (d.send o) := by
  unfold Dev.send
  split
  · exact ⟨rfl, List.prefix_append _ _⟩
  · exact ⟨rfl, List.prefix_append _ _⟩

theorem sendMsg_interruptSide (d : Dev) (f v : Nat) : InterruptSide d (d.sendMsg f v) := by
  unfold Dev.sendMsg
  simp only
  split
  · exact (modFunc_interruptSide _ _ _).trans (send_interruptSide _ _)
  · exact (modFunc_interruptSide _ _ _).trans (modFunc_interruptSide _ _ _)

theorem raiseVec_interruptSide (d : Dev) (f v : Nat) : InterruptSide d (d.raiseVec f v) := by
  unfold Dev.raiseVec
  simp only
  split
  · exact .refl d
  · split
    · split
      · exact modFunc_interruptSide _ _ _
      · exact sendMsg_interruptSide _ _ _
    · split
      · split
        · exact sendMsg_interruptSide _ _ _
        · exact modFunc_interruptSide _ _ _
      · exact sendMsg_interruptSide _ _ _

theorem notice_interruptSide (d : Dev) (f kind data : Nat) : InterruptSide d (d.notice f kind data) := by
  unfold Dev.notice
  simp only
  split
  · exact modFunc_interruptSide _ _ _
  · split
    · exact (modFunc_interruptSide _ _ _).trans (raiseVec_interruptSide _ _ _)
    · exact modFunc_interruptSide _ _ _

/-! ### Answers -/

/-- An answer takes its request out of those that wait (14 R462). -/
theorem reply_interruptSide (d : Dev) (k status detail : Nat) (payload : List Byte) :
    InterruptSide { d with mgmt := { d.mgmt with reqs := d.mgmt.reqs.eraseIdx k } } (d.reply k status detail payload) := by
  unfold Dev.reply
  split
  · rename_i hnone
    rw [List.eraseIdx_of_length_le (List.getElem?_eq_none_iff.mp hnone)]
    exact .refl d
  · simp only
    split
    · exact .refl _
    · split
      · exact (modFunc_interruptSide _ _ _).trans (raiseVec_interruptSide _ _ _)
      · exact modFunc_interruptSide _ _ _

theorem reply_reqs (d : Dev) (k status detail : Nat) (payload : List Byte) :
    (d.reply k status detail payload).mgmt.reqs = d.mgmt.reqs.eraseIdx k :=
  congrArg Mgmt.reqs (reply_interruptSide d k status detail payload).mgmt

theorem reply_answerSide (d : Dev) (k status detail : Nat) (payload : List Byte) :
    AnswerSide d (d.reply k status detail payload) := by
  unfold AnswerSide
  rw [reply_reqs]
  exact reply_interruptSide d k status detail payload

theorem replyAll_answerSide (msg : Nat) (p : MbxReq → Bool) (payload : List Byte) (n : Nat) (d : Dev) :
    AnswerSide d (d.replyAll msg p payload n) := by
  induction n generalizing d with
  | zero => exact .refl d
  | succ n ih =>
    unfold Dev.replyAll
    split
    · exact (reply_answerSide _ _ _ _ _).trans (ih _)
    · exact .refl d

theorem abortReqs_answerSide (n : Nat) (d : Dev) : AnswerSide d (d.abortReqs n) := by
  induction n generalizing d with
  | zero => exact .refl d
  | succ n ih =>
    unfold Dev.abortReqs
    split
    · exact (reply_answerSide _ _ _ _ _).trans (ih _)
    · exact .refl d

/-- With a round for every request, none that was accepted is left (14 Table 14-4). -/
theorem abortReqs_not_accepted {n : Nat} {d : Dev} (h : d.mgmt.reqs.length ≤ n) :
    ∀ r ∈ (d.abortReqs n).mgmt.reqs, r.accepted = false := by
  induction n generalizing d with
  | zero =>
    have hnil : d.mgmt.reqs = [] := List.length_eq_zero_iff.mp (Nat.le_zero.mp h)
    unfold Dev.abortReqs
    simp [hnil]
  | succ n ih =>
    unfold Dev.abortReqs
    split
    · rename_i k hk
      obtain ⟨hlt, -, -⟩ := List.findIdx?_eq_some_iff_getElem.mp hk
      refine ih ?_
      rw [reply_reqs, List.length_eraseIdx_of_lt hlt]
      omega
    · rename_i hnone
      exact List.findIdx?_eq_none_iff.mp hnone

/-! ### A fault marked FATAL (15 R504; 17 R538) -/

/-- The device with a FATAL fault recorded, before AER reports it and the requests that wait are answered. -/
def struck (d : Dev) (cause detail : Nat) : Dev :=
  { d with
    dp := { d.dp with step := 7, pending := none }
    mgmt := { d.mgmt with
      chip := chipRecord d cause detail true, faultN := true, bring := { d.mgmt.bring with st := .notReady }
      pciFatal := d.mgmt.pciFatal + 1 } }

theorem fatalFault_eq (d : Dev) (cause detail : Nat) :
    d.fatalFault cause detail =
      if d.mgmt.fw.dead then (struck d cause detail).send (.aer true)
      else ((struck d cause detail).send (.aer true)).abortReqs d.mgmt.reqs.length := by
  have hsend : ((d.chipFault cause detail true).stopPart.send (.aer true)).modMgmt
      (fun m => { m with pciFatal := m.pciFatal + 1 }) = (struck d cause detail).send (.aer true) := by
    unfold Dev.send
    by_cases hwild : d.mgmt.bring.wild = true
    · rw [if_pos (show (struck d cause detail).mgmt.bring.wild = true from hwild),
        if_pos (show (d.chipFault cause detail true).stopPart.mgmt.bring.wild = true from hwild)]
      rfl
    · rw [if_neg (show ¬ (struck d cause detail).mgmt.bring.wild = true from hwild),
        if_neg (show ¬ (d.chipFault cause detail true).stopPart.mgmt.bring.wild = true from hwild)]
      rfl
  have hmgmt : ((struck d cause detail).send (.aer true)).mgmt = (struck d cause detail).mgmt :=
    (send_interruptSide _ _).mgmt
  unfold Dev.fatalFault
  simp only [hsend, hmgmt]
  rfl

theorem fatalFault_answerSide (d : Dev) (cause detail : Nat) :
    AnswerSide ((struck d cause detail).send (.aer true)) (d.fatalFault cause detail) := by
  rw [fatalFault_eq]
  split
  · exact .refl _
  · exact abortReqs_answerSide _ _

/-- Firmware that has died answers nothing: the requests wait as before (15 R504). -/
theorem fatalFault_of_dead {d : Dev} (h : d.mgmt.fw.dead = true) (cause detail : Nat) :
    (d.fatalFault cause detail).mgmt = (struck d cause detail).mgmt := by
  rw [fatalFault_eq, if_pos h]
  exact (send_interruptSide _ _).mgmt

/-- Firmware that runs answers every accepted request (14 Table 14-4). -/
theorem fatalFault_not_accepted {d : Dev} (h : d.mgmt.fw.dead = false) (cause detail : Nat) :
    ∀ r ∈ (d.fatalFault cause detail).mgmt.reqs, r.accepted = false := by
  rw [fatalFault_eq, h, if_neg Bool.false_ne_true]
  refine abortReqs_not_accepted (Nat.le_of_eq ?_)
  rw [(send_interruptSide _ _).mgmt]
  rfl

theorem fatalFault_stopped (d : Dev) (cause detail : Nat) : Stopped d (d.fatalFault cause detail) cause detail := by
  have hanswer := fatalFault_answerSide d cause detail
  have hside : AnswerSide (struck d cause detail) (d.fatalFault cause detail) :=
    (send_interruptSide _ _).answerSide.trans hanswer
  have hmgmt := hside.mgmt
  obtain ⟨heq, -⟩ := hside
  obtain ⟨-, hsent⟩ := hanswer
  refine ⟨?_, ?_, ?_, ?_, ?_, fun hwild => hsent.subset ?_, fun hdead => ?_, ?_⟩
  · rw [hmgmt]; rfl
  · rw [heq]; rfl
  · rw [hmgmt]; rfl
  · rw [hmgmt]; rfl
  · rw [hmgmt]; rfl
  · show Sent.aer true ∈ ((struck d cause detail).send (.aer true)).sent
    rw [send_eq_of_tame (show (struck d cause detail).mgmt.bring.wild = false from hwild)]
    exact List.mem_append_right _ (List.mem_singleton.mpr rfl)
  · refine fatalFault_not_accepted ?_ cause detail
    rw [hmgmt] at hdead
    exact hdead
  · rw [heq]
    rfl

/-- A stopped part with THERMTRIP_N asserted is stopped. -/
theorem stopped_thermTrip {d e : Dev} {cause detail : Nat} (h : Stopped d e cause detail) :
    Stopped d (e.modMgmt fun m => { m with thermTrip := true }) cause detail := by
  obtain ⟨hchip, hdp, hfault, hbring, hpci, haer, hreqs, heq⟩ := h
  refine ⟨hchip, hdp, hfault, hbring, hpci, haer, hreqs, ?_⟩
  unfold Dev.modMgmt
  rw [heq]

/-- What a part that stops keeps. -/
theorem frame_of_stopped {d e : Dev} {cause detail : Nat} (h : Stopped d e cause detail) :
    e = { d with dp := e.dp, mgmt := e.mgmt, sent := e.sent, free := e.free, funcs := e.funcs } := by
  obtain ⟨-, -, -, -, -, -, -, heq⟩ := h
  exact heq

/-! ### The control complex (14 R458) -/

/-- The device with firmware that serves the mailboxes no more. -/
def firmwareDead (d : Dev) : Dev := { d with mgmt := { d.mgmt with fw := { d.mgmt.fw with dead := true } } }

theorem controlDies_eq {d : Dev} (hheld : d.mgmt.bring.held = false) (hdead : d.mgmt.fw.dead = false) (detail : Nat) :
    d.controlDies detail = (firmwareDead d).fatalFault 7 detail := by
  unfold Dev.controlDies
  rw [hheld, hdead]
  rfl

/-- A fatal fault of the control complex stops the part, and the requests wait unanswered. -/
theorem controlDies_stopped {d : Dev} (hheld : d.mgmt.bring.held = false) (hdead : d.mgmt.fw.dead = false) (detail : Nat) :
    Stopped d (d.controlDies detail) 7 detail ∧ (d.controlDies detail).mgmt.fw = { d.mgmt.fw with dead := true } ∧
      (d.controlDies detail).mgmt.reqs = d.mgmt.reqs := by
  rw [controlDies_eq hheld hdead]
  have hmgmt := fatalFault_of_dead (d := firmwareDead d) rfl 7 detail
  refine ⟨fatalFault_stopped _ 7 detail, ?_, ?_⟩
  · rw [hmgmt]; rfl
  · rw [hmgmt]; rfl

/-- The end of firmware by a fatal fault with this DETAIL, as the statement has it. -/
def Dies (c : Instr) (detail : Nat) (s : State) : Prop :=
  ∃ t, exec c s = .next t ∧ t.pending = s.pending ∧ Stopped s.dev t.dev 7 detail ∧
    t.dev.mgmt.fw = { s.dev.mgmt.fw with dead := true } ∧ t.dev.mgmt.reqs = s.dev.mgmt.reqs

theorem dies_of_controlDies {c : Instr} {s : State} {detail : Nat} (hheld : s.dev.mgmt.bring.held = false)
    (hdead : s.dev.mgmt.fw.dead = false) (h : exec c s = s.on fun d => d.controlDies detail) : Dies c detail s := by
  obtain ⟨hstop, hfw, hreqs⟩ := controlDies_stopped hheld hdead detail
  have hside := frame_of_stopped hstop
  exact ⟨_, h.trans (on_eq_withDev rfl (by rw [hside]) (by rw [hside])), rfl, hstop, hfw, hreqs⟩

theorem exec_controlFatal (s : State) {detail : Nat} (h : detail = 1 ∨ detail = 2) :
    exec (.controlFatal detail) s = s.on fun d => d.controlDies detail := by
  obtain rfl | rfl := h <;> rfl

/-! ### PLLs (01 R53; 15 R497) -/

theorem getLsbD_setBit {n : Nat} (m : BitVec n) (i : Nat) (b : Bool) {j : Nat} (hj : j < n) :
    (setBit m i b).getLsbD j = if j = i then b else m.getLsbD j := by
  have hone : (BitVec.ofNat n (2 ^ i)).getLsbD j = decide (j = i) := by
    rw [BitVec.getLsbD_ofNat, Nat.testBit_two_pow, decide_eq_true hj, Bool.true_and]
    exact decide_eq_decide.mpr eq_comm
  unfold setBit
  cases b with
  | true =>
    rw [if_pos rfl, BitVec.getLsbD_or, hone]
    by_cases h : j = i
    · simp [h]
    · simp [h]
  | false =>
    rw [if_neg Bool.false_ne_true, BitVec.getLsbD_and, BitVec.getLsbD_not, hone]
    by_cases h : j = i
    · simp [h]
    · simp [h, hj]

theorem bit_eq_pllBit (p : Pll) : Pll.bit p = pllBit p := by
  cases p <;> rfl

theorem pllSet_setPll (d : Dev) (p : Pll) (lock lost : Bool) : pllSet d.mgmt.clk p lock lost (d.setPll p lock lost).mgmt.clk := by
  refine ⟨rfl, fun j hj => ⟨?_, ?_⟩⟩
  · rw [← bit_eq_pllBit]
    exact getLsbD_setBit _ _ _ hj
  · rw [← bit_eq_pllBit]
    exact getLsbD_setBit _ _ _ hj

/-- The PLLs whose loss requires a data-plane reset, each with the cause it records (15 Table 15-6). -/
def NeedsReset (p : Pll) (cause : Nat) : Prop := (p = .array ∧ cause = 1) ∨ (p = .sys ∧ cause = 2) ∨ (p = .mem ∧ cause = 3)

/-- The PLLs of the displays. -/
def ClocksDisplay (p : Pll) (e : Nat) : Prop := (p = .disp0 ∧ e = 0) ∨ (p = .disp1 ∧ e = 1)

theorem pll_cases (p : Pll) : p = .pcie ∨ (∃ cause, NeedsReset p cause) ∨ ∃ e, ClocksDisplay p e := by
  unfold NeedsReset ClocksDisplay
  cases p <;> simp

theorem NeedsReset.ne_pcie {p : Pll} {cause : Nat} (h : NeedsReset p cause) : p ≠ .pcie := by
  rintro rfl; simp [NeedsReset] at h

theorem ClocksDisplay.ne_pcie {p : Pll} {e : Nat} (h : ClocksDisplay p e) : p ≠ .pcie := by
  rintro rfl; simp [ClocksDisplay] at h

theorem NeedsReset.not_clocksDisplay {p : Pll} {cause e : Nat} (h : NeedsReset p cause) : ¬ ClocksDisplay p e := by
  rintro (⟨rfl, -⟩ | ⟨rfl, -⟩) <;> simp [NeedsReset] at h

theorem NeedsReset.unique {p : Pll} {c c' : Nat} (h : NeedsReset p c) (h' : NeedsReset p c') : c = c' := by
  obtain ⟨rfl, rfl⟩ | ⟨rfl, rfl⟩ | ⟨rfl, rfl⟩ := h <;> simpa [NeedsReset, eq_comm] using h'

theorem ClocksDisplay.unique {p : Pll} {e e' : Nat} (h : ClocksDisplay p e) (h' : ClocksDisplay p e') : e = e' := by
  obtain ⟨rfl, rfl⟩ | ⟨rfl, rfl⟩ := h <;> simpa [ClocksDisplay, eq_comm] using h'

/-! ### A lost PLL of the data plane asks for a reset (15 R507) -/

theorem hardwareReset_side (d : Dev) : d.hardwareReset = { d with dp := d.hardwareReset.dp } := by
  unfold Dev.hardwareReset
  split
  · rfl
  · split
    · split <;> rfl
    · rfl

theorem hardwareReset_of_idle {d : Dev} (h : d.dp.step = 0) :
    d.hardwareReset.dp = { d.dp with pending := if d.dp.pending = none then some (3, []) else d.dp.pending } := by
  unfold Dev.hardwareReset
  rw [h, if_neg (by decide), if_pos rfl]
  by_cases hp : d.dp.pending = none
  · rw [if_pos hp, hp]
    rfl
  · rw [if_neg hp, if_pos (Option.isSome_iff_ne_none.mpr hp)]

theorem exec_pllLossOfLock_needsReset {s : State} {p : Pll} {cause : Nat} (hp : NeedsReset p cause)
    (h : s.dev.mgmt.clk.locks.getLsbD (pllBit p) = true) :
    exec (.pllLossOfLock p) s = .next (withDev s (((s.dev.setPll p false true).chipFault cause 0 false).hardwareReset)) := by
  show execPllLossOfLock p s = _
  unfold execPllLossOfLock
  refine on_eq_withDev ?_ (by rw [hardwareReset_side]; rfl) (by rw [hardwareReset_side]; rfl)
  rw [bit_eq_pllBit, h]
  obtain ⟨rfl, rfl⟩ | ⟨rfl, rfl⟩ | ⟨rfl, rfl⟩ := hp <;> rfl

theorem exec_pllLossOfLock_pcie {s : State} (h : s.dev.mgmt.clk.locks.getLsbD (pllBit .pcie) = true) :
    exec (.pllLossOfLock .pcie) s =
      .next (withDev s ((s.dev.setPll .pcie false true).modMgmt fun m => { m with faultN := true })) := by
  show execPllLossOfLock .pcie s = _
  unfold execPllLossOfLock
  refine on_eq_withDev ?_ rfl rfl
  rw [bit_eq_pllBit, h]
  rfl

/-! ### A lost PLL of a display stops its output (14 R481; 15 R497) -/

@[simp] theorem engine_modEngine_self (d : Dev) (e : Nat) (g : Engine → Engine) : (d.modEngine e g).engine e = g (d.engine e) :=
  Tab.get_put_self _ _ _ _

theorem engine_modEngine_of_ne (d : Dev) {e k : Nat} (g : Engine → Engine) (h : k ≠ e) : (d.modEngine e g).engine k = d.engine k :=
  Tab.get_put_of_ne _ _ _ h

/-- Requests may be answered, and of the engines only the layers of engine `e` and their partitions differ. -/
def LayerSide (e : Nat) (d t : Dev) : Prop :=
  AnswerSide { d with engines := t.engines } t ∧ (∀ k, k ≠ e → t.engine k = d.engine k) ∧
    t.engine e = { d.engine e with layers := (t.engine e).layers, bound := (t.engine e).bound }

theorem AnswerSide.layerSide {d t : Dev} (h : AnswerSide d t) (e : Nat) : LayerSide e d t := by
  refine ⟨?_, fun k _ => h.engine k, by rw [h.engine]⟩
  rw [InterruptSide.engines h]
  exact h

theorem LayerSide.trans {e : Nat} {d t u : Dev} (h : LayerSide e d t) (k : LayerSide e t u) : LayerSide e d u := by
  obtain ⟨ht, hother, hself⟩ := h
  obtain ⟨hu, hother', hself'⟩ := k
  refine ⟨?_, fun j hj => (hother' j hj).trans (hother j hj), by rw [hself', hself]⟩
  obtain ⟨hteq, htsent⟩ := ht
  obtain ⟨hueq, husent⟩ := hu
  refine ⟨?_, htsent.trans husent⟩
  rw [hueq, hteq]

/-- A change of the layers of engine `e` and their partitions. -/
theorem modEngine_layerSide (d : Dev) (e : Nat) {g : Engine → Engine}
    (h : ∀ x, g x = { x with layers := (g x).layers, bound := (g x).bound }) : LayerSide e d (d.modEngine e g) := by
  refine ⟨.refl _, fun k hk => engine_modEngine_of_ne d g hk, ?_⟩
  rw [engine_modEngine_self]
  exact h _

theorem layerBinds_layerSide (e n : Nat) (d : Dev) : LayerSide e d (d.layerBinds e n) := by
  induction n generalizing d with
  | zero => exact (AnswerSide.refl d).layerSide e
  | succ n ih =>
    unfold Dev.layerBinds
    split
    · exact (AnswerSide.refl d).layerSide e
    · split
      · exact (AnswerSide.refl d).layerSide e
      · exact ((modEngine_layerSide d e fun _ => rfl).trans ((reply_answerSide _ _ _ _ _).layerSide e)).trans (ih _)

theorem commitApply_layerSide (d : Dev) (e : Nat) (c : Commit) (later : List Commit) : LayerSide e d (d.commitApply e c later) := by
  unfold Dev.commitApply
  exact (modEngine_layerSide d e fun _ => rfl).trans ((modFunc_interruptSide _ _ _).answerSide.layerSide e)

theorem commitAll_layerSide (e : Nat) (cs : List Commit) (d : Dev) : LayerSide e d (d.commitAll e cs) := by
  induction cs generalizing d with
  | nil => exact (AnswerSide.refl d).layerSide e
  | cons c r ih => exact (commitApply_layerSide d e c r).trans (ih _)

/-- An engine whose output has stopped (14 R481). -/
def haltedEngine (g : Engine) : Engine :=
  { g with running := false, starting := false, stopping := false, scanning := false, te := false, commits := []
           mode := setBit g.mode 255 false }

theorem stopOutput_layerSide (d : Dev) (e : Nat) : LayerSide e (d.modEngine e haltedEngine) (d.stopOutput e) :=
  (layerBinds_layerSide _ _ _).trans (commitAll_layerSide _ _ _)

/-- What the loss of a display's PLL does: its output stops, a DISPLAY_MODE that waits is answered, and a notice tells of it. -/
def displayLost (d : Dev) (e : Nat) : Dev :=
  (((d.chipFault 4 e false).stopOutput e).replyAll 0x0401 (fun r => r.p 0 1 == e) [] 4).notice 0 3 e

theorem displayLost_layerSide (d : Dev) (e : Nat) :
    LayerSide e ((d.chipFault 4 e false).modEngine e haltedEngine) (displayLost d e) :=
  (stopOutput_layerSide _ _).trans
    (((replyAll_answerSide _ _ _ _ _).trans (notice_interruptSide _ _ _ _).answerSide).layerSide e)

theorem displayLost_clk (d : Dev) (e : Nat) : (displayLost d e).mgmt.clk = d.mgmt.clk := by
  obtain ⟨hanswer, -, -⟩ := displayLost_layerSide d e
  rw [hanswer.mgmt]
  rfl

/-- The fault is recorded, engine `e` runs no more with EN clear, and the other engines go on. -/
theorem displayLost_spec (d : Dev) (e : Nat) :
    (displayLost d e).mgmt.chip = chipRecord d 4 e false ∧ ((displayLost d e).engine e).running = false ∧
      ((displayLost d e).engine e).mode.getLsbD 255 = false ∧ (∀ k, k ≠ e → (displayLost d e).engine k = d.engine k) ∧
      (displayLost d e).dp = d.dp ∧ (displayLost d e).mem = d.mem := by
  obtain ⟨hanswer, hother, hself⟩ := displayLost_layerSide d e
  have hmgmt := hanswer.mgmt
  obtain ⟨heq, -⟩ := hanswer
  rw [engine_modEngine_self] at hself
  refine ⟨?_, ?_, ?_, fun k hk => (hother k hk).trans (engine_modEngine_of_ne _ _ hk), ?_, ?_⟩
  · rw [hmgmt]; rfl
  · rw [hself]; rfl
  · rw [hself]
    exact getLsbD_setBit _ 255 false (by decide)
  · rw [heq]; rfl
  · rw [heq]; rfl

theorem exec_pllLossOfLock_display {s : State} {p : Pll} {e : Nat} (hp : ClocksDisplay p e)
    (h : s.dev.mgmt.clk.locks.getLsbD (pllBit p) = true) :
    exec (.pllLossOfLock p) s = .next (withDev s (displayLost (s.dev.setPll p false true) e)) := by
  obtain ⟨⟨hside, -⟩, -, -⟩ := displayLost_layerSide (s.dev.setPll p false true) e
  show execPllLossOfLock p s = _
  unfold execPllLossOfLock
  refine on_eq_withDev ?_ (by rw [hside]; rfl) (by rw [hside]; rfl)
  rw [bit_eq_pllBit, h]
  obtain ⟨rfl, rfl⟩ | ⟨rfl, rfl⟩ := hp <;> rfl

/-! ### The clauses of a PLL -/

/-- PLL_LOSS_OF_LOCK of a PLL that is locked, as the statement has it. -/
theorem exec_pllLossOfLock {s : State} {p : Pll} (h : s.dev.mgmt.clk.locks.getLsbD (pllBit p) = true) :
    ∃ t, exec (.pllLossOfLock p) s = .next t ∧ t.pending = s.pending ∧ pllSet s.dev.mgmt.clk p false true t.dev.mgmt.clk ∧
      (p = .pcie → t.dev = { s.dev with mgmt := { s.dev.mgmt with clk := t.dev.mgmt.clk, faultN := true } }) ∧
      (∀ cause, NeedsReset p cause → s.dev.dp.step = 0 →
        t.dev = { s.dev with
          mgmt := { s.dev.mgmt with clk := t.dev.mgmt.clk, chip := chipRecord s.dev cause 0 false }
          dp := { s.dev.dp with pending := if s.dev.dp.pending = none then some (3, []) else s.dev.dp.pending } }) ∧
      (∀ e, ClocksDisplay p e → t.dev.mgmt.chip = chipRecord s.dev 4 e false ∧
        (t.dev.engine e).running = false ∧ (t.dev.engine e).mode.getLsbD 255 = false ∧
        (∀ k, k ≠ e → t.dev.engine k = s.dev.engine k) ∧ t.dev.dp = s.dev.dp ∧ t.dev.mem = s.dev.mem) := by
  have hset := pllSet_setPll s.dev p false true
  obtain rfl | ⟨cause, hp⟩ | ⟨e, hp⟩ := pll_cases p
  · refine ⟨_, exec_pllLossOfLock_pcie h, rfl, hset, fun _ => rfl, fun cause hp => ?_, fun e hp => ?_⟩
    · exact absurd rfl hp.ne_pcie
    · exact absurd rfl hp.ne_pcie
  · have hside := hardwareReset_side ((s.dev.setPll p false true).chipFault cause 0 false)
    refine ⟨_, exec_pllLossOfLock_needsReset hp h, rfl, ?_, fun hpcie => absurd hpcie hp.ne_pcie, fun c hc hidle => ?_,
      fun e he => absurd he hp.not_clocksDisplay⟩
    · show pllSet _ p false true (Dev.hardwareReset _).mgmt.clk
      rw [hside]
      exact hset
    · obtain rfl := hp.unique hc
      have hdp := hardwareReset_of_idle (d := (s.dev.setPll p false true).chipFault cause 0 false) hidle
      show Dev.hardwareReset _ = _
      rw [hside, hdp]
      rfl
  · refine ⟨_, exec_pllLossOfLock_display hp h, rfl, ?_, fun hpcie => absurd hpcie hp.ne_pcie,
      fun c hc => absurd hp hc.not_clocksDisplay, fun k hk => ?_⟩
    · show pllSet _ p false true (displayLost _ e).mgmt.clk
      rw [displayLost_clk]
      exact hset
    · obtain rfl := hp.unique hk
      exact displayLost_spec (s.dev.setPll p false true) e

theorem exec_pllLossOfLock_of_unlocked {s : State} {p : Pll} (h : s.dev.mgmt.clk.locks.getLsbD (pllBit p) = false) :
    exec (.pllLossOfLock p) s = .next s := by
  show execPllLossOfLock p s = _
  unfold execPllLossOfLock
  refine on_eq_self ?_
  rw [bit_eq_pllBit, h]
  rfl

/-- A PLL other than PCIe's that lost lock: it locks again, or 10 ms pass (15 R497). -/
theorem exec_pllRelock_of_lost {s : State} {p : Pll} (hp : p ≠ .pcie) (h : s.dev.mgmt.clk.lost.getLsbD (pllBit p) = true) :
    exec (.pllRelock p) s = .next (withDev s (s.dev.setPll p true false)) := by
  show execPllRelock p s = _
  unfold execPllRelock
  refine on_eq_withDev ?_ rfl rfl
  simp [hp, bit_eq_pllBit, h]

theorem exec_pllFail_of_lost {s : State} {p : Pll} (hp : p ≠ .pcie) (h : s.dev.mgmt.clk.lost.getLsbD (pllBit p) = true) :
    exec (.pllFail p) s = .next (withDev s (s.dev.fatalFault 6 (pllBit p))) := by
  have hside := frame_of_stopped (fatalFault_stopped s.dev 6 (pllBit p))
  show execPllFail p s = _
  unfold execPllFail
  refine on_eq_withDev ?_ (by rw [hside]) (by rw [hside])
  simp [hp, bit_eq_pllBit, h]

theorem exec_pll_of_not_lost {s : State} {p : Pll} (h : p = .pcie ∨ s.dev.mgmt.clk.lost.getLsbD (pllBit p) = false) :
    exec (.pllRelock p) s = .next s ∧ exec (.pllFail p) s = .next s := by
  have hguard : (p != Pll.pcie && s.dev.mgmt.clk.lost.getLsbD (Pll.bit p)) = false := by
    rw [bit_eq_pllBit]
    obtain rfl | h := h
    · rfl
    · rw [h, Bool.and_false]
  refine ⟨on_eq_self (f := fun d => ite _ _ d) ?_, on_eq_self (f := fun d => ite _ _ d) ?_⟩
  · rw [hguard]; rfl
  · rw [hguard]; rfl

/-! ### Sensors (17 R553; 18 R569, R574) -/

theorem sext_eq_signed (x : Nat) : sext 16 x = signed 16 x := by
  unfold sext signed
  split
  · rw [if_pos (by omega)]
    rfl
  · rw [if_neg (by omega)]

/-- Starting from the first, the largest of the readings. -/
theorem foldl_max_eq_max {v : List Int} (h : v ≠ []) : v.foldl max ((v[0]?).getD 0) = v.max h := by
  rw [List.foldl_max_eq_max h]
  cases v with
  | nil => exact absurd rfl h
  | cons x r => exact Int.max_eq_right (List.le_max_of_mem List.mem_cons_self)

/-- Each sensor at 115 °C or more, with its consecutive samples there, up to four (18 R574). -/
def hotCounts (hot : Tab Nat) (v : List Int) : Tab Nat :=
  ((List.range 72).filter (fun i => decide (1840 ≤ (v[i]?).getD 0))).map (fun i => (i, min 4 (Tab.get hot i 0 + 1)))

/-- The device with the 72 readings taken in. -/
def sampled (d : Dev) (v : List Int) (top : Int) : Dev :=
  { d with mgmt := { d.mgmt with pow := { d.mgmt.pow with
      sensors := v, hot := hotCounts d.mgmt.pow.hot v, tsum := d.mgmt.pow.tsum + top, tn := d.mgmt.pow.tn + 1 } } }

/-- A sample trips once: while THERMTRIP_N is not asserted and a sensor was hot four times. -/
def trips (d : Dev) (v : List Int) : Bool := !d.mgmt.thermTrip && (hotCounts d.mgmt.pow.hot v).any (fun e => e.2 == 4)

theorem thermalTrip_stopped (d : Dev) : Stopped d d.thermalTrip 8 0 := stopped_thermTrip (fatalFault_stopped d 8 0)

theorem thermalTrip_pow (d : Dev) : d.thermalTrip.mgmt.pow = d.mgmt.pow := by
  have hmgmt := ((send_interruptSide _ _).answerSide.trans (fatalFault_answerSide d 8 0)).mgmt
  show (d.fatalFault 8 0).mgmt.pow = _
  rw [hmgmt]
  rfl

theorem exec_sensorSample {s : State} {temps : List Nat} (hlen : temps.length = 72) (hc : s.dev.clocked = true) {v : List Int}
    (hv : temps.map (signed 16) = v) (hne : v ≠ []) :
    exec (.sensorSample temps) s = .next (withDev s
      (if trips s.dev v then (sampled s.dev v (v.max hne)).thermalTrip else sampled s.dev v (v.max hne))) := by
  have hside := frame_of_stopped (thermalTrip_stopped (sampled s.dev v (v.max hne)))
  show execSensorSample temps s = _
  unfold execSensorSample
  refine on_eq_withDev ?_ ?_ ?_
  · have hread : temps.map (sext 16) = v := (List.map_congr_left fun x _ => sext_eq_signed x).trans hv
    simp only [hlen, hc, hread, foldl_max_eq_max hne]
    rfl
  · split
    · rw [hside]; rfl
    · rfl
  · split
    · rw [hside]; rfl
    · rfl

/-- SENSOR_SAMPLE, as the statement has it. -/
theorem exec_sensorSample_spec {s : State} {temps : List Nat} (hlen : temps.length = 72) (hc : s.dev.clocked = true) :
    let v := temps.map (signed 16)
    let hot := hotCounts s.dev.mgmt.pow.hot v
    ∃ t top, exec (.sensorSample temps) s = .next t ∧ t.pending = s.pending ∧ top ∈ v ∧ (∀ x ∈ v, x ≤ top) ∧
      t.dev.mgmt.pow = { s.dev.mgmt.pow with sensors := v, hot := hot, tsum := s.dev.mgmt.pow.tsum + top, tn := s.dev.mgmt.pow.tn + 1 } ∧
      ((¬ ∃ e ∈ hot, e.2 = 4) → t.dev = { s.dev with mgmt := { s.dev.mgmt with pow := t.dev.mgmt.pow } }) ∧
      ((∃ e ∈ hot, e.2 = 4) → s.dev.mgmt.thermTrip = false → Stopped s.dev t.dev 8 0 ∧ t.dev.mgmt.thermTrip = true) := by
  intro v hot
  have hne : v ≠ [] := by
    rintro hnil
    rw [List.map_eq_nil_iff.mp hnil] at hlen
    exact absurd hlen (by decide)
  have htrips : trips s.dev v = true ↔ s.dev.mgmt.thermTrip = false ∧ ∃ e ∈ hot, e.2 = 4 := by
    unfold trips
    rw [Bool.and_eq_true, Bool.not_eq_true', List.any_eq_true]
    simp only [beq_iff_eq]
    rfl
  refine ⟨_, v.max hne, exec_sensorSample hlen hc rfl hne, rfl, List.max_mem hne, fun x hx => List.le_max_of_mem hx, ?_, ?_, ?_⟩
  · show (ite _ _ _ : Dev).mgmt.pow = _
    split
    · exact thermalTrip_pow _
    · rfl
  · intro hcool
    show (ite _ _ _ : Dev) = _
    rw [if_neg fun h => hcool (htrips.mp h).2]
    rfl
  · intro hhot hfirst
    have htrip := htrips.mpr ⟨hfirst, hhot⟩
    show Stopped s.dev (ite _ _ _) 8 0 ∧ (ite _ _ _ : Dev).mgmt.thermTrip = true
    rw [if_pos htrip]
    exact ⟨thermalTrip_stopped (sampled s.dev v (v.max hne)), rfl⟩

/-! ### The regulator bus (17 R553; 18 R573) -/

theorem fwRuns_of {d : Dev} (hheader : d.mgmt.fw.header ≠ none) (hdead : d.mgmt.fw.dead = false) : d.fwRuns = true := by
  unfold Dev.fwRuns
  rw [hdead, Option.isSome_iff_ne_none.mpr hheader]
  rfl

theorem exec_avsbusTransaction_none {s : State} (hc : s.dev.clocked = true) (hfw : s.dev.fwRuns = true) :
    exec (.avsbusTransaction none) s = .next (withDev s { s.dev with mgmt := { s.dev.mgmt with
      pow := { s.dev.mgmt.pow with avsFails := s.dev.mgmt.pow.avsFails + 1 } } }) := by
  show execAvsbusTransaction none s = _
  unfold execAvsbusTransaction
  refine on_eq_withDev ?_ rfl rfl
  rw [hc, hfw]
  rfl

theorem exec_avsbusTransaction_some {s : State} (hc : s.dev.clocked = true) (hfw : s.dev.fwRuns = true) {mv : Nat}
    (hmv : mv < 2 ^ 16) :
    exec (.avsbusTransaction (some mv)) s = .next (withDev s { s.dev with mgmt := { s.dev.mgmt with
      pow := { s.dev.mgmt.pow with
        avsRead := some mv, avsFails := 0
        avsAt := if s.dev.time.phase ≤ 122500 then some mv else s.dev.mgmt.pow.avsAt } } }) := by
  show execAvsbusTransaction (some mv) s = _
  unfold execAvsbusTransaction
  refine on_eq_withDev ?_ rfl rfl
  simp only [hc, hfw, Nat.mod_eq_of_lt hmv]
  rfl

/-! ### The statement -/

/-- Settles O53: a PLL's clauses follow from its class (PCIe, data plane, display); every fault that stops the part is one
`Dev.fatalFault`. -/
theorem chipFaultsStopThePart : Obligations.ChipFaultsStopThePart := by
  refine ⟨fun s p => ⟨exec_pllLossOfLock_of_unlocked, exec_pllLossOfLock, fun hp hlost => ⟨?_, ?_⟩, exec_pll_of_not_lost⟩,
    fun s hheld hdead => ⟨?_, ?_, ?_⟩, fun s temps hlen hc => exec_sensorSample_spec hlen hc,
    fun s hc hheader hdead => ⟨?_, fun mv hmv => ?_⟩, fun s => rfl⟩
  · exact ⟨_, exec_pllRelock_of_lost hp hlost, pllSet_setPll s.dev p true false, rfl⟩
  · exact ⟨_, exec_pllFail_of_lost hp hlost, rfl, fatalFault_stopped s.dev 6 (pllBit p)⟩
  · exact dies_of_controlDies hheld hdead (exec_controlFatal s (.inl rfl))
  · exact dies_of_controlDies hheld hdead (exec_controlFatal s (.inr rfl))
  · exact dies_of_controlDies hheld hdead (c := .controlWatchdog) rfl
  · exact exec_avsbusTransaction_none hc (fwRuns_of hheader hdead)
  · exact exec_avsbusTransaction_some hc (fwRuns_of hheader hdead) hmv

end Sys2Proof.Proofs

/-! ## What accesses to memory can touch (04 R147-R172; 05 R189-R198)

One frame per layer: memory behind the vault (`BehindSide`), a home slice (`SliceSide`), a core's own state (`CoreSide`), and all
that an access can reach (`MemorySide`). Each function of the memory system has one lemma that says which frame it keeps. -/

namespace Sys2Proof.Safety
open Sys2Proof.Machine

/-! ### The frames of the statements compose -/

theorem MemorySide.refl (d : Dev) : MemorySide d d := ⟨rfl, fun _ => rfl, fun _ => rfl⟩

theorem MemorySide.trans {d e g : Dev} (h : MemorySide d e) (k : MemorySide e g) : MemorySide d g := by
  obtain ⟨he, hef, hep⟩ := h
  obtain ⟨hg, hgf, hgp⟩ := k
  refine ⟨?_, fun f => ?_, fun p => ?_⟩
  · rw [hg, he]
  · rw [hgf, hef]
  · rw [hgp, hep]

theorem MemorySide.time {d e : Dev} (h : MemorySide d e) : e.time = d.time := by
  obtain ⟨he, -⟩ := h
  rw [he]

theorem MemorySide.fuses {d e : Dev} (h : MemorySide d e) : e.fuses = d.fuses := by
  obtain ⟨he, -⟩ := h
  rw [he]

theorem MemorySide.foldl {β : Type} {f : Dev → β → Dev} (h : ∀ d b, MemorySide d (f d b)) (l : List β) (d : Dev) :
    MemorySide d (l.foldl f d) := by
  induction l generalizing d with
  | nil => exact .refl d
  | cons b r ih => exact (h d b).trans (ih (f d b))

theorem CoreSide.memorySide {d e : Dev} (h : CoreSide d e) : MemorySide d e := by
  unfold CoreSide at h
  rw [h]
  exact ⟨rfl, fun _ => rfl, fun _ => rfl⟩

theorem CoreSide.mem {d e : Dev} (h : CoreSide d e) : e.mem = d.mem := by
  unfold CoreSide at h
  rw [h]

theorem IssueOnly.coreSide {ci : Nat} {d e : Dev} (h : IssueOnly ci d e) : CoreSide d e := by
  obtain ⟨hside, -⟩ := h
  exact hside

end Sys2Proof.Safety

namespace Sys2Proof.Proofs
open Sys2Proof.Machine Sys2Proof.Safety

/-! ### Memory behind the vault and its slices -/

/-- Nothing but memory behind the vault, the counters, the budgets used and the job faults on their way differs. -/
def BehindSide (d e : Dev) : Prop :=
  e = { d with aud := e.aud, parts := e.parts, faults := e.faults, mem := { d.mem with
    dram := e.mem.dram, dpoison := e.mem.dpoison, host := e.mem.host } } ∧
  ∀ p, e.part p = { d.part p with dramUsed := (e.part p).dramUsed, hostUsed := (e.part p).hostUsed }

/-- Beside what is behind the vault nothing but the slices' lines, victims and prefetches differs. -/
def SliceSide (d e : Dev) : Prop :=
  e = { d with aud := e.aud, parts := e.parts, faults := e.faults, mem := { d.mem with
    dram := e.mem.dram, dpoison := e.mem.dpoison, host := e.mem.host, vault := e.mem.vault, vrr := e.mem.vrr
    prefetches := e.mem.prefetches } } ∧
  ∀ p, e.part p = { d.part p with dramUsed := (e.part p).dramUsed, hostUsed := (e.part p).hostUsed }

theorem BehindSide.refl (d : Dev) : BehindSide d d := ⟨rfl, fun _ => rfl⟩

theorem BehindSide.trans {d e g : Dev} (h : BehindSide d e) (k : BehindSide e g) : BehindSide d g := by
  obtain ⟨he, hep⟩ := h
  obtain ⟨hg, hgp⟩ := k
  refine ⟨?_, fun p => ?_⟩
  · rw [hg, he]
  · rw [hgp, hep]

theorem BehindSide.sliceSide {d e : Dev} (h : BehindSide d e) : SliceSide d e := by
  obtain ⟨he, hep⟩ := h
  refine ⟨?_, hep⟩
  rw [he]

theorem SliceSide.refl (d : Dev) : SliceSide d d := (BehindSide.refl d).sliceSide

theorem SliceSide.trans {d e g : Dev} (h : SliceSide d e) (k : SliceSide e g) : SliceSide d g := by
  obtain ⟨he, hep⟩ := h
  obtain ⟨hg, hgp⟩ := k
  refine ⟨?_, fun p => ?_⟩
  · rw [hg, he]
  · rw [hgp, hep]

theorem SliceSide.memorySide {d e : Dev} (h : SliceSide d e) : MemorySide d e := by
  obtain ⟨he, hep⟩ := h
  refine ⟨?_, fun f => ?_, hep⟩
  · rw [he]
  · rw [he]
    rfl

theorem AudSide.behindSide {d e : Dev} (h : AudSide d e) : BehindSide d e := by
  unfold AudSide at h
  rw [h]
  exact .refl _

/-! ### Memory behind the vault (17 R542-R548) -/

theorem modPart_behindSide {f : Part → Part}
    (h : ∀ x, f x = { x with dramUsed := (f x).dramUsed, hostUsed := (f x).hostUsed }) (d : Dev) (p : Nat) :
    BehindSide d (d.modPart p f) := by
  refine ⟨rfl, fun q => ?_⟩
  by_cases hq : q = p
  · subst hq
    have hpart : (d.modPart q f).part q = f (d.part q) := Tab.get_put_self _ _ _ _
    rw [hpart]
    exact h _
  · have hpart : (d.modPart p f).part q = d.part q := Tab.get_put_of_ne _ _ _ hq
    rw [hpart]

theorem useDram_behindSide (d : Dev) (p : Option Nat) (n : Nat) : BehindSide d (d.useDram p n) := by
  cases p with
  | none => exact .refl d
  | some p => exact modPart_behindSide (f := fun x => { x with dramUsed := x.dramUsed + n }) (fun _ => rfl) d p

theorem useHost_behindSide (d : Dev) (p : Option Nat) (n : Nat) : BehindSide d (d.useHost p n) := by
  cases p with
  | none => exact .refl d
  | some p => exact modPart_behindSide (f := fun x => { x with hostUsed := x.hostUsed + n }) (fun _ => rfl) d p

theorem count_behindSide (d : Dev) (off n : Nat) : BehindSide d (d.count off n) := (count_audSide d off n).behindSide

theorem poisonWriteFaults_behindSide (rq : Rq) (l : Nat) (ks : List Nat) (d : Dev) :
    BehindSide d (ks.foldl (fun d k => d.poisonWriteFault rq l k) d) := by
  induction ks generalizing d with
  | nil => exact .refl d
  | cons k r ih =>
    have hraise : BehindSide d (d.poisonWriteFault rq l k) := ⟨rfl, fun _ => rfl⟩
    exact hraise.trans (ih _)

theorem dramRead_behindSide (d : Dev) (l : Nat) : BehindSide d (d.dramRead l).2.2 :=
  count_behindSide d (0x6A000 + 8 * 8) 1

theorem dramWrite_behindSide (d : Dev) (rq : Rq) (l : Nat) (mask : LineMask) (data : Line) (poison : BitVec 16) :
    BehindSide d (d.dramWrite rq l mask data poison) := by
  have hput : ∀ (e : Dev) (m : Mem) (t : Tab (BitVec 16)),
      BehindSide e { e with mem := { e.mem with dram := m, dpoison := t } } := fun _ _ _ => ⟨rfl, fun _ => rfl⟩
  have hread : BehindSide d (if (mask == fullMask) = true then (0, 0, d) else d.dramRead l : Line × BitVec 16 × Dev).2.2 := by
    split
    · exact .refl d
    · exact dramRead_behindSide _ _
  unfold Dev.dramWrite
  dsimp only
  generalize (if (mask == fullMask) = true then (0, 0, d) else d.dramRead l : Line × BitVec 16 × Dev) = x at hread ⊢
  obtain ⟨old, oldP, e⟩ := x
  refine hread.trans ((count_behindSide e (0x6A000 + 8 * 9) 1).trans ?_)
  dsimp only
  split
  · exact (hput _ _ _).trans (poisonWriteFaults_behindSide _ _ _ _)
  · exact hput _ _ _

theorem memRead_behindSide (d : Dev) (rq : Rq) (l : Nat) : BehindSide d (d.memRead rq l).2.2 := by
  unfold Dev.memRead
  split
  · exact (count_behindSide _ _ _).trans (useHost_behindSide _ _ _)
  · exact (useDram_behindSide _ _ _).trans (dramRead_behindSide _ _)

theorem memWrite_behindSide (d : Dev) (rq : Rq) (l : Nat) (mask : LineMask) (data : Line) (poison : BitVec 16) :
    BehindSide d (d.memWrite rq l mask data poison) := by
  have hput : ∀ m : Mem, BehindSide d { d with mem := { d.mem with host := m } } := fun _ => ⟨rfl, fun _ => rfl⟩
  unfold Dev.memWrite
  split
  · split
    · exact .refl d
    · exact (hput _).trans ((count_behindSide _ _ _).trans (useHost_behindSide _ _ _))
  · exact (useDram_behindSide _ _ _).trans (dramWrite_behindSide _ _ _ _ _ _)

/-! ### Home slices (04 R149-R154) -/

theorem delVault_sliceSide (d : Dev) (l : Nat) : SliceSide d (d.delVault l) := ⟨rfl, fun _ => rfl⟩

theorem putVault_sliceSide (d : Dev) (l : Nat) (v : VLine) : SliceSide d (d.putVault l v) := ⟨rfl, fun _ => rfl⟩

theorem evictWay_sliceSide (d : Dev) (rq : Rq) (slice set w : Nat) : SliceSide d (d.evictWay rq slice set w) := by
  unfold Dev.evictWay
  split
  · exact .refl d
  · dsimp only
    split
    · exact (delVault_sliceSide _ _).trans ((memWrite_behindSide _ _ _ _ _ _).trans (count_behindSide _ _ _)).sliceSide
    · exact delVault_sliceSide _ _

theorem allocate_sliceSide {d e : Dev} {rq : Rq} {l : Nat} {data : Line} {poison : BitVec 16} {dirty streaming ev : Bool}
    (h : d.allocate rq l data poison dirty streaming = some (ev, e)) : SliceSide d e := by
  unfold Dev.allocate at h
  dsimp only at h
  split at h
  · cases h
  · cases h
    refine SliceSide.trans (e := ite _ _ _) ?_ (putVault_sliceSide _ _ _)
    split
    · exact (evictWay_sliceSide _ _ _ _ _).trans ⟨rfl, fun _ => rfl⟩
    · exact evictWay_sliceSide _ _ _ _ _

theorem issueNlp_sliceSide (d : Dev) (rq : Rq) (attr l : Nat) : SliceSide d (d.issueNlp rq attr l) := by
  unfold Dev.issueNlp
  split
  · exact ⟨rfl, fun _ => rfl⟩
  · exact .refl d

theorem sliceRead_sliceSide (d : Dev) (rq : Rq) (attr l : Nat) : SliceSide d (d.sliceRead rq attr l).2.2 := by
  have hcount : ∀ n, BehindSide d (d.countSlice (d.sliceOf l) n 1) := fun n => count_behindSide _ _ _
  unfold Dev.sliceRead
  split
  · exact (hcount 0).sliceSide
  · have hread := ((hcount 1).trans (memRead_behindSide _ rq l)).sliceSide
    dsimp only
    generalize (d.countSlice (d.sliceOf l) 1 1).memRead rq l = x at hread ⊢
    obtain ⟨data, poison, e⟩ := x
    dsimp only at hread ⊢
    split
    · split
      · next halloc => exact (hread.trans (allocate_sliceSide halloc)).trans (issueNlp_sliceSide _ _ _ _)
      · exact hread
    · exact hread

theorem sliceWrite_sliceSide (d : Dev) (rq : Rq) (attr l : Nat) (mask : LineMask) (data : Line) (poison : BitVec 16) :
    SliceSide d (d.sliceWrite rq attr l mask data poison) := by
  have hcount : ∀ n, SliceSide d (d.countSlice (d.sliceOf l) n 1) := fun n => (count_behindSide _ _ _).sliceSide
  have hwrite : ∀ e : Dev, SliceSide e (e.memWrite rq l mask data poison) := fun e => (memWrite_behindSide _ _ _ _ _ _).sliceSide
  unfold Dev.sliceWrite
  split
  · dsimp only
    split
    · exact ((hcount 0).trans (putVault_sliceSide _ _ _)).trans (hwrite _)
    · exact (hcount 0).trans (putVault_sliceSide _ _ _)
  · have hread : SliceSide d (if (mask == fullMask) = true then (0, 0, d.countSlice (d.sliceOf l) 1 1)
        else (d.countSlice (d.sliceOf l) 1 1).memRead rq l : Line × BitVec 16 × Dev).2.2 := by
      split
      · exact hcount 1
      · exact (hcount 1).trans (memRead_behindSide _ _ _).sliceSide
    dsimp only
    split
    · split
      · exact (hcount 1).trans (hwrite _)
      · generalize (if (mask == fullMask) = true then (0, 0, d.countSlice (d.sliceOf l) 1 1)
          else (d.countSlice (d.sliceOf l) 1 1).memRead rq l : Line × BitVec 16 × Dev) = x at hread ⊢
        obtain ⟨old, oldP, e⟩ := x
        dsimp only at hread ⊢
        split
        · next halloc =>
          split
          · exact (hread.trans (allocate_sliceSide halloc)).trans (hwrite _)
          · exact hread.trans (allocate_sliceSide halloc)
        · exact hread.trans (hwrite _)
    · exact (hcount 1).trans (hwrite _)

end Sys2Proof.Proofs

/-! ## Answers to a core, faults, the directory and its transactions (04 R152-R164; 05 R192, R198) -/

namespace Sys2Proof.Safety
open Sys2Proof.Machine

/-- Nothing of the cores but core `ci` differs. -/
theorem OneCore.refl (ci : Nat) (d : Dev) : OneCore ci d d := fun _ _ => rfl

theorem OneCore.trans {ci : Nat} {d e g : Dev} (h : OneCore ci d e) (k : OneCore ci e g) : OneCore ci d g :=
  fun j hj => (k j hj).trans (h j hj)

end Sys2Proof.Safety

namespace Sys2Proof.Proofs
open Sys2Proof.Machine Sys2Proof.Safety

/-! ### A core and its strands -/

theorem modCore_coreSide (d : Dev) (ci : Nat) (f : Core → Core) : CoreSide d (d.modCore ci f) := rfl

theorem setCore_coreSide (d : Dev) (ci : Nat) (c : Core) : CoreSide d (d.setCore ci c) := rfl

theorem countCore_coreSide (d : Dev) (i e n : Nat) : CoreSide d (d.countCore i e n) :=
  (countCore_issueOnly d i i e n).coreSide

theorem advance_coreSide (d : Dev) (ci sid : Nat) : CoreSide d (d.advance ci sid) := by
  unfold Dev.advance
  split
  · exact CoreSide.refl d
  · next s hs => exact (goto_spec hs (s.pc + 8)).1.coreSide

theorem split_coreSide (d : Dev) (ci sid : Nat) (keep : Tab Nat) (pc : Nat) (wait : Wait) (rest : List (Tab Nat × Nat × Wait)) :
    CoreSide d (d.split ci sid keep pc wait rest) :=
  CoreSide.trans (e := d.modStrand ci sid (fun s => { s with lanes := keep, pc := pc % 2 ^ 48, wait := wait }))
    (modCore_coreSide _ _ _) (CoreSide.foldl (fun _ _ => CoreSide.trans (setCore_coreSide _ _ _) (modCore_coreSide _ _ _)) _ _)

theorem finishAcquire_coreSide (d : Dev) (ci sid : Nat) (s : Strand) (w : BitVec 64) (done : List (Nat × Nat)) :
    CoreSide d (d.finishAcquire ci sid s w done) := by
  unfold Dev.finishAcquire
  dsimp only
  split
  · exact advance_coreSide _ _ _
  · split
    · exact modCore_coreSide _ _ _
    · exact ((retire_issueOnly _ _ _).coreSide.trans (split_coreSide _ _ _ _ _ _ _)).trans (modCore_coreSide _ _ _)

theorem finishOp_coreSide (d : Dev) (ci sid : Nat) (s : Strand) (w : BitVec 64) (done : List (Nat × Nat)) :
    CoreSide d (d.finishOp ci sid s w done) := by
  have hlanes : ∀ (e : Dev) act c n v, CoreSide e ((e.writeLanes ci act c n v).advance ci sid) := fun e act c n v =>
    (writeLanes_issueOnly e ci act c n v).coreSide.trans (advance_coreSide _ _ _)
  unfold Dev.finishOp
  dsimp only
  split
  · exact finishAcquire_coreSide _ _ _ _ _ _
  · exact hlanes _ _ _ _ _
  · split
    · exact (writeLanes_issueOnly _ _ _ _ _ _).coreSide.trans (hlanes _ _ _ _ _)
    · exact hlanes _ _ _ _ _
  · exact hlanes _ _ _ _ _
  · exact hlanes _ _ _ _ _
  · split
    · exact advance_coreSide _ _ _
    · exact hlanes _ _ _ _ _

theorem answer_coreSide (d : Dev) (ci sid key lane v : Nat) : CoreSide d (d.answer ci sid key lane v) := by
  unfold Dev.answer
  split
  · exact CoreSide.refl d
  · split
    · split
      · exact CoreSide.refl d
      · dsimp only
        split
        · exact finishOp_coreSide _ _ _ _ _ _
        · exact modCore_coreSide _ _ _
    · dsimp only
      split
      · exact advance_coreSide _ _ _
      · exact modCore_coreSide _ _ _
    · exact CoreSide.refl d

theorem opDone_coreSide (d : Dev) (ci id : Nat) (o : MemOp) (v : Nat) : CoreSide d (d.opDone ci id o v) :=
  CoreSide.trans (e := d.dropOp ci id) (modCore_coreSide _ _ _)
    (CoreSide.foldl (f := fun e sid => e.answer ci sid id o.lane v) (fun _ _ => answer_coreSide _ _ _ _ _ _) _ _)

/-! ### Interrupts and failures (05 R192, R198; 10 R369) -/

/-- Function `f` is interrupted: nothing but its vectors, the free values and what is sent differs. -/
def VecSide (f : Nat) (d e : Dev) : Prop :=
  InterruptSide d e ∧ (∀ g, g ≠ f → e.func g = d.func g) ∧ e.func f = { d.func f with vecs := (e.func f).vecs }

theorem VecSide.refl (f : Nat) (d : Dev) : VecSide f d d := ⟨.refl d, fun _ _ => rfl, rfl⟩

theorem VecSide.trans {f : Nat} {d e g : Dev} (h : VecSide f d e) (k : VecSide f e g) : VecSide f d g := by
  obtain ⟨he, heo, hef⟩ := h
  obtain ⟨hg, hgo, hgf⟩ := k
  refine ⟨he.trans hg, fun j hj => (hgo j hj).trans (heo j hj), ?_⟩
  rw [hgf, hef]

theorem VecSide.memorySide {f : Nat} {d e : Dev} (h : VecSide f d e) : MemorySide d e := by
  obtain ⟨⟨he, -⟩, ho, hf⟩ := h
  refine ⟨?_, fun g => ?_, fun p => ?_⟩
  · rw [he]
  · by_cases hg : g = f
    · rw [hg]
      exact hf
    · rw [ho g hg]
  · rw [he]
    rfl

@[simp] theorem func_modFunc_self (d : Dev) (f : Nat) (g : Func → Func) : (d.modFunc f g).func f = g (d.func f) :=
  Tab.get_put_self _ _ _ _

theorem func_modFunc_of_ne (d : Dev) {f k : Nat} (g : Func → Func) (h : k ≠ f) : (d.modFunc f g).func k = d.func k := by
  unfold Dev.func Dev.modFunc Tab.get
  rw [Tab.get?_put_of_ne _ _ h]

theorem modVec_vecSide (d : Dev) (f v : Nat) (g : Vector → Vector) : VecSide f d (d.modVec f v g) := by
  refine ⟨modFunc_interruptSide _ _ _, fun k hk => func_modFunc_of_ne _ _ hk, ?_⟩
  unfold Dev.modVec
  rw [func_modFunc_self]

theorem send_vecSide (d : Dev) (f : Nat) (o : Sent) : VecSide f d (d.send o) := by
  have hfuncs : (d.send o).funcs = d.funcs := by unfold Dev.send; split <;> rfl
  have hfunc : ∀ k, (d.send o).func k = d.func k := fun k => by unfold Dev.func; rw [hfuncs]
  exact ⟨send_interruptSide _ _, fun k _ => hfunc k, by rw [hfunc]⟩

theorem sendMsg_vecSide (d : Dev) (f v : Nat) : VecSide f d (d.sendMsg f v) := by
  unfold Dev.sendMsg
  dsimp only
  split
  · exact (modVec_vecSide _ _ _ _).trans (send_vecSide _ _ _)
  · exact (modVec_vecSide _ _ _ _).trans (modVec_vecSide _ _ _ _)

theorem raiseVec_vecSide (d : Dev) (f v : Nat) : VecSide f d (d.raiseVec f v) := by
  unfold Dev.raiseVec
  dsimp only
  split
  · exact .refl f d
  · split
    · split
      · exact modVec_vecSide _ _ _ _
      · exact sendMsg_vecSide _ _ _
    · split
      · split
        · exact sendMsg_vecSide _ _ _
        · exact modVec_vecSide _ _ _ _
      · exact sendMsg_vecSide _ _ _

theorem violFn_memorySide (d : Dev) (f k : Nat) : MemorySide d (d.violFn f k) := by
  unfold Dev.violFn
  split
  · exact ⟨rfl, fun _ => rfl, fun _ => rfl⟩
  · exact .refl d

theorem recordFail_memorySide (d : Dev) (a : Agent) (k : Acc) (type level entryPa dva : Nat) :
    MemorySide d (d.recordFail a k type level entryPa dva) := by
  have hput : ∀ r : Tab FaultRec, MemorySide d { d with mmu := { d.mmu with recs := r } } :=
    fun _ => ⟨rfl, fun _ => rfl, fun _ => rfl⟩
  unfold Dev.recordFail
  dsimp only
  split
  · exact (hput _).trans (violFn_memorySide _ _ _)
  · split
    · exact (hput _).trans (raiseVec_vecSide _ _ _).memorySide
    · exact hput _

theorem raise_memorySide (d : Dev) (j : JobFault) : MemorySide d (d.raise j) := ⟨rfl, fun _ => rfl, fun _ => rfl⟩

theorem opPoisoned_memorySide (d : Dev) (ci : Nat) (o : MemOp) (k : Nat) : MemorySide d (d.opPoisoned ci o k) :=
  ⟨rfl, fun _ => rfl, fun _ => rfl⟩

theorem opHostError_memorySide (d : Dev) (ci id : Nat) (o : MemOp) : MemorySide d (d.opHostError ci id o) := by
  unfold Dev.opHostError
  dsimp only
  exact (((modCore_coreSide d ci _).memorySide.trans (recordFail_memorySide _ _ _ _ _ _ _)).trans (raise_memorySide _ _)).trans
    (modCore_coreSide _ _ _).memorySide

/-! ### Operations in the purse (04 R143, R165, R177) -/

theorem performL1_memorySide (d : Dev) (ci id : Nat) (o : MemOp) : MemorySide d (d.performL1 ci id o) := by
  unfold Dev.performL1
  split
  · exact .refl d
  · split
    · exact (modCore_coreSide d ci _).memorySide.trans (opPoisoned_memorySide _ _ _ _)
    · dsimp only
      split
      · exact (opDone_coreSide _ _ _ _ _).memorySide
      · exact ((modCore_coreSide d ci _).trans (opDone_coreSide _ _ _ _ _)).memorySide

theorem drain_memorySide (n ci : Nat) (d : Dev) : MemorySide d (d.drain ci n) := by
  induction n generalizing d with
  | zero => exact .refl d
  | succ n ih =>
    unfold Dev.drain
    dsimp only
    split
    · exact .refl d
    · exact (performL1_memorySide _ _ _ _).trans (ih _)

theorem askUpgrades_coreSide (d : Dev) (ci line : Nat) : CoreSide d (d.askUpgrades ci line) := by
  unfold Dev.askUpgrades
  dsimp only
  split
  · split
    · exact setCore_coreSide _ _ _
    · exact CoreSide.refl d
  · exact CoreSide.refl d

theorem deliver_memorySide (d : Dev) (r : Resp) : MemorySide d (d.deliver r) := by
  unfold Dev.deliver
  split
  · split
    · exact (opDone_coreSide _ _ _ _ _).memorySide.trans (drain_memorySide _ _ _)
    · exact .refl d
  · split
    · exact .refl d
    · dsimp only
      exact ((setCore_coreSide _ _ _).memorySide.trans (drain_memorySide _ _ _)).trans (askUpgrades_coreSide _ _ _).memorySide

/-! ### The directory (04 R152, R161-R164) -/

theorem writeBack_sliceSide (d : Dev) (ci line : Nat) (l : L1Line) : SliceSide d (d.writeBack ci line l) := by
  unfold Dev.writeBack
  split
  · exact sliceWrite_sliceSide _ _ _ _ _ _ _
  · exact .refl d

theorem setCore_writeBack_memorySide (d : Dev) (ci line : Nat) (c : Core) (l : L1Line) :
    MemorySide d ((d.setCore ci c).writeBack ci line l) :=
  (setCore_coreSide _ _ _).memorySide.trans (writeBack_sliceSide _ _ _ _).memorySide

theorem dropCopy_memorySide (d : Dev) (line ci : Nat) : MemorySide d (d.dropCopy line ci) := by
  unfold Dev.dropCopy
  dsimp only
  split
  · exact setCore_writeBack_memorySide _ _ _ _ _
  · exact setCore_writeBack_memorySide _ _ _ _ _
  · exact .refl d

theorem delDir_memorySide (d : Dev) (line : Nat) : MemorySide d (d.delDir line) := ⟨rfl, fun _ => rfl, fun _ => rfl⟩

theorem putTxn_memorySide (d : Dev) (line : Nat) (t : Txn) : MemorySide d (d.putTxn line t) := ⟨rfl, fun _ => rfl, fun _ => rfl⟩

theorem respond_memorySide (d : Dev) (r : Resp) : MemorySide d (d.respond r) := ⟨rfl, fun _ => rfl, fun _ => rfl⟩

theorem count_memorySide (d : Dev) (off n : Nat) : MemorySide d (d.count off n) := (count_coreSide d off n).memorySide

theorem setDir_memorySide (d : Dev) (line : Nat) (st : DirState) : MemorySide d (d.setDir line st) := by
  have hdir : ∀ (e : Dev) (t : Tab DirEnt), MemorySide e { e with mem := { e.mem with dir := t } } :=
    fun _ _ => ⟨rfl, fun _ => rfl, fun _ => rfl⟩
  have hrr : ∀ t : Tab Nat, MemorySide d { d with mem := { d.mem with dirRR := t } } :=
    fun _ => ⟨rfl, fun _ => rfl, fun _ => rfl⟩
  unfold Dev.setDir
  split
  · exact hdir _ _
  · dsimp only
    split
    · exact hdir _ _
    · refine ((hrr _).trans (MemorySide.foldl (fun e x => ?_) _ _)).trans (hdir _ _)
      exact ((MemorySide.foldl (f := fun d c => d.dropCopy x.1 c) (fun _ _ => dropCopy_memorySide _ _ _) _ _).trans
        (delDir_memorySide _ _)).trans (count_memorySide _ _ _)

theorem supply_memorySide (d : Dev) (ci line : Nat) (st : L1State) (data : Option (Line × BitVec 16)) (attr : Nat) :
    MemorySide d (d.supply ci line st data attr) := by
  have hmark : MemorySide d (d.markGranted ci line) := (modCore_coreSide _ _ _).memorySide
  have hmiss : ∀ (e : Dev) (t : Tab MissReg), MemorySide e { e with mem := { e.mem with missRegs := t } } :=
    fun _ _ => ⟨rfl, fun _ => rfl, fun _ => rfl⟩
  unfold Dev.supply
  dsimp only
  split
  · exact hmark.trans (respond_memorySide _ _)
  · split
    · exact hmark.trans (respond_memorySide _ _)
    · split
      · exact hmark.trans ((count_memorySide _ _ _).trans (respond_memorySide _ _))
      · exact hmark.trans ((count_memorySide _ _ _).trans (hmiss _ _))

theorem performHome_memorySide (d : Dev) (ci id : Nat) : MemorySide d (d.performHome ci id) := by
  have hpoison : ∀ (e : Dev) (o : MemOp) (k : Nat), MemorySide e ((e.dropOp ci id).opPoisoned ci o k) := fun e _ _ =>
    (modCore_coreSide e ci _).memorySide.trans (opPoisoned_memorySide _ _ _ _)
  have hwrite : ∀ (e : Dev) rq a l m x p r, MemorySide e ((e.sliceWrite rq a l m x p).respond r) := fun _ _ _ _ _ _ _ _ =>
    (sliceWrite_sliceSide _ _ _ _ _ _ _).memorySide.trans (respond_memorySide _ _)
  unfold Dev.performHome
  split
  · exact .refl d
  · next o ho =>
    dsimp only
    split
    · split
      · exact opHostError_memorySide _ _ _ _
      · simp only [if_true]
        split
        · exact hpoison _ _ _
        · split
          · exact respond_memorySide _ _
          · exact hwrite _ _ _ _ _ _ _ _
    · split
      · exact opHostError_memorySide _ _ _ _
      · have hread := (sliceRead_sliceSide d (d.rqPart o.part) o.attr o.line).memorySide
        simp only [Bool.false_eq_true, if_false]
        split
        · exact hread.trans (hpoison _ _ _)
        · split
          · exact hread.trans (respond_memorySide _ _)
          · exact hread.trans (hwrite _ _ _ _ _ _ _ _)

theorem serve_memorySide (d : Dev) (line : Nat) (req : DirReq) (data : Option (Line × BitVec 16)) :
    MemorySide d (d.serve line req data) := by
  have hgrant : ∀ ci st g attr, MemorySide d ((d.setDir line st).supply ci line g data attr) := fun _ _ _ _ =>
    (setDir_memorySide _ _ _).trans (supply_memorySide _ _ _ _ _ _)
  unfold Dev.serve
  split
  · split
    · exact .refl d
    · split
      · split
        · exact hgrant _ _ _ _
        · exact hgrant _ _ _ _
      · exact hgrant _ _ _ _
  · split
    · exact .refl d
    · exact hgrant _ _ _ _
  · exact (delDir_memorySide _ _).trans (performHome_memorySide _ _ _)

theorem dirRequest_memorySide (d : Dev) (line : Nat) (req : DirReq) : MemorySide d (d.dirRequest line req) := by
  unfold Dev.dirRequest
  split
  · exact putTxn_memorySide _ _ _
  · dsimp only
    split
    · split
      · split
        · exact serve_memorySide _ _ _ _
        · exact putTxn_memorySide _ _ _
      · exact serve_memorySide _ _ _ _
    · split
      · exact serve_memorySide _ _ _ _
      · exact putTxn_memorySide _ _ _
    · split
      · exact serve_memorySide _ _ _ _
      · exact putTxn_memorySide _ _ _

theorem dirNext_memorySide (line : Nat) (q : List DirReq) (d : Dev) : MemorySide d (d.dirNext line q) := by
  induction q generalizing d with
  | nil => exact .refl d
  | cons r rest ih =>
    unfold Dev.dirNext
    dsimp only
    split
    · exact (dirRequest_memorySide _ _ _).trans (putTxn_memorySide _ _ _)
    · exact (dirRequest_memorySide _ _ _).trans (ih _)

theorem dirAck_memorySide (d : Dev) (line : Nat) : MemorySide d (d.dirAck line) := by
  have hdel : ∀ t : Tab Txn, MemorySide d { d with mem := { d.mem with txns := t } } :=
    fun _ => ⟨rfl, fun _ => rfl, fun _ => rfl⟩
  unfold Dev.dirAck
  split
  · exact .refl d
  · split
    · exact (hdel _).trans ((serve_memorySide _ _ _ _).trans (dirNext_memorySide _ _ _))
    · exact .refl d

theorem invalidateAt_memorySide (d : Dev) (ci line : Nat) : MemorySide d (d.invalidateAt ci line) := by
  unfold Dev.invalidateAt
  split
  · exact .refl d
  · split
    · exact .refl d
    · dsimp only
      split
      · split
        · split
          · exact (setCore_coreSide _ _ _).memorySide.trans (putTxn_memorySide _ _ _)
          · exact (setCore_coreSide _ _ _).memorySide.trans (putTxn_memorySide _ _ _)
        · exact ((setCore_coreSide _ _ _).memorySide.trans (putTxn_memorySide _ _ _)).trans
            (writeBack_sliceSide _ _ _ _).memorySide
      · split
        · exact putTxn_memorySide _ _ _
        · exact putTxn_memorySide _ _ _

theorem forwardAt_memorySide (d : Dev) (ci line : Nat) : MemorySide d (d.forwardAt ci line) := by
  unfold Dev.forwardAt
  split
  · exact .refl d
  · split
    · exact .refl d
    · dsimp only
      split
      · exact (((setCore_coreSide _ _ _).memorySide.trans (putTxn_memorySide _ _ _)).trans
          (writeBack_sliceSide _ _ _ _).memorySide).trans (setDir_memorySide _ _ _)
      · split
        · exact putTxn_memorySide _ _ _
        · exact (putTxn_memorySide _ _ _).trans (delDir_memorySide _ _)

theorem evictArrives_memorySide (d : Dev) (ci line : Nat) : MemorySide d (d.evictArrives ci line) := by
  unfold Dev.evictArrives
  dsimp only
  split
  · exact .refl d
  · next l hl =>
    have hdir : ∀ e : Dev, MemorySide e (if (e.dirOf line == some (.x ci)) = true then e.delDir line else e) := by
      intro e
      split
      · exact delDir_memorySide _ _
      · exact .refl e
    have hback := (setCore_writeBack_memorySide d ci line { d.core ci with leaving := Tab.del (d.core ci).leaving line } l).trans
      (hdir _)
    split
    · split
      · exact hback.trans (putTxn_memorySide _ _ _)
      · exact hback
    · exact hback

end Sys2Proof.Proofs

/-! ## Accesses of units that are no cores, translation and maintenance (04 R163, R172; 05 R184-R194) -/

namespace Sys2Proof.Proofs
open Sys2Proof.Machine Sys2Proof.Safety

/-! ### A line's transactions come to their end -/

theorem delMissReg_memorySide (d : Dev) (line : Nat) :
    MemorySide d { d with mem := { d.mem with missRegs := Tab.del d.mem.missRegs line } } := ⟨rfl, fun _ => rfl, fun _ => rfl⟩

theorem opHostErrors_memorySide (ci : Nat) (l : List (Nat × MemOp)) (d : Dev) :
    MemorySide d (l.foldl (fun d e => d.opHostError ci e.1 e.2) d) :=
  MemorySide.foldl (fun _ _ => opHostError_memorySide _ _ _ _) l d

theorem fillFails_memorySide (d : Dev) (line : Nat) (m : MissReg) : MemorySide d (d.fillFails line m) := by
  have hdel := delMissReg_memorySide d line
  unfold Dev.fillFails
  generalize ({ d with mem := { d.mem with missRegs := Tab.del d.mem.missRegs line } } : Dev) = e at hdel ⊢
  refine hdel.trans ?_
  refine MemorySide.foldl (fun a w => ?_) m.waiters e
  cases w with
  | op ci id =>
    dsimp only
    split
    · exact opHostError_memorySide _ _ _ _
    · exact .refl a
  | grant ci st =>
    have hdrop := (delDir_memorySide a line).trans (modCore_coreSide (a.delDir line) ci
      (fun c => { c with misses := Tab.del c.misses line })).memorySide
    exact hdrop.trans (opHostErrors_memorySide _ _ _)

theorem fill_memorySide (d : Dev) (line : Nat) (poison : BitVec 16) : MemorySide d (d.fill line poison) := by
  have hdel := delMissReg_memorySide d line
  unfold Dev.fill
  split
  · exact .refl d
  · next m hm =>
    dsimp only
    generalize (if m.req < 16 then d.rqPart m.req else if m.req < 32 then d.rqLedger (m.req - 16) else rqUnit m.req 0 : Rq) = rq
    split
    · exact fillFails_memorySide _ _ _
    · generalize ({ d with mem := { d.mem with missRegs := Tab.del d.mem.missRegs line } } : Dev) = e at hdel ⊢
      refine hdel.trans ?_
      have hread := (memRead_behindSide e rq line).sliceSide.memorySide
      generalize e.memRead rq line = x at hread ⊢
      obtain ⟨data, p, g⟩ := x
      refine hread.trans ?_
      dsimp only
      refine MemorySide.trans (e := ite _ _ _) ?_ (MemorySide.foldl (fun a w => ?_) m.waiters _)
      · split
        · split
          · next halloc => exact ((allocate_sliceSide halloc).trans (issueNlp_sliceSide _ _ _ _)).memorySide
          · exact .refl g
        · exact .refl g
      · cases w with
        | op ci id => exact performHome_memorySide _ _ _
        | grant ci st => exact respond_memorySide _ _

theorem deliverLine_memorySide (d : Dev) (line : Nat) : MemorySide d (d.deliverLine line) := by
  have hresps : MemorySide d { d with mem := { d.mem with resps := d.mem.resps.filter (fun r => r.line != line) } } :=
    ⟨rfl, fun _ => rfl, fun _ => rfl⟩
  exact hresps.trans (MemorySide.foldl (fun _ _ => deliver_memorySide _ _) _ _)

theorem settle_memorySide (line n : Nat) (d : Dev) : MemorySide d (d.settle line n) := by
  induction n generalizing d with
  | zero => exact .refl d
  | succ n ih =>
    have hbegin := (fill_memorySide d line 0).trans (deliverLine_memorySide _ line)
    unfold Dev.settle
    dsimp only
    split
    · exact hbegin
    · next t ht =>
      have hinv := hbegin.trans (MemorySide.foldl (f := fun d c => d.invalidateAt c line)
        (fun _ _ => invalidateAt_memorySide _ _ _) t.inv _)
      have hback : ∀ e : Dev, MemorySide e (match Tab.get? e.mem.txns line with
          | some t => (match t.wb with | some c => e.evictArrives c line | none => e)
          | none => e) := by
        intro e
        split
        · split
          · exact evictArrives_memorySide _ _ _
          · exact .refl e
        · exact .refl e
      have hend : ∀ e : Dev, MemorySide e ((e.dirAck line).settle line n) := fun e => (dirAck_memorySide _ _).trans (ih _)
      cases t.fwd with
      | none => exact hinv.trans ((hback _).trans (hend _))
      | some c => exact hinv.trans ((forwardAt_memorySide _ _ _).trans ((hback _).trans (hend _)))

theorem ownerShares_memorySide (d : Dev) (line : Nat) : MemorySide d (d.ownerShares line) := by
  have hsettle := settle_memorySide line (d.settleFuel line) d
  unfold Dev.ownerShares
  dsimp only
  split
  · split
    · exact hsettle.trans ((setCore_writeBack_memorySide _ _ _ _ _).trans (setDir_memorySide _ _ _))
    · exact hsettle.trans ((dropCopy_memorySide _ _ _).trans (delDir_memorySide _ _))
  · exact hsettle

theorem ncRead_memorySide (d : Dev) (rq : Rq) (attr line : Nat) : MemorySide d (d.ncRead rq attr line).2.2 :=
  (ownerShares_memorySide _ _).trans (sliceRead_sliceSide _ _ _ _).memorySide

theorem ncWrite_memorySide (d : Dev) (rq : Rq) (attr line : Nat) (mask : LineMask) (data : Line) (poison : BitVec 16) :
    MemorySide d (d.ncWrite rq attr line mask data poison) := by
  unfold Dev.ncWrite
  dsimp only
  exact ((settle_memorySide _ _ _).trans ((MemorySide.foldl (f := fun d c => d.dropCopy line c)
    (fun _ _ => dropCopy_memorySide _ _ _) _ _).trans (delDir_memorySide _ _))).trans (sliceWrite_sliceSide _ _ _ _ _ _ _).memorySide

/-! ### Maintenance of one line (04 R172) -/

theorem flushLine_memorySide (d : Dev) (rq : Rq) (line : Nat) : MemorySide d (d.flushLine rq line) := by
  have howner := ownerShares_memorySide d line
  unfold Dev.flushLine
  dsimp only
  split
  · split
    · exact howner.trans ((memWrite_behindSide _ _ _ _ _ _).sliceSide.trans (putVault_sliceSide _ _ _)).memorySide
    · exact howner
  · exact howner

/-- A flushed line is clean at its slice. -/
theorem flushLine_clean {d : Dev} {rq : Rq} {line : Nat} {v : VLine}
    (h : Tab.get? (d.flushLine rq line).mem.vault line = some v) : v.dirty = false := by
  unfold Dev.flushLine at h
  dsimp only at h
  split at h
  · next w hw =>
    split at h
    · obtain rfl := Option.some.inj ((Tab.get?_put_self _ _ _).symm.trans h)
      rfl
    · next hclean =>
      obtain rfl := Option.some.inj (hw.symm.trans h)
      exact Bool.eq_false_iff.mpr hclean
  · next hnone => exact absurd (hnone.symm.trans h) (by simp)

theorem discardCopies_memorySide (d : Dev) (line : Nat) : MemorySide d (d.discardCopies line) := by
  unfold Dev.discardCopies
  exact (settle_memorySide _ _ _).trans ((MemorySide.foldl (f := fun d ci => d.modCore ci (fun c =>
    { c with l1 := Tab.del c.l1 line, leaving := Tab.del c.leaving line }))
    (fun _ _ => (modCore_coreSide _ _ _).memorySide) _ _).trans (delDir_memorySide _ _))

theorem invalidateLine_memorySide (d : Dev) (line : Nat) : MemorySide d (d.invalidateLine line) :=
  (discardCopies_memorySide _ _).trans (delVault_sliceSide _ _).memorySide

theorem invalidateLine_uncached (d : Dev) (line : Nat) : Tab.get? (d.invalidateLine line).mem.vault line = none :=
  Tab.get?_del_self _ _

/-! ### Translation (05 R184-R198) -/

theorem tlbPut_memorySide (d : Dev) (c level dva e : Nat) : MemorySide d (d.tlbPut c level dva e) :=
  ⟨rfl, fun _ => rfl, fun _ => rfl⟩

theorem read64_memorySide (d : Dev) (ea : Nat) : MemorySide d (d.read64 ea).2.2 :=
  (count_memorySide d (0x6A000 + 8 * 15) 1).trans (ncRead_memorySide _ _ _ _)

theorem walk_memorySide (c part dva n : Nat) (d : Dev) (table : Nat) : MemorySide d (d.walk c part dva table n).2 := by
  induction n generalizing d table with
  | zero => exact .refl d
  | succ n ih =>
    unfold Dev.walk
    dsimp only
    split
    · exact ih _ _
    · split
      · exact .refl d
      · have hread := read64_memorySide d (table + 8 * fld dva (20 + 9 * n) (12 + 9 * n))
        split
        · exact hread
        · split
          · exact hread
          · split
            · exact hread
            · split
              · exact hread
              · exact hread.trans ((tlbPut_memorySide _ _ _ _ _).trans (ih _ _))

theorem translate_memorySide (d : Dev) (c dva : Nat) (k : Acc) : MemorySide d (d.translate c dva k).2 := by
  unfold Dev.translate
  dsimp only
  split
  · exact .refl d
  · split
    · exact .refl d
    · split
      · exact .refl d
      · have hwalk := (count_memorySide d (0x6A000 + 8 * 14) 1).trans
          (walk_memorySide c (d.ctx c).part dva 4 (d.countGlobal 14 1) ((d.ctx c).root * 4096))
        split
        · next hw =>
          rw [hw] at hwalk
          exact hwalk
        · next hw =>
          rw [hw] at hwalk
          split
          · exact hwalk
          · exact hwalk.trans (tlbPut_memorySide _ _ _ _ _)

theorem xlate_memorySide (d : Dev) (a : Agent) (dva : Nat) (k : Acc) : MemorySide d (d.xlate a dva k).2 := by
  have h := translate_memorySide d a.ctx dva k
  unfold Dev.xlate
  split
  · next ht =>
    rw [ht] at h
    exact h
  · next ht =>
    rw [ht] at h
    exact h.trans (recordFail_memorySide _ _ _ _ _ _ _)
  · next ht =>
    rw [ht] at h
    exact h

end Sys2Proof.Proofs

/-! ## Range maintenance (04 R175, R176) -/

namespace Sys2Proof.Proofs
open Sys2Proof.Machine Sys2Proof.Safety

/-! ### VLT_MAINT_CTRL -/

/-- The operation that a write of VLT_MAINT_CTRL with GO begins (04 Table 4-15). -/
def maintAsked (d : Dev) (v : Nat) : MaintOp :=
  { who := .regs, op := v % 8, ctx := d.mem.maintAddr / 2 ^ 48 % 256, dva := d.mem.maintAddr % 2 ^ 48 / 128 * 128
    left := d.mem.maintLen, req := v / 256 % 64, done := 0, conflicts := 0 }

theorem maintGo_eq {v op : Nat} (hgo : v.testBit 31 = true) (hop : v % 8 = op) (d : Dev) : d.maintGo 0 v op = d.maintCtrl v := by
  have hfld : fld v 2 0 = op := by rw [fld_eq]; simpa using hop
  unfold Dev.maintGo
  rw [hfld, if_pos]
  simp [bitOf, hgo]

theorem maintCtrl_of_busy {d : Dev} {v : Nat} (hgo : v.testBit 31 = true) (hbusy : d.mem.maintBusy = true) :
    d.maintCtrl v = d.denied 0 := by
  unfold Dev.maintCtrl
  dsimp only
  rw [if_pos]
  simp [bitOf, hgo, hbusy]

/-- A legal write with GO while nothing runs: the operation begins, or is done at once where its range has no lines. -/
theorem maintCtrl_of_idle {d : Dev} {v : Nat} (hgo : v.testBit 31 = true) (hlow : 1 ≤ v % 8) (hhigh : v % 8 ≤ 4)
    (hreq : v / 256 % 64 ≤ 36) (hidle : d.mem.maintBusy = false) :
    d.maintCtrl v =
      if d.mem.maintLen = 0 then { d with mem := { d.mem with
        maintOp := v % 8, maintReq := v / 256 % 64, maintXlat := false, maintAborted := false, maintDone := 0
        maintConflicts := 0 } }
      else { d with mem := { d.mem with
        maintOp := v % 8, maintReq := v / 256 % 64, maintBusy := true, maintXlat := false, maintAborted := false, maintDone := 0
        maintConflicts := 0, maints := d.mem.maints ++ [maintAsked d v] } } := by
  have hop : fld v 2 0 = v % 8 := by rw [fld_eq]; simp
  have hrq : fld v 13 8 = v / 256 % 64 := fld_eq _ _ _
  have hctx : fld d.mem.maintAddr 55 48 = d.mem.maintAddr / 2 ^ 48 % 256 := fld_eq _ _ _
  have hdva : fld d.mem.maintAddr 47 7 = d.mem.maintAddr % 2 ^ 48 / 128 := by rw [fld_eq]; omega
  have hopOk : (1 ≤ v % 8 && v % 8 ≤ 4 : Bool) = true := by simp [hlow, hhigh]
  unfold Dev.maintCtrl
  simp only [bitOf, hgo, hidle, hop, hrq, hctx, hdva, hopOk, hreq, if_true, Bool.and_false, Bool.not_true, Bool.false_eq_true,
    if_false]
  split
  · rfl
  · rfl

/-- What the first clause says of a command that writes VLT_MAINT_CTRL with GO. -/
def BeginsMaintenance (c : Nat → Nat → Instr) (op : Nat) : Prop :=
  ∀ (s : State) (v : Nat), v.testBit 31 = true → v % 8 = op → v / 256 % 64 ≤ 36 →
    let m := s.dev.mem
    let o : MaintOp := { who := .regs, op := op, ctx := m.maintAddr / 2 ^ 48 % 256, dva := m.maintAddr % 2 ^ 48 / 128 * 128,
                         left := m.maintLen, req := v / 256 % 64, done := 0, conflicts := 0 }
    (m.maintBusy = true → exec (c 0 v) s = .next (withDev s (s.dev.denied 0))) ∧
    (m.maintBusy = false → m.maintLen ≠ 0 → exec (c 0 v) s = .next (withDev s { s.dev with mem := { m with
      maintOp := op, maintReq := v / 256 % 64, maintBusy := true, maintXlat := false, maintAborted := false, maintDone := 0,
      maintConflicts := 0, maints := m.maints ++ [o] } })) ∧
    (m.maintBusy = false → m.maintLen = 0 → exec (c 0 v) s = .next (withDev s { s.dev with mem := { m with
      maintOp := op, maintReq := v / 256 % 64, maintXlat := false, maintAborted := false, maintDone := 0,
      maintConflicts := 0 } }))

theorem beginsMaintenance {c : Nat → Nat → Instr} {op : Nat} (hexec : ∀ v s, exec (c 0 v) s = s.on fun d => d.maintGo 0 v op)
    (hlow : 1 ≤ op) (hhigh : op ≤ 4) : BeginsMaintenance c op := by
  rintro s v hgo rfl hreq
  dsimp only
  simp only [hexec, maintGo_eq hgo rfl]
  refine ⟨fun hbusy => ?_, fun hidle hlen => ?_, fun hidle hlen => ?_⟩
  · exact on_eq_withDev (maintCtrl_of_busy hgo hbusy) (denied_audSide (by decide)).tlbSide.time
      (denied_audSide (by decide)).tlbSide.fuses
  · exact on_eq_withDev ((maintCtrl_of_idle hgo hlow hhigh hreq hidle).trans (if_neg hlen)) rfl rfl
  · exact on_eq_withDev ((maintCtrl_of_idle hgo hlow hhigh hreq hidle).trans (if_pos hlen)) rfl rfl

/-! ### MAINT_LINE -/

/-- One line of a flush, an invalidation or both evicts nothing of its own (04 R176). -/
theorem maintLineDo_memorySide {m : MaintOp} (hlow : 1 ≤ m.op) (hhigh : m.op < 4) (d : Dev) (attr line : Nat) :
    (d.maintLineDo m attr line).1 = 0 ∧ MemorySide d (d.maintLineDo m attr line).2 := by
  have hop : m.op = 1 ∨ m.op = 2 ∨ m.op = 3 := by omega
  unfold Dev.maintLineDo
  obtain hop | hop | hop := hop
  · rw [hop]
    exact ⟨rfl, flushLine_memorySide _ _ _⟩
  · rw [hop]
    exact ⟨rfl, invalidateLine_memorySide _ _⟩
  · rw [hop]
    exact ⟨rfl, (flushLine_memorySide _ _ _).trans (invalidateLine_memorySide _ _)⟩

theorem maintLineDo_clean {m : MaintOp} (hop : m.op = 1) {d : Dev} {attr line : Nat} {v : VLine}
    (h : Tab.get? (d.maintLineDo m attr line).2.mem.vault line = some v) : v.dirty = false := by
  unfold Dev.maintLineDo at h
  rw [hop] at h
  exact flushLine_clean h

theorem maintLineDo_uncached {m : MaintOp} (hop : m.op = 2 ∨ m.op = 3) (d : Dev) (attr line : Nat) :
    Tab.get? (d.maintLineDo m attr line).2.mem.vault line = none := by
  unfold Dev.maintLineDo
  obtain hop | hop := hop
  · rw [hop]
    exact invalidateLine_uncached _ _
  · rw [hop]
    exact invalidateLine_uncached _ _

/-- The device when maintenance operation `k` of the registers has ended. -/
def maintEnded (d : Dev) (k : Nat) (fault : Bool) (done conflicts : Nat) : Dev :=
  { d with mem := { d.mem with
    maints := d.mem.maints.eraseIdx k, maintBusy := false, maintXlat := fault, maintDone := done, maintConflicts := conflicts } }

/-- The device when maintenance operation `k` of the registers goes on as `m`. -/
def maintGoesOn (d : Dev) (k : Nat) (m : MaintOp) : Dev :=
  { d with mem := { d.mem with maints := d.mem.maints.set k m, maintDone := m.done, maintConflicts := m.conflicts } }

/-- Operation `m` after a line that evicted nothing. -/
def maintNext (m : MaintOp) : MaintOp := { m with dva := (m.dva + 128) % 2 ^ 48, left := m.left - 1, done := m.done + 1 }

/-- What an access touches stands beside the end of a maintenance operation. -/
theorem maintEnded_memorySide {d e : Dev} (h : MemorySide d e) (k : Nat) (fault : Bool) (done conflicts : Nat) :
    MemorySide (maintEnded d k fault done conflicts) (maintEnded e k fault done conflicts) := by
  obtain ⟨he, hf, hp⟩ := h
  refine ⟨?_, hf, hp⟩
  unfold maintEnded
  rw [he]

theorem maintGoesOn_memorySide {d e : Dev} (h : MemorySide d e) (k : Nat) (m : MaintOp) :
    MemorySide (maintGoesOn d k m) (maintGoesOn e k m) := by
  obtain ⟨he, hf, hp⟩ := h
  refine ⟨?_, hf, hp⟩
  unfold maintGoesOn
  rw [he]

/-- The agent of a maintenance operation (04 R176). -/
def maintAgent (d : Dev) (m : MaintOp) : Agent := { rq := d.maintRq m, unit := 9, index := 0, ctx := m.ctx }

/-- What MAINT_LINE makes of operation `k` of the registers, a FILL left out (04 R176). -/
def maintStep (d : Dev) (k : Nat) (m : MaintOp) : Dev :=
  match d.xlate (maintAgent d m) m.dva .maint with
  | (.error _, e) => maintEnded e k true m.done m.conflicts
  | (.ok (pa, attr), e) =>
    if m.left ≤ 1 then maintEnded (e.maintLineDo m attr (pa / 128)).2 k false (m.done + 1) m.conflicts
    else maintGoesOn (e.maintLineDo m attr (pa / 128)).2 k (maintNext m)

theorem maintStep_of_error {d : Dev} {m : MaintOp} {x : AccFail} (hx : (d.xlate (maintAgent d m) m.dva .maint).1 = .error x)
    (k : Nat) : MemorySide (maintEnded d k true m.done m.conflicts) (maintStep d k m) := by
  have hside := xlate_memorySide d (maintAgent d m) m.dva .maint
  unfold maintStep
  generalize d.xlate (maintAgent d m) m.dva .maint = y at hx hside ⊢
  obtain ⟨r, e⟩ := y
  obtain rfl : r = .error x := hx
  exact maintEnded_memorySide hside _ _ _ _

/-- A line that translates is processed, and the operation ends with its last line. -/
theorem maintStep_of_ok {d : Dev} {m : MaintOp} {pa attr : Nat}
    (hx : (d.xlate (maintAgent d m) m.dva .maint).1 = .ok (pa, attr)) (hlow : 1 ≤ m.op) (hhigh : m.op < 4) (k : Nat) :
    (m.left = 1 → MemorySide (maintEnded d k false (m.done + 1) m.conflicts) (maintStep d k m)) ∧
    (2 ≤ m.left → MemorySide (maintGoesOn d k (maintNext m)) (maintStep d k m)) ∧
    (m.op = 1 → ∀ v, Tab.get? (maintStep d k m).mem.vault (pa / 128) = some v → v.dirty = false) ∧
    (m.op = 2 ∨ m.op = 3 → Tab.get? (maintStep d k m).mem.vault (pa / 128) = none) := by
  have hside := xlate_memorySide d (maintAgent d m) m.dva .maint
  unfold maintStep
  generalize d.xlate (maintAgent d m) m.dva .maint = y at hx hside ⊢
  obtain ⟨r, e⟩ := y
  obtain rfl : r = .ok (pa, attr) := hx
  dsimp only at hside ⊢
  obtain ⟨-, hline⟩ := maintLineDo_memorySide hlow hhigh e attr (pa / 128)
  refine ⟨fun hlast => ?_, fun hmore => ?_, fun hop v hv => ?_, fun hop => ?_⟩
  · rw [if_pos (by omega)]
    exact maintEnded_memorySide (hside.trans hline) _ _ _ _
  · rw [if_neg (by omega)]
    exact maintGoesOn_memorySide (hside.trans hline) _ _
  · refine maintLineDo_clean hop (d := e) (attr := attr) (line := pa / 128) ?_
    split at hv
    · exact hv
    · exact hv
  · split
    · exact maintLineDo_uncached hop _ _ _
    · exact maintLineDo_uncached hop _ _ _

theorem maintStep_time_fuses {d : Dev} {m : MaintOp} (hlow : 1 ≤ m.op) (hhigh : m.op < 4) (k : Nat) :
    (maintStep d k m).time = d.time ∧ (maintStep d k m).fuses = d.fuses := by
  have hside := xlate_memorySide d (maintAgent d m) m.dva .maint
  unfold maintStep
  generalize d.xlate (maintAgent d m) m.dva .maint = y at hside ⊢
  obtain ⟨r, e⟩ := y
  cases r with
  | error x => exact ⟨hside.time, hside.fuses⟩
  | ok r =>
    obtain ⟨-, hline⟩ := maintLineDo_memorySide hlow hhigh e r.2 (r.1 / 128)
    have h := hside.trans hline
    dsimp only
    split
    · exact ⟨h.time, h.fuses⟩
    · exact ⟨h.time, h.fuses⟩

theorem exec_maintLine {s : State} {k : Nat} {m : MaintOp} (hm : s.dev.mem.maints[k]? = some m) (hrun : s.dev.running = true)
    (hlow : 1 ≤ m.op) (hhigh : m.op < 4) (hwho : m.who = .regs) :
    exec (.maintLine k) s = .next (withDev s (maintStep s.dev k m)) := by
  obtain ⟨htime, hfuses⟩ := maintStep_time_fuses (d := s.dev) hlow hhigh k
  have hfill : (m.op = 4) = False := eq_false (by omega)
  show execMaintLine k s = _
  unfold execMaintLine
  refine on_eq_withDev ?_ htime hfuses
  unfold maintStep maintAgent
  simp only [hm, hrun, Bool.not_true, Bool.false_eq_true, if_false, hfill, decide_false, Bool.false_and]
  obtain ⟨r, e⟩ := s.dev.xlate { rq := s.dev.maintRq m, unit := 9, index := 0, ctx := m.ctx } m.dva .maint
  cases r with
  | error x =>
    simp only [Dev.maintEnd, hwho]
    rfl
  | ok r =>
    obtain ⟨hev, -⟩ := maintLineDo_memorySide hlow hhigh e r.2 (r.1 / 128)
    simp only [hev, Nat.add_zero, Dev.maintEnd, hwho]
    split
    · rw [if_pos (by omega)]
      rfl
    · rw [if_neg (by omega)]
      unfold maintNext
      rw [hwho]
      rfl

/-- Settles O23: a write of VLT_MAINT_CTRL is one function of the operation it names, and MAINT_LINE is one translation and one
line's maintenance, each of which touches nothing but what an access to memory can. -/
theorem rangeMaintenance : Obligations.RangeMaintenance := by
  refine ⟨fun row hrow => ?_, ?_⟩
  · have hbegins : BeginsMaintenance row.1 row.2 := by
      simp only [List.mem_cons, List.not_mem_nil, or_false] at hrow
      obtain rfl | rfl | rfl | rfl := hrow
      · exact beginsMaintenance (fun _ _ => rfl) (by decide) (by decide)
      · exact beginsMaintenance (fun _ _ => rfl) (by decide) (by decide)
      · exact beginsMaintenance (fun _ _ => rfl) (by decide) (by decide)
      · exact beginsMaintenance (fun _ _ => rfl) (by decide) (by decide)
    exact hbegins
  · rintro s k m a hm hrun hlow hhigh hwho rfl
    exact ⟨_, exec_maintLine hm hrun hlow hhigh hwho, rfl, fun x hx => maintStep_of_error hx k,
      fun pa attr hx => maintStep_of_ok hx hlow hhigh k⟩

end Sys2Proof.Proofs

/-! ## Fences and the purse's own cache operations (04 R170, R172) -/

namespace Sys2Proof.Proofs
open Sys2Proof.Machine Sys2Proof.Safety

/-! ### What an arrival and an advance leave alone -/

theorem issueOnly_ops {ci : Nat} {d e : Dev} (h : IssueOnly ci d e) : (e.core ci).ops = (d.core ci).ops := by
  obtain ⟨-, -, hcore, -⟩ := h
  rw [hcore]

theorem issueOnly_l1 {ci : Nat} {d e : Dev} (h : IssueOnly ci d e) : (e.core ci).l1 = (d.core ci).l1 := by
  obtain ⟨-, -, hcore, -⟩ := h
  rw [hcore]

theorem registerFrame_of_issueOnly {ci : Nat} {d e : Dev} (h : IssueOnly ci d e) : RegisterFrame d e ci := by
  obtain ⟨hside, hone, hcore, hgroup, -⟩ := h
  exact ⟨hside, hone, hcore, hgroup⟩

theorem arrive_launch (d : Dev) (ci sid : Nat) (w : BitVec 64) (l : Nat) : (d.arrive ci sid w).launch l = d.launch l := by
  unfold Dev.launch
  rw [(arrive_issueOnly d ci sid w).coreSide]

theorem arrive_laneAddr (d : Dev) (ci sid : Nat) (w : BitVec 64) (slot lane : Nat) (x : BitVec 64) (off : Int) :
    (d.arrive ci sid w).laneAddr ci slot lane x off = d.laneAddr ci slot lane x off := by
  simp only [Dev.laneAddr, Dev.readP, arrive_readW]

theorem arrive_strandCtx (d : Dev) (ci sid : Nat) (w : BitVec 64) (s : Strand) :
    (d.arrive ci sid w).strandCtx ci s = d.strandCtx ci s := by
  simp only [Dev.strandCtx, Dev.strandLaunch, arrive_launch, arrive_group]

theorem arrive_onchipPlace (d : Dev) (ci sid : Nat) (w : BitVec 64) (slot dva size : Nat) (write : Bool) :
    (d.arrive ci sid w).onchipPlace ci slot dva size write = d.onchipPlace ci slot dva size write := by
  have hside := (arrive_issueOnly d ci sid w).coreSide
  have hplan : (d.arrive ci sid w).plan = d.plan := by rw [hside]
  have hpart : ∀ p, (d.arrive ci sid w).part p = d.part p := fun p => by unfold Dev.part; rw [hside]
  have hhot : ∀ c o, (d.arrive ci sid w).inHot c o = d.inHot c o := fun c o => by unfold Dev.inHot; rw [hside]
  obtain ⟨-, hgroups⟩ := arrive_sameLanes d ci sid w
  have hres : ∀ l, (d.arrive ci sid w).resident ci l = d.resident ci l := fun l => by unfold Dev.resident; rw [hgroups]
  simp only [Dev.onchipPlace, arrive_group, arrive_launch, hplan, hpart, hhot, hres]

/-- A strand that goes on from a device with the strands of the arrival. -/
theorem wentOn_advance {d e : Dev} {i : Issue} {st : Strand} (ha : Arrives d i st)
    (hs : ∀ k, e.strand? i.core k = (d.arrive i.core i.strand i.word).strand? i.core k) :
    WentOn d (e.advance i.core i.strand) i st (st.pc + 8) ∧ IssueOnly i.core e (e.advance i.core i.strand) ∧
      SameRegisters e (e.advance i.core i.strand) i.core := by
  have hst : e.strand? i.core i.strand = some st := (hs i.strand).trans ha
  have heq : e.advance i.core i.strand = e.goto i.core i.strand (st.pc + 8) := by unfold Dev.advance; rw [hst]
  obtain ⟨hside, hself, hothers, hreads⟩ := goto_spec hst (st.pc + 8)
  rw [heq]
  exact ⟨⟨hself, fun k hk => (hothers k hk).trans (hs k)⟩, hside, hreads⟩

/-- A strand that goes on as soon as its instruction has arrived. -/
theorem arrive_advance {d : Dev} {i : Issue} {st : Strand} (ha : Arrives d i st) :
    WentOn d ((d.arrive i.core i.strand i.word).advance i.core i.strand) i st (st.pc + 8) ∧
      IssueOnly i.core d ((d.arrive i.core i.strand i.word).advance i.core i.strand) ∧
      SameRegisters d ((d.arrive i.core i.strand i.word).advance i.core i.strand) i.core := by
  obtain ⟨hwent, hside, hreads⟩ := wentOn_advance ha (fun _ => rfl)
  exact ⟨hwent, (arrive_issueOnly _ _ _ _).trans hside, fun slot lane code =>
    (hreads slot lane code).trans (arrive_readW _ _ _ _ _ _ _)⟩

theorem on_eq_of_issueOnly {f : Dev → Dev} {s : State} {ci : Nat} {e : Dev} (h : f s.dev = e) (hside : IssueOnly ci s.dev e) :
    s.on f = .next (withDev s e) :=
  on_eq_withDev h hside.coreSide.memorySide.time hside.coreSide.memorySide.fuses

/-! ### FENCE (04 R170) -/

/-- The operations of a core that belong to the groups of some lanes. -/
def opsOfGroups (d : Dev) (ci : Nat) (act : List (Nat × Nat)) : List Nat :=
  ((d.core ci).ops.filter (fun e => act.any (fun a => a.2 == e.2.group))).map (·.1)

theorem mem_opsOfGroups (d : Dev) (ci : Nat) (act : List (Nat × Nat)) (id : Nat) :
    id ∈ opsOfGroups d ci act ↔ ∃ o, (id, o) ∈ (d.core ci).ops ∧ ∃ e ∈ act, e.2 = o.group := by
  simp [opsOfGroups]

theorem arrive_opsOfGroups (d : Dev) (ci sid : Nat) (w : BitVec 64) (act : List (Nat × Nat)) :
    opsOfGroups (d.arrive ci sid w) ci act = opsOfGroups d ci act := by
  unfold opsOfGroups
  rw [issueOnly_ops (arrive_issueOnly d ci sid w)]

/-- What a fence makes of the strand that has arrived. -/
def fenceStep (d : Dev) (i : Issue) (st : Strand) : Dev :=
  if fld (subOf i.word) 7 6 = 1 ∨ fld (subOf i.word) 5 4 = 0 ∨ opsOfGroups d i.core (actives d i st) = [] then
    (d.arrive i.core i.strand i.word).advance i.core i.strand
  else (d.arrive i.core i.strand i.word).setStrand i.core i.strand
    { st with wait := .fence (opsOfGroups d i.core (actives d i st)) (fld (subOf i.word) 5 4 == 3) }

theorem fenceStep_frame {d : Dev} {i : Issue} {st : Strand} (ha : Arrives d i st) :
    IssueOnly i.core d (fenceStep d i st) ∧ SameRegisters d (fenceStep d i st) i.core := by
  unfold fenceStep
  split
  · obtain ⟨-, hside, hreads⟩ := arrive_advance ha
    exact ⟨hside, hreads⟩
  · exact ⟨(arrive_issueOnly _ _ _ _).trans (setStrand_issueOnly _ _ _ _), fun slot lane code =>
      (setStrand_readW _ _ _ _ _ _ _).trans (arrive_readW _ _ _ _ _ _ _)⟩

/-- The opcode of an instruction that can issue is the one that its row takes. -/
theorem isOpc_of_issues {d : Dev} {i : Issue} {o : Nat} (h : Issues d i o) : isOpc o i.word = true := by
  obtain ⟨st, -, -, hop, -⟩ := h
  simp [isOpc, hop]

/-- The effect of FENCE on the strand that has arrived and its active lanes. -/
def fenceEffect (i : Issue) (d : Dev) (st : Strand) (act : List (Nat × Nat)) : Dev :=
  if fld (subOf i.word) 7 6 = 1 || fld (subOf i.word) 5 4 = 0 || (opsOfGroups d i.core act).isEmpty then
    d.advance i.core i.strand
  else d.setStrand i.core i.strand { st with wait := .fence (opsOfGroups d i.core act) (fld (subOf i.word) 5 4 == 3) }

theorem exec_fence_eq (i : Issue) (s : State) : exec (.fence i) s = s.on fun d => d.issue i (isOpc 0x53) (fenceEffect i) := rfl

theorem fenceEffect_arrived (d : Dev) (i : Issue) (st : Strand) :
    fenceEffect i (d.arrive i.core i.strand i.word) st ((d.arrive i.core i.strand i.word).active i.core st i.word) =
      fenceStep d i st := by
  simp only [fenceEffect, fenceStep, arrive_actives, arrive_opsOfGroups, Bool.or_eq_true, decide_eq_true_eq, List.isEmpty_iff,
    or_assoc]

theorem exec_fence {s : State} {i : Issue} (h : Issues s.dev i 0x53) :
    ∃ st, Arrives s.dev i st ∧ exec (.fence i) s = .next (withDev s (fenceStep s.dev i st)) := by
  obtain ⟨st, ha, hissue⟩ := issue_spec h (isOpc 0x53) (fenceEffect i) (isOpc_of_issues h)
  obtain ⟨hside, -⟩ := fenceStep_frame ha
  exact ⟨st, ha, (exec_fence_eq i s).trans (on_eq_of_issueOnly (hissue.trans (fenceEffect_arrived _ _ _)) hside)⟩

/-! ### CFLUSH and CINV (04 R172) -/

theorem onchipPlace_ne_mem {d : Dev} {ci slot dva size : Nat} {write : Bool} {p : Place}
    (h : d.onchipPlace ci slot dva size write = some p) (pa attr : Nat) : p ≠ .mem pa attr := by
  rintro rfl
  unfold Dev.onchipPlace at h
  dsimp only at h
  split at h
  · split at h
    · cases h
    · cases h
  · split at h
    · split at h
      · cases h
      · cases h
    · split at h
      · split at h
        · cases h
        · cases h
      · cases h

/-- An on-chip address does nothing but go on (04 R172). -/
theorem cacheOp_onchip {d0 d : Dev} {i : Issue} {st : Strand} {e : Nat × Nat} (f : Dev → Rq → Nat → Dev)
    (hchip : isOnchip (d.laneAddr i.core e.2 e.1 i.word (offsetOf i.word)) = true)
    (hplace : (d.onchipPlace i.core e.2 (d.laneAddr i.core e.2 e.1 i.word (offsetOf i.word)) 1 true).isSome = true) :
    d0.cacheOp d i st [e] f = d.advance i.core i.strand := by
  obtain ⟨p, hp⟩ := Option.isSome_iff_exists.mp hplace
  have hmem := onchipPlace_ne_mem hp
  unfold Dev.cacheOp Dev.places laneOps
  simp only [List.map_cons, List.map_nil, List.find?_cons, List.find?_nil, hchip, Acc.needsW, hp, Option.isNone_some,
    Bool.and_false, List.foldl_cons, List.foldl_nil, if_true, Option.getD_some, List.nil_append]
  cases p with
  | ls off => rfl
  | tile c off => rfl
  | mem pa attr => exact absurd rfl (hmem pa attr)

/-- An address of device memory to whose line the core has no access outstanding: the operation on that line, then on. -/
theorem cacheOp_mem {d0 d d' : Dev} {i : Issue} {st : Strand} {e : Nat × Nat} {pa attr : Nat} (f : Dev → Rq → Nat → Dev)
    (hchip : isOnchip (d.laneAddr i.core e.2 e.1 i.word (offsetOf i.word)) = false)
    (ht : d.translate (d.strandCtx i.core st) (d.laneAddr i.core e.2 e.1 i.word (offsetOf i.word)) .maint = (.ok (pa, attr), d'))
    (hidle : ∀ o ∈ (d'.core i.core).ops, o.2.line ≠ pa / 128) :
    d0.cacheOp d i st [e] f =
      (f d' (d'.rqPart (d'.strandPart i.core st)) (pa / 128)).advance i.core i.strand := by
  have hbusy : (d'.core i.core).ops.any (fun o => o.2.line == pa / 128) = false := by
    simpa using fun k o ho => hidle (k, o) ho
  unfold Dev.cacheOp Dev.places laneOps
  simp only [List.map_cons, List.map_nil, List.find?_cons, List.find?_nil, hchip, Bool.false_and, List.foldl_cons, List.foldl_nil,
    Bool.false_eq_true, if_false, ht, List.nil_append, List.any_cons, List.any_nil, hbusy, Bool.or_false]

theorem sliceSide_core {d e : Dev} (h : SliceSide d e) (ci : Nat) : e.core ci = d.core ci := by
  obtain ⟨he, -⟩ := h
  rw [he]
  rfl

/-- CFLUSH at core scope touches nothing of its core but the line, which stays, clean. -/
theorem flushOwn_core (d : Dev) (ci line : Nat) :
    (∀ k, (d.flushOwn ci line).strand? ci k = d.strand? ci k) ∧
    ∀ l, Tab.get? (d.core ci).l1 line = some l →
      Tab.get? ((d.flushOwn ci line).core ci).l1 line = some { l with st := if l.st = .m then .e else l.st } := by
  unfold Dev.flushOwn
  dsimp only
  cases hl : Tab.get? (d.core ci).l1 line with
  | none => exact ⟨fun _ => rfl, fun l h => nomatch h⟩
  | some l =>
    dsimp only
    by_cases hm : l.st = .m
    · have hdirty : (l.st == .m) = true := by simpa using hm
      have hcore := sliceSide_core (writeBack_sliceSide (d.setCore ci ((d.core ci).putL1 line { l with st := .e })) ci line l) ci
      rw [if_pos hdirty]
      refine ⟨fun k => ?_, fun x hx => ?_⟩
      · unfold Dev.strand?
        rw [hcore, Dev.core_setCore_self]
        rfl
      · obtain rfl := Option.some.inj hx
        rw [hcore, Dev.core_setCore_self, if_pos hm]
        exact Tab.get?_put_self _ _ _
    · have hclean : ¬ (l.st == .m) = true := by simpa using hm
      rw [if_neg hclean]
      refine ⟨fun _ => rfl, fun x hx => ?_⟩
      obtain rfl := Option.some.inj hx
      rw [if_neg hm, hl]

/-- CINV at core scope touches nothing of its core but the line, which leaves. -/
theorem dropOwn_core (d : Dev) (ci line : Nat) :
    (∀ k, (d.dropOwn ci line).strand? ci k = d.strand? ci k) ∧ Tab.get? ((d.dropOwn ci line).core ci).l1 line = none := by
  unfold Dev.dropOwn
  refine ⟨fun k => ?_, ?_⟩
  · unfold Dev.strand?
    rw [Dev.core_modCore_self]
  · rw [Dev.core_modCore_self]
    exact Tab.get?_del_self _ _

/-- The operation of CFLUSH or CINV on a line, by the instruction's scope. -/
def cflushLine (i : Issue) (d : Dev) (rq : Rq) (line : Nat) : Dev :=
  if ordOf i.word % 4 = 3 then d.flushLine rq line else d.flushOwn i.core line

def cinvLine (i : Issue) (d : Dev) (_ : Rq) (line : Nat) : Dev :=
  match ordOf i.word % 4 with
  | 3 => d.invalidateLine line
  | 2 => d.discardCopies line
  | _ => d.dropOwn i.core line

theorem exec_cflush_eq (i : Issue) (s : State) :
    exec (.cflush i) s = s.on fun d0 => d0.issue i (isOpc 0x54) fun d st act => d0.cacheOp d i st act (cflushLine i) := rfl

theorem exec_cinv_eq (i : Issue) (s : State) :
    exec (.cinv i) s = s.on fun d0 => d0.issue i (isOpc 0x55) fun d st act => d0.cacheOp d i st act (cinvLine i) := rfl

/-- The block with the device of a meaning, time base and fuses kept. -/
def keeping (s : State) (d : Dev) : State := { s with dev := { d with time := s.dev.time, fuses := s.dev.fuses } }

theorem keeping_of_issueOnly {s : State} {ci : Nat} {d : Dev} (h : IssueOnly ci s.dev d) : keeping s d = withDev s d := by
  unfold keeping withDev
  rw [← h.coreSide.memorySide.time, ← h.coreSide.memorySide.fuses]

theorem exec_cacheOp {s : State} {i : Issue} {o : Nat} {c : Instr} {f : Dev → Rq → Nat → Dev} (h : Issues s.dev i o)
    (hexec : exec c s = s.on fun d0 => d0.issue i (isOpc o) fun d st act => d0.cacheOp d i st act f) :
    ∃ st, Arrives s.dev i st ∧ exec c s =
      .next (keeping s (s.dev.cacheOp (s.dev.arrive i.core i.strand i.word) i st (actives s.dev i st) f)) := by
  obtain ⟨st, ha, hissue⟩ := issue_spec h (isOpc o) (fun d st act => s.dev.cacheOp d i st act f) (isOpc_of_issues h)
  rw [arrive_actives] at hissue
  refine ⟨st, ha, ?_⟩
  rw [hexec, State.on_eq, hissue]
  rfl

/-- On chip, the strand goes on and nothing else happens. -/
theorem cacheOp_arrive_onchip {d : Dev} {i : Issue} {st : Strand} {e : Nat × Nat} (f : Dev → Rq → Nat → Dev)
    (hchip : isOnchip (d.laneAddr i.core e.2 e.1 i.word (offsetOf i.word)) = true)
    (hplace : (d.onchipPlace i.core e.2 (d.laneAddr i.core e.2 e.1 i.word (offsetOf i.word)) 1 true).isSome = true) :
    d.cacheOp (d.arrive i.core i.strand i.word) i st [e] f = (d.arrive i.core i.strand i.word).advance i.core i.strand := by
  refine cacheOp_onchip f ?_ ?_
  · rw [arrive_laneAddr]
    exact hchip
  · rw [arrive_laneAddr, arrive_onchipPlace]
    exact hplace

/-- In device memory, the operation on the line comes first. -/
theorem cacheOp_arrive_mem {d d' : Dev} {i : Issue} {st : Strand} {e : Nat × Nat} {pa attr : Nat} (f : Dev → Rq → Nat → Dev)
    (hchip : isOnchip (d.laneAddr i.core e.2 e.1 i.word (offsetOf i.word)) = false)
    (hidle : ∀ o ∈ (d.core i.core).ops, o.2.line ≠ pa / 128)
    (ht : (d.arrive i.core i.strand i.word).translate (d.strandCtx i.core st)
      (d.laneAddr i.core e.2 e.1 i.word (offsetOf i.word)) .maint = (.ok (pa, attr), d'))
    (hcore : d'.core i.core = (d.arrive i.core i.strand i.word).core i.core) :
    ∃ rq, d.cacheOp (d.arrive i.core i.strand i.word) i st [e] f = (f d' rq (pa / 128)).advance i.core i.strand := by
  refine ⟨_, cacheOp_mem (attr := attr) f ?_ ?_ ?_⟩
  · rw [arrive_laneAddr]
    exact hchip
  · rw [arrive_laneAddr, arrive_strandCtx]
    exact ht
  · rw [hcore, issueOnly_ops (arrive_issueOnly _ _ _ _)]
    exact hidle

/-- The clause of CFLUSH and of CINV, given what the operation at core scope makes of the purse's entry for the line. -/
theorem cacheOp_spec {s : State} {i : Issue} {o : Nat} {c : Instr} {f : Dev → Rq → Nat → Dev}
    {becomes : Option L1Line → Option L1Line → Prop} (h : Issues s.dev i o)
    (hexec : exec c s = s.on fun d0 => d0.issue i (isOpc o) fun d st act => d0.cacheOp d i st act f)
    (hline : ordOf i.word % 4 = 0 → ∀ d rq line, (∀ k, (f d rq line).strand? i.core k = d.strand? i.core k) ∧
      becomes (Tab.get? (d.core i.core).l1 line) (Tab.get? ((f d rq line).core i.core).l1 line)) :
    ∃ t st, exec c s = .next t ∧ t.pending = s.pending ∧ Arrives s.dev i st ∧
      (∀ e, actives s.dev i st = [e] →
        let dva := s.dev.laneAddr i.core e.2 e.1 i.word (offsetOf i.word)
        (isOnchip dva = true → (s.dev.onchipPlace i.core e.2 dva 1 true).isSome = true →
          WentOn s.dev t.dev i st (st.pc + 8) ∧ RegisterFrame s.dev t.dev i.core ∧ SameRegisters s.dev t.dev i.core) ∧
        (∀ pa attr d', isOnchip dva = false → ordOf i.word % 4 = 0 →
          (∀ o ∈ (s.dev.core i.core).ops, o.2.line ≠ pa / 128) →
          (s.dev.arrive i.core i.strand i.word).translate (s.dev.strandCtx i.core st) dva .maint = (.ok (pa, attr), d') →
          d'.core i.core = (s.dev.arrive i.core i.strand i.word).core i.core →
          WentOn s.dev t.dev i st (st.pc + 8) ∧
          becomes (Tab.get? (s.dev.core i.core).l1 (pa / 128)) (Tab.get? (t.dev.core i.core).l1 (pa / 128)))) := by
  obtain ⟨st, ha, hnext⟩ := exec_cacheOp h hexec
  refine ⟨_, st, hnext, rfl, ha, fun e he => ⟨fun hchip hplace => ?_, fun pa attr d' hchip hord hidle ht hcore => ?_⟩⟩
  · obtain ⟨hwent, hside, hreads⟩ := arrive_advance ha
    rw [he, cacheOp_arrive_onchip f hchip hplace, keeping_of_issueOnly hside]
    exact ⟨hwent, registerFrame_of_issueOnly hside, hreads⟩
  · obtain ⟨rq, hop⟩ := cacheOp_arrive_mem (d := s.dev) f hchip hidle ht hcore
    obtain ⟨hstrands, hl1⟩ := hline hord d' rq (pa / 128)
    have harrived : ∀ k, d'.strand? i.core k = (s.dev.arrive i.core i.strand i.word).strand? i.core k := fun k => by
      unfold Dev.strand?
      rw [hcore]
    obtain ⟨hwent, hside, -⟩ := wentOn_advance ha (fun k => (hstrands k).trans (harrived k))
    rw [hcore, issueOnly_l1 (arrive_issueOnly _ _ _ _), ← issueOnly_l1 hside] at hl1
    rw [he, hop]
    exact ⟨hwent, hl1⟩

/-- Settles O14: FENCE waits for the operations of its groups; CFLUSH and CINV are one operation on the purse's line. -/
theorem fencesAndCacheOperations : Obligations.FencesAndCacheOperations := by
  refine ⟨fun i s h _ => ?_, fun row hrow i s h _ => ?_⟩
  · obtain ⟨st, ha, hexec⟩ := exec_fence h
    obtain ⟨hside, hreads⟩ := fenceStep_frame ha
    refine ⟨_, st, hexec, rfl, ha, registerFrame_of_issueOnly hside, hreads, fun hgo => ?_, fun hrel hscope hwait => ?_⟩
    · obtain ⟨hwent, -⟩ := arrive_advance ha
      have hpass : fld (subOf i.word) 7 6 = 1 ∨ fld (subOf i.word) 5 4 = 0 ∨ opsOfGroups s.dev i.core (actives s.dev i st) = [] :=
        hgo.imp_right (Or.imp_right fun hnone => List.eq_nil_iff_forall_not_mem.mpr fun id hid =>
          hnone id ((mem_opsOfGroups _ _ _ _).mp hid))
      show WentOn _ (fenceStep s.dev i st) _ _ _
      unfold fenceStep
      rw [if_pos hpass]
      exact hwent
    · obtain ⟨id, hid⟩ := hwait
      have hsome : opsOfGroups s.dev i.core (actives s.dev i st) ≠ [] :=
        List.ne_nil_of_mem ((mem_opsOfGroups _ _ _ _).mpr hid)
      refine ⟨opsOfGroups s.dev i.core (actives s.dev i st), ?_, mem_opsOfGroups _ _ _⟩
      show (fenceStep s.dev i st).strand? _ _ = _
      unfold fenceStep
      rw [if_neg (by simp [hrel, hscope, hsome])]
      exact Dev.strand?_setStrand_self _ _ _ _
  · simp only [List.mem_cons, List.not_mem_nil, or_false] at hrow
    obtain rfl | rfl := hrow
    · obtain ⟨t, st, hexec, hq, ha, hlanes⟩ := cacheOp_spec h (exec_cflush_eq i s)
        (becomes := fun x y => ∀ l, x = some l → y = some { l with st := if l.st = .m then .e else l.st })
        (fun hord d rq line => by
          unfold cflushLine
          rw [if_neg (by omega)]
          exact flushOwn_core _ _ _)
      refine ⟨t, st, hexec, hq, ha, fun e he => ⟨(hlanes e he).1, fun pa attr d' hchip hord hidle ht hcore => ?_⟩⟩
      obtain ⟨hwent, hclean⟩ := (hlanes e he).2 pa attr d' hchip hord hidle ht hcore
      exact ⟨hwent, fun hop => absurd hop (by decide), fun _ => hclean⟩
    · obtain ⟨t, st, hexec, hq, ha, hlanes⟩ := cacheOp_spec h (exec_cinv_eq i s) (becomes := fun _ y => y = none)
        (fun hord d rq line => by
          unfold cinvLine
          rw [hord]
          exact dropOwn_core _ _ _)
      refine ⟨t, st, hexec, hq, ha, fun e he => ⟨(hlanes e he).1, fun pa attr d' hchip hord hidle ht hcore => ?_⟩⟩
      obtain ⟨hwent, hgone⟩ := (hlanes e he).2 pa attr d' hchip hord hidle ht hcore
      exact ⟨hwent, fun _ => hgone, fun hop => absurd hop (by decide)⟩

end Sys2Proof.Proofs

/-! ## The home slice serves its requests (04 R163, Table 4-9) -/

namespace Sys2Proof.Proofs
open Sys2Proof.Machine Sys2Proof.Safety

theorem on_eq_keeping {f : Dev → Dev} {s : State} {d : Dev} (h : f s.dev = d) : s.on f = .next (keeping s d) := by
  rw [State.on_eq, h]
  rfl

/-! ### The directory's entries -/

theorem dirOf_eq_none {d : Dev} {line : Nat} : d.dirOf line = none ↔ Tab.get? d.mem.dir line = none := by
  unfold Dev.dirOf
  exact Option.map_eq_none_iff

/-- With room in the directory the line's entry takes its state and no other entry changes (04 R161). -/
theorem setDir_of_room {d : Dev} {line : Nat} (h : DirRoom d line) (st : DirState) :
    ∃ way, d.setDir line st = { d with mem := { d.mem with dir := Tab.put d.mem.dir line { way := way, st := st } } } := by
  unfold Dev.setDir
  cases he : Tab.get? d.mem.dir line with
  | some e => exact ⟨e.way, rfl⟩
  | none =>
    obtain hsome | ⟨w, hw, hfree⟩ := h
    · rw [dirOf_eq_none.mpr he] at hsome
      exact absurd hsome (by decide)
    · have hfound : ((List.range 12).find? (fun w =>
          !((d.mem.dir.filter (fun e => d.dirSet e.1 == d.dirSet line)).any (fun e => e.2.way == w)))).isSome = true := by
        rw [List.find?_isSome]
        refine ⟨w, List.mem_range.mpr hw, ?_⟩
        simpa using fun a b hmem hset => hfree (a, b) hmem hset
      obtain ⟨x, hx⟩ := Option.isSome_iff_exists.mp hfound
      simp only [hx]
      exact ⟨x, rfl⟩

theorem dirOf_putDir (d : Dev) (line : Nat) (e : DirEnt) :
    ({ d with mem := { d.mem with dir := Tab.put d.mem.dir line e } } : Dev).dirOf line = some e.st := by
  unfold Dev.dirOf
  rw [Tab.get?_put_self]
  rfl

theorem dirOf_delDir (d : Dev) (line : Nat) : (d.delDir line).dirOf line = none :=
  dirOf_eq_none.mpr (Tab.get?_del_self _ _)

theorem dirOf_congr {d e : Dev} (h : e.mem.dir = d.mem.dir) (line : Nat) : e.dirOf line = d.dirOf line := by
  unfold Dev.dirOf
  rw [h]

/-! ### Grants (04 R152, R163) -/

/-- Nothing but the counters, the miss registers and the responses on their way differs. -/
def ReplySide (d e : Dev) : Prop :=
  e = { d with aud := e.aud, mem := { d.mem with missRegs := e.mem.missRegs, resps := e.mem.resps } }

theorem count_respond_replySide (d : Dev) (off n : Nat) (r : Resp) : ReplySide d ((d.count off n).respond r) := by
  have h := count_audSide d off n
  unfold ReplySide Dev.respond
  rw [h]

theorem count_missReg_replySide (d : Dev) (off n : Nat) (f : Dev → Tab MissReg) :
    ReplySide d { d.count off n with mem := { (d.count off n).mem with missRegs := f (d.count off n) } } := by
  have h := count_audSide d off n
  unfold ReplySide
  rw [h]

theorem supply_replySide (d : Dev) (ci line : Nat) (g : L1State) (data : Option (Line × BitVec 16)) (attr : Nat) :
    ReplySide (d.markGranted ci line) (d.supply ci line g data attr) := by
  unfold Dev.supply
  dsimp only
  split
  · rfl
  · split
    · rfl
    · split
      · exact count_respond_replySide _ _ _ _
      · exact count_missReg_replySide (d.markGranted ci line) _ _ (fun e => Tab.put e.mem.missRegs line _)

/-- A grant sets out: the cores differ in the miss's mark alone, and the directory, the transactions, the vault and DRAM are as
before. -/
theorem supply_frame (d : Dev) (ci line : Nat) (g : L1State) (data : Option (Line × BitVec 16)) (attr : Nat) :
    (d.supply ci line g data attr).cores = (d.markGranted ci line).cores ∧
    (d.supply ci line g data attr).mem.dir = d.mem.dir ∧ (d.supply ci line g data attr).mem.txns = d.mem.txns ∧
    (d.supply ci line g data attr).mem.vault = d.mem.vault ∧ (d.supply ci line g data attr).mem.dram = d.mem.dram := by
  have h := supply_replySide d ci line g data attr
  unfold ReplySide at h
  rw [h]
  exact ⟨rfl, rfl, rfl, rfl, rfl⟩

theorem misses_markGranted {d : Dev} {ci line : Nat} {m : Miss} (h : Tab.get? (d.core ci).misses line = some m) :
    Tab.get? ((d.markGranted ci line).core ci).misses line = some { m with granted := true } := by
  unfold Dev.markGranted
  rw [Dev.core_modCore_self]
  simp only [Tab.get?_mod, if_true, h, Option.map_some]

/-- A line that the vault holds is on its way with the vault's data, an upgrade of a held line without data. -/
theorem supply_of_vault {d : Dev} {line : Nat} {v : VLine} (hv : Tab.get? d.mem.vault line = some v) (ci : Nat) (g : L1State)
    (attr : Nat) : ∃ r ∈ (d.supply ci line g none attr).mem.resps, r.core = ci ∧ r.line = line ∧ r.grant = some g ∧ r.op = none ∧
      (Tab.has (d.core ci).l1 line = false → r.data = v.data ∧ r.poison = v.poison) := by
  have hl1 : ((d.markGranted ci line).core ci).l1 = (d.core ci).l1 := by
    unfold Dev.markGranted
    rw [Dev.core_modCore_self]
  have hvault : Tab.get? (d.markGranted ci line).mem.vault line = some v := hv
  unfold Dev.supply
  simp only [hl1, hvault]
  split
  · next hheld =>
    refine ⟨_, List.mem_append_right _ (List.mem_singleton.mpr rfl), rfl, rfl, rfl, rfl, fun habsent => ?_⟩
    rw [hheld] at habsent
    exact absurd habsent (by decide)
  · exact ⟨_, List.mem_append_right _ (List.mem_singleton.mpr rfl), rfl, rfl, rfl, rfl, fun _ => ⟨rfl, rfl⟩⟩

/-- The directory takes a state with room for it and a grant sets out: what of the device shows it. -/
theorem grant_spec {d : Dev} {ci line : Nat} {m : Miss} (hroom : DirRoom d line)
    (hm : Tab.get? (d.core ci).misses line = some m) (st : DirState) (g : L1State) (data : Option (Line × BitVec 16)) (attr : Nat) :
    ((d.setDir line st).supply ci line g data attr).dirOf line = some st ∧
    Tab.get? (((d.setDir line st).supply ci line g data attr).core ci).misses line = some { m with granted := true } ∧
    ((d.setDir line st).supply ci line g data attr).mem.txns = d.mem.txns ∧
    ((d.setDir line st).supply ci line g data attr).mem.vault = d.mem.vault ∧
    ((d.setDir line st).supply ci line g data attr).mem.dram = d.mem.dram := by
  obtain ⟨way, hset⟩ := setDir_of_room hroom st
  obtain ⟨hcores, hdir, htxns, hvault, hdram⟩ := supply_frame (d.setDir line st) ci line g data attr
  refine ⟨?_, ?_, ?_, ?_, ?_⟩
  · rw [dirOf_congr hdir, hset, dirOf_putDir]
  · unfold Dev.core
    rw [hcores]
    refine misses_markGranted (d := d.setDir line st) ?_
    rw [hset]
    exact hm
  · rw [htxns, hset]
  · rw [hvault, hset]
  · rw [hdram, hset]

theorem grant_of_vault {d : Dev} {line : Nat} {v : VLine} (hroom : DirRoom d line) (hv : Tab.get? d.mem.vault line = some v)
    (ci : Nat) (st : DirState) (g : L1State) (attr : Nat) :
    ∃ r ∈ ((d.setDir line st).supply ci line g none attr).mem.resps, r.core = ci ∧ r.line = line ∧ r.grant = some g ∧ r.op = none ∧
      (Tab.has (d.core ci).l1 line = false → r.data = v.data ∧ r.poison = v.poison) := by
  obtain ⟨way, hset⟩ := setDir_of_room hroom st
  have hvault : Tab.get? (d.setDir line st).mem.vault line = some v := by
    rw [hset]
    exact hv
  have hcore : (d.setDir line st).core ci = d.core ci := by
    rw [hset]
    rfl
  rw [← hcore]
  exact supply_of_vault hvault ci g attr

/-! ### Read and write misses (04 R163) -/

theorem askAgain_of_miss {d : Dev} {ci line : Nat} {m : Miss} (h : Tab.get? (d.core ci).misses line = some m) (write : Bool) :
    d.askAgain ci line write = d := by
  have hhas : Tab.has (d.core ci).misses line = true := by
    unfold Tab.has
    rw [h]
    rfl
  unfold Dev.askAgain
  simp only [hhas, if_true]

theorem requested_of_idle {d : Dev} {line : Nat} (h : Tab.get? d.mem.txns line = none) (q : DirReq) : d.requested line q = false := by
  unfold Dev.requested
  rw [h]

theorem exec_dirReadMiss {s : State} {core line : Nat} {m : Miss} (h : NewMiss s.dev core line m false) :
    exec (.dirReadMiss core line) s = .next (keeping s (s.dev.dirRequest line (.read core))) := by
  obtain ⟨hm, hwrite, hgranted, htxn, hleaving, hroom⟩ := h
  show execDirReadMiss core line s = _
  unfold execDirReadMiss
  refine on_eq_keeping ?_
  simp only [askAgain_of_miss hm, hm, hwrite, hgranted, requested_of_idle htxn, hleaving, hroom, Bool.or_self, Bool.not_true,
    Bool.false_eq_true, if_false]

theorem exec_dirWriteMiss {s : State} {core line : Nat} {m : Miss} (h : NewMiss s.dev core line m true) :
    exec (.dirWriteMiss core line) s = .next (keeping s (s.dev.dirRequest line (.write core))) := by
  obtain ⟨hm, hwrite, hgranted, htxn, hleaving, hroom⟩ := h
  show execDirWriteMiss core line s = _
  unfold execDirWriteMiss
  refine on_eq_keeping ?_
  simp only [askAgain_of_miss hm, hm, hwrite, hgranted, requested_of_idle htxn, hleaving, hroom, Bool.or_self, Bool.not_true,
    Bool.false_eq_true, if_false]

theorem dirRequest_read_uncached {d : Dev} {line ci : Nat} {m : Miss} (htxn : Tab.get? d.mem.txns line = none)
    (hm : Tab.get? (d.core ci).misses line = some m) (hdir : d.dirOf line = none) :
    d.dirRequest line (.read ci) =
      (d.setDir line (if m.attr = 1 then .sp [ci] else .x ci)).supply ci line (if m.attr = 1 then .s else .e) none m.attr := by
  unfold Dev.dirRequest
  simp only [htxn, hdir, Dev.serve, hm]
  split
  · rfl
  · rfl

theorem dirRequest_read_owned {d : Dev} {line ci o : Nat} (htxn : Tab.get? d.mem.txns line = none)
    (hdir : d.dirOf line = some (.x o)) (ho : o ≠ ci) :
    d.dirRequest line (.read ci) = withTxn d line (opened (.read ci) [] (some o)) := by
  unfold Dev.dirRequest
  simp only [htxn, hdir, ho, if_false]
  rfl

theorem dirRequest_write_alone {d : Dev} {line ci : Nat} {m : Miss} (htxn : Tab.get? d.mem.txns line = none)
    (hm : Tab.get? (d.core ci).misses line = some m) (hnone : (d.sharersOf line).filter (fun c => c != ci) = []) :
    d.dirRequest line (.write ci) = (d.setDir line (.x ci)).supply ci line .m none m.attr := by
  unfold Dev.dirRequest
  simp only [htxn, hnone, Dev.serve, hm, List.isEmpty_nil, if_true]

theorem dirRequest_write_shared {d : Dev} {line ci : Nat} (htxn : Tab.get? d.mem.txns line = none)
    (hsome : (d.sharersOf line).filter (fun c => c != ci) ≠ []) :
    d.dirRequest line (.write ci) =
      withTxn d line (opened (.write ci) ((d.sharersOf line).filter (fun c => c != ci)) none) := by
  unfold Dev.dirRequest
  simp only [htxn]
  rw [if_neg (by simpa [List.isEmpty_iff] using hsome)]
  rfl

/-! ### Stores performed at the slice (04 R163, R171) -/

theorem hostRefuses_of_vault {d : Dev} {line : Nat} {v : VLine} (h : Tab.get? d.mem.vault line = some v) (f : Nat) :
    d.hostRefuses f line = false := by
  unfold Dev.hostRefuses Tab.has
  rw [h]
  simp

/-- A write of a line that the vault holds leaves the bytes of its mask there (04 Table 4-4). -/
theorem sliceWrite_of_vault {d : Dev} {line : Nat} {v : VLine} (hv : Tab.get? d.mem.vault line = some v) (rq : Rq) (attr : Nat)
    (mask : LineMask) (data : Line) (poison : BitVec 16) :
    ∃ v', Tab.get? (d.sliceWrite rq attr line mask data poison).mem.vault line = some v' ∧
      v'.data = mergeLine mask v.data data ∧ v'.way = v.way := by
  have hwrite : ∀ e : Dev, (e.memWrite rq line mask data poison).mem.vault = e.mem.vault := fun e => by
    obtain ⟨h, -⟩ := memWrite_behindSide e rq line mask data poison
    rw [h]
  unfold Dev.sliceWrite
  simp only [hv]
  split
  · rw [hwrite]
    exact ⟨_, Tab.get?_put_self _ _ _, rfl, rfl⟩
  · exact ⟨_, Tab.get?_put_self _ _ _, rfl, rfl⟩

theorem sliceSide_dir {d e : Dev} (h : SliceSide d e) : e.mem.dir = d.mem.dir := by
  obtain ⟨he, -⟩ := h
  rw [he]

theorem sliceSide_cores {d e : Dev} (h : SliceSide d e) : e.cores = d.cores := by
  obtain ⟨he, -⟩ := h
  rw [he]

/-- The answer of a store that its home slice performed. -/
def storeAnswer (ci id : Nat) (o : MemOp) : Resp :=
  { core := ci, line := o.line, grant := none, data := 0, poison := 0, op := some id, value := leNat (lineBytes 0 o.off o.size) }

theorem performHome_store {d : Dev} {ci id x : Nat} {o : MemOp} {v : VLine} (ho : Tab.get? (d.core ci).ops id = some o)
    (hk : o.kind = .store x) (hv : Tab.get? d.mem.vault o.line = some v) :
    d.performHome ci id =
      (d.sliceWrite (d.rqPart o.part) o.attr o.line o.mask (lineSet 0 o.off (toLe o.size x)) 0).respond (storeAnswer ci id o) := by
  have hconsumes : ∀ p, o.consumes p = none := fun p => by unfold MemOp.consumes; rw [hk]
  have hvalue : ∀ y, o.newValue y = some x := fun y => by unfold MemOp.newValue; rw [hk]
  unfold Dev.performHome
  simp only [ho, hostRefuses_of_vault hv, hk, Bool.false_and, Bool.false_eq_true, if_false, if_true, hconsumes, hvalue]
  rfl

theorem exec_dirWtStore {s : State} {core k x : Nat} {o : MemOp} (ho : Tab.get? (s.dev.core core).ops k = some o)
    (hhome : o.atHome = true) (hk : o.kind = .store x) (hclear : (s.dev.core core).opClear k o = true)
    (htxn : Tab.get? s.dev.mem.txns o.line = none) (hresp : ∀ r ∈ s.dev.mem.resps, ¬ (r.core = core ∧ r.op = some k)) :
    exec (.dirWtStore core k) s = .next (keeping s (s.dev.dirRequest o.line (.op core k))) := by
  have hnone : s.dev.mem.resps.any (fun r => r.core == core && r.op == some k) = false := by
    simpa using fun r hr hcore hop => hresp r hr ⟨hcore, hop⟩
  show execDirWtStore core k s = _
  unfold execDirWtStore
  refine on_eq_keeping ?_
  simp only [ho, hhome, hk, MemKind.isLoad, hclear, requested_of_idle htxn, hnone, Bool.not_true, Bool.or_self, Bool.false_eq_true,
    if_false]

theorem dirRequest_op_shared {d : Dev} {line ci id : Nat} (htxn : Tab.get? d.mem.txns line = none) (hsome : d.sharersOf line ≠ []) :
    d.dirRequest line (.op ci id) = withTxn d line (opened (.op ci id) (d.sharersOf line) none) := by
  unfold Dev.dirRequest
  simp only [htxn]
  rw [if_neg (by simpa [List.isEmpty_iff] using hsome)]
  rfl

theorem dirRequest_op_alone {d : Dev} {line ci id : Nat} (htxn : Tab.get? d.mem.txns line = none) (hnone : d.sharersOf line = []) :
    d.dirRequest line (.op ci id) = (d.delDir line).performHome ci id := by
  unfold Dev.dirRequest
  simp only [htxn, hnone, Dev.serve, List.isEmpty_nil, if_true]

/-! ### Reads and writes of units that are no cores (04 Table 4-9) -/

theorem count_get (d : Dev) (off : Nat) :
    Tab.get (d.count off 1).aud.count off 0 = (Tab.get d.aud.count off 0 + 1) % 2 ^ 48 := by
  unfold Dev.count
  rw [if_neg (by decide)]
  dsimp only
  split
  · exact Tab.get_put_self _ _ _ _
  · exact Tab.get_put_self _ _ _ _

theorem exec_nonCoreRead {s : State} {req line : Nat} {v : VLine} (hreq : req ≤ 36) (hline : line < 2 ^ 41)
    (hrun : s.dev.running = true) (hq : Quiet s.dev line) (hv : Tab.get? s.dev.mem.vault line = some v) :
    exec (.nonCoreRead req line) s = .next (withDev s (s.dev.countSlice (s.dev.sliceOf line) 0 1)) := by
  have hside : AudSide s.dev (s.dev.countSlice (s.dev.sliceOf line) 0 1) := count_audSide _ _ _
  show execNonCoreRead req line s = _
  unfold execNonCoreRead
  refine on_eq_withDev ?_ hside.tlbSide.time hside.tlbSide.fuses
  rw [if_neg, ncRead_quiet hq hv]
  simp only [hrun, hostRefuses_of_vault hv, Bool.not_true, Bool.or_false, Bool.or_eq_true, decide_eq_true_eq]
  omega

theorem exec_nonCoreWrite {s : State} {req line : Nat} {v : VLine} (hreq : req ≤ 36) (hline : line < 2 ^ 41)
    (hrun : s.dev.running = true) (hq : Quiet s.dev line) (hv : Tab.get? s.dev.mem.vault line = some v) (mask : LineMask)
    (data : Line) :
    exec (.nonCoreWrite req line mask data) s = .next (keeping s
      (((s.dev.countSlice (s.dev.sliceOf line) 0 1).delDir line).putVault line (written v mask data 0))) := by
  show execNonCoreWrite req line mask data s = _
  unfold execNonCoreWrite
  refine on_eq_keeping ?_
  dsimp only
  rw [if_neg, ncWrite_quiet hq hv]
  simp only [hrun, hostRefuses_of_vault hv, Bool.not_true, Bool.false_and, Bool.or_false, Bool.or_eq_true, decide_eq_true_eq]
  omega

/-! ### The statement -/

/-- A store performed at the slice of a line that no purse holds is written there and answered (04 R163). -/
theorem dirWtStore_alone {d : Dev} {core k x : Nat} {o : MemOp} {v : VLine} (ho : Tab.get? (d.core core).ops k = some o)
    (hk : o.kind = .store x) (htxn : Tab.get? d.mem.txns o.line = none) (hnone : d.sharersOf o.line = [])
    (hv : Tab.get? d.mem.vault o.line = some v) :
    (d.dirRequest o.line (.op core k)).dirOf o.line = none ∧
    (∃ v', Tab.get? (d.dirRequest o.line (.op core k)).mem.vault o.line = some v' ∧
      v'.data = mergeLine o.mask v.data (lineSet 0 o.off (toLe o.size x)) ∧ v'.way = v.way) ∧
    (∃ r ∈ (d.dirRequest o.line (.op core k)).mem.resps, r.core = core ∧ r.line = o.line ∧ r.op = some k ∧ r.grant = none) ∧
    (d.dirRequest o.line (.op core k)).cores = d.cores := by
  have hslice := sliceWrite_sliceSide (d.delDir o.line) ((d.delDir o.line).rqPart o.part) o.attr o.line o.mask
    (lineSet 0 o.off (toLe o.size x)) 0
  have hcores := sliceSide_cores hslice
  rw [dirRequest_op_alone htxn hnone, performHome_store (d := d.delDir o.line) ho hk hv]
  refine ⟨?_, sliceWrite_of_vault (d := d.delDir o.line) hv _ _ _ _ _,
    ⟨_, List.mem_append_right _ (List.mem_singleton.mpr rfl), rfl, rfl, rfl, rfl⟩, hcores⟩
  exact (dirOf_congr (sliceSide_dir hslice) _).trans (dirOf_delDir _ _)

/-- Settles O15: each command is one request at the directory, which either grants or writes at once, or opens a transaction. -/
theorem homeSlicesServeCoresAndUnits : Obligations.HomeSlicesServeCoresAndUnits := by
  refine ⟨fun s core line m => ⟨fun h => ?_, fun h => ?_⟩, ?_, ?_⟩
  · have hexec := exec_dirReadMiss h
    obtain ⟨hm, -, -, htxn, -, -⟩ := h
    refine ⟨fun hdir hroom habsent v hv => ?_, fun o hdir ho => ?_⟩
    · rw [dirRequest_read_uncached htxn hm hdir] at hexec
      obtain ⟨hst, hmiss, -, hvault, hdram⟩ := grant_spec hroom hm (if m.attr = 1 then .sp [core] else .x core)
        (if m.attr = 1 then .s else .e) none m.attr
      obtain ⟨r, hr, hcore, hline, hgrant, hop, hdata⟩ := grant_of_vault hroom hv core
        (if m.attr = 1 then .sp [core] else .x core) (if m.attr = 1 then .s else .e) m.attr
      obtain ⟨hbytes, hpoison⟩ := hdata habsent
      exact ⟨_, hexec, rfl, hst, ⟨r, hr, hcore, hline, hgrant, hbytes, hpoison, hop⟩, hmiss, hvault, hdram⟩
    · rw [dirRequest_read_owned htxn hdir ho] at hexec
      exact hexec
  · have hexec := exec_dirWriteMiss h
    obtain ⟨hm, -, -, htxn, -, -⟩ := h
    refine ⟨fun hnone hroom v hv => ?_, fun hsome => ?_⟩
    · rw [dirRequest_write_alone htxn hm hnone] at hexec
      obtain ⟨hst, hmiss, -, hvault, -⟩ := grant_spec hroom hm (.x core) .m none m.attr
      exact ⟨_, hexec, rfl, hst, grant_of_vault hroom hv core (.x core) .m m.attr, hmiss, hvault⟩
    · rw [dirRequest_write_shared htxn hsome] at hexec
      exact hexec
  · intro s core k o x ho hhome hk hclear htxn hresp
    have hexec := exec_dirWtStore ho hhome hk hclear htxn hresp
    refine ⟨fun hsome => ?_, fun hnone v hv => ?_⟩
    · rw [dirRequest_op_shared htxn hsome] at hexec
      exact hexec
    · exact ⟨_, hexec, rfl, dirWtStore_alone ho hk htxn hnone hv⟩
  · intro s req line v hreq hline hrun hq hv
    have hside : AudSide s.dev (s.dev.countSlice (s.dev.sliceOf line) 0 1) := count_audSide _ _ _
    have hmem := hside.tlbSide.mem
    refine ⟨⟨_, exec_nonCoreRead hreq hline hrun hq hv, ?_, count_get _ _⟩, fun mask data =>
      ⟨_, exec_nonCoreWrite hreq hline hrun hq hv mask data, rfl, Tab.get?_put_self _ _ _, fun l hl => ?_, ?_, ?_, ?_⟩⟩
    · unfold withDev
      rw [hside]
    · have hvault := congrArg (fun m : MemSys => Tab.get? m.vault l) hmem
      exact (Tab.get?_put_of_ne _ _ hl).trans hvault
    · have hdram := congrArg MemSys.dram hmem
      exact hdram
    · have hhost := congrArg MemSys.host hmem
      exact hhost
    · show (s.dev.countSlice (s.dev.sliceOf line) 0 1).cores = _
      rw [hside]

end Sys2Proof.Proofs

/-! ## Purses answer and are answered (04 R163, R164, R177, R587) -/

namespace Sys2Proof.Proofs
open Sys2Proof.Machine Sys2Proof.Safety

theorem sliceSide_txns {d e : Dev} (h : SliceSide d e) : e.mem.txns = d.mem.txns := by
  obtain ⟨he, -⟩ := h
  rw [he]

/-! ### INVALIDATION_AT_CORE (04 R164) -/

theorem exec_invalidationAtCore {s : State} {core line : Nat} (h : s.dev.grantInFlight core line = false) :
    exec (.invalidationAtCore core line) s = .next (keeping s (s.dev.invalidateAt core line)) := by
  show execInvalidationAtCore core line s = _
  unfold execInvalidationAtCore
  refine on_eq_keeping ?_
  rw [if_neg (by simp [h])]

/-- The transaction when core `ci` has dropped its copy `l`: a write's former owner gives its data. -/
def invalidated (x : Txn) (ci : Nat) (l : L1Line) : Txn :=
  { x with
    inv := x.inv.erase ci
    data := match x.req with
      | .write _ => if l.st = .s then x.data else some (l.data, l.poison)
      | _ => x.data }

/-- The device when core `ci` has dropped its copy of a line, before it goes back to its slice. -/
def copyDropped (d : Dev) (ci line : Nat) (x : Txn) (l : L1Line) : Dev :=
  (d.setCore ci { d.core ci with l1 := Tab.del (d.core ci).l1 line }).putTxn line (invalidated x ci l)

theorem invalidateAt_of_held {d : Dev} {ci line : Nat} {x : Txn} {l : L1Line} (hx : Tab.get? d.mem.txns line = some x)
    (hl : Tab.get? (d.core ci).l1 line = some l) (hin : x.inv.contains ci = true) :
    SliceSide (copyDropped d ci line x l) (d.invalidateAt ci line) := by
  unfold Dev.invalidateAt copyDropped invalidated
  simp only [hx, hin, Bool.not_true, Bool.false_eq_true, if_false, hl]
  cases x.req with
  | write w =>
    dsimp only
    split
    · exact .refl _
    · exact .refl _
  | read c => exact writeBack_sliceSide _ _ _ _
  | op c id => exact writeBack_sliceSide _ _ _ _

theorem invalidateAt_spec {d : Dev} {ci line : Nat} {x : Txn} {l : L1Line} (hx : Tab.get? d.mem.txns line = some x)
    (hl : Tab.get? (d.core ci).l1 line = some l) (hin : x.inv.contains ci = true) :
    ((d.invalidateAt ci line).core ci).l1 = Tab.del (d.core ci).l1 line ∧
    Tab.get? (d.invalidateAt ci line).mem.txns line = some (invalidated x ci l) := by
  have hside := invalidateAt_of_held hx hl hin
  constructor
  · rw [sliceSide_core hside]
    show ((d.setCore ci _).core ci).l1 = _
    rw [Dev.core_setCore_self]
  · rw [sliceSide_txns hside]
    exact Tab.get?_put_self _ _ _

/-! ### FORWARD_AT_CORE (04 R164) -/

theorem exec_forwardAtCore {s : State} {core line : Nat} (h : s.dev.grantInFlight core line = false) :
    exec (.forwardAtCore core line) s = .next (keeping s (s.dev.forwardAt core line)) := by
  show execForwardAtCore core line s = _
  unfold execForwardAtCore
  refine on_eq_keeping ?_
  rw [if_neg (by simp [h])]

theorem forwardAt_spec {d : Dev} {ci line : Nat} {x : Txn} {l : L1Line} (hx : Tab.get? d.mem.txns line = some x)
    (hl : Tab.get? (d.core ci).l1 line = some l) (hfwd : x.fwd = some ci) (hdir : (d.dirOf line).isSome = true) :
    Tab.get? ((d.forwardAt ci line).core ci).l1 line = some { l with st := .s } ∧
    Tab.get? (d.forwardAt ci line).mem.txns line = some { x with fwd := none } ∧
    (d.forwardAt ci line).dirOf line = some (.sp [ci]) := by
  have hback := writeBack_sliceSide
    ((d.setCore ci ((d.core ci).putL1 line { l with st := .s })).putTxn line { x with fwd := none }) ci line l
  have hroom : DirRoom (((d.setCore ci ((d.core ci).putL1 line { l with st := .s })).putTxn line
      { x with fwd := none }).writeBack ci line l) line := by
    refine .inl ?_
    rw [dirOf_congr (sliceSide_dir hback)]
    exact hdir
  obtain ⟨way, hset⟩ := setDir_of_room hroom (.sp [ci])
  have hcore := sliceSide_core hback ci
  have htxns := sliceSide_txns hback
  have heq : d.forwardAt ci line = (((d.setCore ci ((d.core ci).putL1 line { l with st := .s })).putTxn line
      { x with fwd := none }).writeBack ci line l).setDir line (.sp [ci]) := by
    unfold Dev.forwardAt
    simp only [hx, hfwd, hl, bne_self_eq_false, Bool.false_eq_true, if_false]
  rw [heq, hset]
  refine ⟨?_, ?_, dirOf_putDir _ _ _⟩
  · show Tab.get? ((((d.setCore ci _).putTxn line _).writeBack ci line l).core ci).l1 line = _
    rw [hcore]
    show Tab.get? ((d.setCore ci _).core ci).l1 line = _
    rw [Dev.core_setCore_self]
    exact Tab.get?_put_self _ _ _
  · show Tab.get? (((d.setCore ci _).putTxn line _).writeBack ci line l).mem.txns line = _
    rw [htxns]
    exact Tab.get?_put_self _ _ _

/-! ### PURSE_EVICT (04 Table 4-9) -/

theorem exec_purseEvict (s : State) (core line : Nat) :
    exec (.purseEvict core line) s = .next (keeping s (s.dev.evictArrives core line)) := rfl

/-- A modified line that the vault holds is written back there whole, any other leaves the vault as it is. -/
theorem writeBack_of_vault {d : Dev} {line : Nat} {v : VLine} (hv : Tab.get? d.mem.vault line = some v) (ci : Nat) (l : L1Line) :
    ∃ v', Tab.get? (d.writeBack ci line l).mem.vault line = some v' ∧
      v'.data = if l.st = .m then mergeLine fullMask v.data l.data else v.data := by
  unfold Dev.writeBack
  split
  · obtain ⟨v', hv', hdata, -⟩ := sliceWrite_of_vault hv (d.rqCore ci) l.attr fullMask l.data l.poison
    exact ⟨v', hv', hdata⟩
  · exact ⟨v, hv, rfl⟩

/-- The transaction of a line no longer awaits the write-back of core `ci`. -/
def wbTaken (d : Dev) (ci line : Nat) : Dev :=
  match Tab.get? d.mem.txns line with
  | some t => if t.wb = some ci then d.putTxn line { t with wb := none } else d
  | none => d

/-- What the arrival of a notice or write-back does to the directory and the transaction that awaits it. -/
def noticeTaken (d : Dev) (ci line : Nat) : Dev := wbTaken (if d.dirOf line == some (.x ci) then d.delDir line else d) ci line

theorem wbTaken_frame (d : Dev) (ci line : Nat) :
    wbTaken d ci line = { d with mem := { d.mem with txns := (wbTaken d ci line).mem.txns } } := by
  unfold wbTaken
  split
  · split
    · rfl
    · rfl
  · rfl

theorem noticeTaken_spec (d : Dev) (ci line : Nat) :
    (noticeTaken d ci line).cores = d.cores ∧ (noticeTaken d ci line).mem.vault = d.mem.vault ∧
    (d.dirOf line = some (.x ci) → (noticeTaken d ci line).dirOf line = none) := by
  unfold noticeTaken
  rw [wbTaken_frame]
  split
  · exact ⟨rfl, rfl, fun _ => dirOf_delDir d line⟩
  · next hne => exact ⟨rfl, rfl, fun h => absurd (by rw [h]; exact beq_self_eq_true _) hne⟩

theorem core_congr {d e : Dev} (h : e.cores = d.cores) (ci : Nat) : e.core ci = d.core ci := by
  unfold Dev.core
  rw [h]

theorem evictArrives_eq {d : Dev} {ci line : Nat} {l : L1Line} (hl : Tab.get? (d.core ci).leaving line = some l) :
    d.evictArrives ci line =
      noticeTaken ((d.setCore ci { d.core ci with leaving := Tab.del (d.core ci).leaving line }).writeBack ci line l) ci line := by
  unfold Dev.evictArrives noticeTaken wbTaken
  simp only [hl] <;> rfl

theorem evictArrives_spec {d : Dev} {ci line : Nat} {l : L1Line} {v : VLine} (hl : Tab.get? (d.core ci).leaving line = some l)
    (hv : Tab.get? d.mem.vault line = some v) :
    Tab.get? ((d.evictArrives ci line).core ci).leaving line = none ∧
    (d.dirOf line = some (.x ci) → (d.evictArrives ci line).dirOf line = none) ∧
    ∃ v', Tab.get? (d.evictArrives ci line).mem.vault line = some v' ∧
      v'.data = if l.st = .m then mergeLine fullMask v.data l.data else v.data := by
  have hback := writeBack_sliceSide (d.setCore ci { d.core ci with leaving := Tab.del (d.core ci).leaving line }) ci line l
  obtain ⟨hcores, hvault, hdir⟩ := noticeTaken_spec
    ((d.setCore ci { d.core ci with leaving := Tab.del (d.core ci).leaving line }).writeBack ci line l) ci line
  rw [evictArrives_eq hl]
  refine ⟨?_, fun hx => hdir ?_, ?_⟩
  · rw [core_congr hcores, sliceSide_core hback, Dev.core_setCore_self]
    exact Tab.get?_del_self _ _
  · rw [dirOf_congr (sliceSide_dir hback)]
    exact hx
  · rw [hvault]
    exact writeBack_of_vault (d := d.setCore ci { d.core ci with leaving := Tab.del (d.core ci).leaving line }) hv ci l

/-! ### DIR_ACK (04 R163) -/

theorem exec_dirAck_of_awaited {s : State} {line : Nat} {x : Txn} (hx : Tab.get? s.dev.mem.txns line = some x)
    (h : ¬ (x.inv = [] ∧ x.fwd = none ∧ x.wb = none)) : exec (.dirAck line) s = .next s := by
  show execDirAck line s = _
  unfold execDirAck
  refine on_eq_self ?_
  unfold Dev.dirAck
  simp only [hx]
  rw [if_neg]
  simpa [and_assoc] using h

theorem exec_dirAck (s : State) (line : Nat) : exec (.dirAck line) s = .next (keeping s (s.dev.dirAck line)) := rfl

/-- The transaction of a write miss has ended with nobody waiting behind it: the miss is granted. -/
theorem dirAck_write {d : Dev} {line ci : Nat} {x : Txn} {m : Miss} (hx : Tab.get? d.mem.txns line = some x) (hinv : x.inv = [])
    (hfwd : x.fwd = none) (hwb : x.wb = none) (hqueue : x.queue = []) (hreq : x.req = .write ci)
    (hm : Tab.get? (d.core ci).misses line = some m) (hroom : DirRoom d line) :
    (d.dirAck line).dirOf line = some (.x ci) ∧ Tab.get? (d.dirAck line).mem.txns line = none ∧
    Tab.get? ((d.dirAck line).core ci).misses line = some { m with granted := true } := by
  have heq : d.dirAck line = (({ d with mem := { d.mem with txns := Tab.del d.mem.txns line } } : Dev).setDir line
      (.x ci)).supply ci line .m x.data m.attr := by
    have hm' : Tab.get? (({ d with mem := { d.mem with txns := Tab.del d.mem.txns line } } : Dev).core ci).misses line = some m := hm
    unfold Dev.dirAck
    simp only [hx, hinv, hfwd, hwb, hqueue, hreq, List.isEmpty_nil, Option.isNone_none, Bool.and_self, if_true, Dev.serve, hm',
      Dev.dirNext]
  obtain ⟨hst, hmiss, htxns, -, -⟩ := grant_spec (d := { d with mem := { d.mem with txns := Tab.del d.mem.txns line } }) hroom hm
    (.x ci) .m x.data m.attr
  rw [heq]
  refine ⟨hst, ?_, hmiss⟩
  rw [htxns]
  exact Tab.get?_del_self _ _

/-! ### MEMORY_RESPONSE (04 R177, R179; 02 R587) -/

/-- The device when the response has left the list of those on their way. -/
def respTaken (d : Dev) (rest : List Resp) : Dev := { d with mem := { d.mem with resps := rest } }

theorem readW_respTaken (d : Dev) (rest : List Resp) (ci slot lane code : Nat) :
    (respTaken d rest).readW ci slot lane code = d.readW ci slot lane code := by
  unfold Dev.readW
  rfl

theorem keeping_of_kept {s : State} {d : Dev} (ht : d.time = s.dev.time) (hf : d.fuses = s.dev.fuses) :
    keeping s d = withDev s d := by
  unfold keeping withDev
  rw [← ht, ← hf]

theorem exec_memoryResponse_grant {s : State} {core line : Nat} {r : Resp} {rest : List Resp}
    (h : takeResp core line s.dev.mem.resps = some (r, rest)) (hop : r.op = none) :
    exec (.memoryResponse core line .clean) s = .next (keeping s ((respTaken s.dev rest).deliver r)) := by
  show execMemoryResponse core line .clean s = _
  unfold execMemoryResponse
  refine on_eq_keeping ?_
  simp only [h, Dev.vaultEcc, show (Ecc.clean == Ecc.uncorrectable) = false from rfl, Bool.false_and, Bool.false_eq_true, if_false,
    hop]
  rfl

theorem exec_memoryResponse_op {s : State} {core line id : Nat} {r : Resp} {rest : List Resp} {o : MemOp}
    (h : takeResp core line s.dev.mem.resps = some (r, rest)) (hop : r.op = some id)
    (ho : Tab.get? (s.dev.core core).ops id = some o) (hclean : o.consumes r.poison = none) :
    exec (.memoryResponse core line .clean) s = .next (keeping s ((respTaken s.dev rest).opDone core id o r.value)) := by
  have ho' : Tab.get? ((respTaken s.dev rest).core core).ops id = some o := ho
  show execMemoryResponse core line .clean s = _
  unfold execMemoryResponse
  refine on_eq_keeping ?_
  unfold respTaken at ho' ⊢
  simp only [h, Dev.vaultEcc, show (Ecc.clean == Ecc.uncorrectable) = false from rfl, Bool.false_and, Bool.false_eq_true, if_false,
    hop, ho', hclean]

theorem l1Evict_frame (c : Core) (v : Nat) : c.l1Evict v = { c with l1 := (c.l1Evict v).l1, leaving := (c.l1Evict v).leaving } := by
  unfold Core.l1Evict
  split
  · rfl
  · dsimp only
    split
    · rfl
    · rfl

/-- A line that the purse did not hold is installed as granted, and its miss ends. -/
theorem install_spec {c : Core} {line : Nat} (h : Tab.get? c.l1 line = none) (g : L1State) (data : Line) (poison : BitVec 16)
    (attr : Nat) :
    c.install line g data poison attr = { c with
      l1 := (c.install line g data poison attr).l1, l1rr := (c.install line g data poison attr).l1rr
      leaving := (c.install line g data poison attr).leaving, misses := Tab.del c.misses line } ∧
    ∃ l, Tab.get? (c.install line g data poison attr).l1 line = some l ∧ l.st = g ∧ l.data = data ∧ l.poison = poison := by
  unfold Core.install
  simp only [h]
  generalize ({ c with misses := Tab.del c.misses line } : Core).l1Victim line = x
  obtain ⟨w, out, move⟩ := x
  refine ⟨?_, ⟨_, Tab.get?_put_self _ _ _, rfl, rfl, rfl⟩⟩
  cases out with
  | none =>
    dsimp only
    split
    · rfl
    · rfl
  | some v =>
    have hframe := l1Evict_frame { c with misses := Tab.del c.misses line } v
    dsimp only
    generalize ({ c with misses := Tab.del c.misses line } : Core).l1Evict v = e at hframe ⊢
    rw [hframe]
    split
    · rfl
    · rfl

theorem drain_of_no_ops {d : Dev} {ci : Nat} (h : (d.core ci).ops = []) (n : Nat) : d.drain ci n = d := by
  cases n with
  | zero => rfl
  | succ n =>
    unfold Dev.drain
    simp only [h, List.find?_nil]

theorem askUpgrades_of_no_ops {d : Dev} {ci : Nat} (h : (d.core ci).ops = []) (line : Nat) : d.askUpgrades ci line = d := by
  unfold Dev.askUpgrades
  simp only [h, List.find?_nil]
  split
  · next hsome => cases hsome
  · rfl

/-- A line granted to a core without operations is in its purse, and every register reads as before. -/
theorem deliver_grant {d : Dev} {ci line : Nat} {r : Resp} {g : L1State} (hcore : r.core = ci) (hline : r.line = line)
    (hop : r.op = none) (hg : r.grant = some g) (hops : (d.core ci).ops = []) (hl1 : Tab.get? (d.core ci).l1 line = none) :
    (d.deliver r).mem = d.mem ∧ Tab.get? ((d.deliver r).core ci).misses line = none ∧ SameRegisters d (d.deliver r) ci ∧
    ∃ l, Tab.get? ((d.deliver r).core ci).l1 line = some l ∧ l.st = g ∧ l.data = r.data ∧ l.poison = r.poison := by
  subst hcore hline
  have hquiet : ∀ attr, ((d.setCore r.core ((d.core r.core).install r.line g r.data r.poison attr)).core r.core).ops = [] := by
    intro attr
    rw [Dev.core_setCore_self, (install_spec hl1 g r.data r.poison _).1]
    exact hops
  obtain ⟨attr, heq⟩ : ∃ attr, d.deliver r = d.setCore r.core ((d.core r.core).install r.line g r.data r.poison attr) := by
    unfold Dev.deliver
    simp only [hop, hg]
    split
    · next m _ => exact ⟨m.attr, by rw [drain_of_no_ops (hquiet _), askUpgrades_of_no_ops (hquiet _)]⟩
    · exact ⟨0, by rw [drain_of_no_ops (hquiet _), askUpgrades_of_no_ops (hquiet _)]⟩
  obtain ⟨hframe, l, hl, hst, hdata, hpoison⟩ := install_spec hl1 g r.data r.poison attr
  have hcore : (d.deliver r).core r.core = (d.core r.core).install r.line g r.data r.poison attr := by
    rw [heq, Dev.core_setCore_self]
  have hgroups : ((d.deliver r).core r.core).groups = (d.core r.core).groups := by rw [hcore, hframe]
  refine ⟨by rw [heq]; rfl, ?_, fun slot lane code => ?_, l, by rw [hcore]; exact hl, hst, hdata, hpoison⟩
  · rw [hcore, hframe]
    exact Tab.get?_del_self _ _
  · have hgroup : (d.deliver r).group r.core slot = d.group r.core slot := by
      unfold Dev.group
      rw [hgroups]
    exact readW_congr (by rw [heq]; rfl) (by rw [hgroup]; rfl) (fun _ => by rw [hgroup]) (fun _ _ => by rw [hgroup])
      (fun _ _ => by rw [hgroup])

/-! ### The answer of a load (02 R587) -/

/-- The strand of a one-lane load of one word hears its value: the word is written and the strand goes on. -/
theorem answer_load {d : Dev} {ci k id lane slot v : Nat} {st : Strand} {w : BitVec 64} (hst : d.strand? ci k = some st)
    (hwait : st.wait = .op w [id] []) (hopc : opcOf w = 0x50) (hlanes : st.lanes = [(lane, slot)]) (hdst : dstOf w < 0x80)
    (hsize : Machine.sizeOf w ≤ 2) :
    d.answer ci k id lane v = (d.writeW ci slot lane (dstOf w) (v % 2 ^ 32)).advance ci k := by
  have hword : resultWords w = 1 := by
    unfold resultWords
    simp only [hopc, if_pos hsize]
  have hwriters : writers [(lane, slot)] (dstOf w) = [(lane, slot)] := by
    unfold writers
    rw [if_neg (by simp; omega)]
  unfold Dev.answer
  simp only [hst, hwait, List.contains_cons, List.contains_nil, beq_self_eq_true, Bool.or_false, Bool.not_true, Bool.false_eq_true,
    if_false, List.erase_cons_head, List.isEmpty_nil, if_true, List.nil_append]
  unfold Dev.finishOp
  simp only [hopc, hword, hlanes]
  simp [Dev.writeLanes, hwriters, Dev.writeN, show dstOf w ≠ 0xFF by omega]

/-- An operation performed for the only strand of the core, a one-lane load, ends it. -/
theorem opDone_load {d : Dev} {ci k id v : Nat} {o : MemOp} {st : Strand} {w : BitVec 64}
    (hstrands : (d.core ci).strands = [(k, st)]) (hwait : st.wait = .op w [id] []) (hopc : opcOf w = 0x50)
    (hlanes : st.lanes = [(o.lane, o.group)]) (hgroup : Tab.has (d.core ci).groups o.group = true) (hdst : dstOf w < 0x80)
    (hsize : Machine.sizeOf w ≤ 2) :
    CoreSide d (d.opDone ci id o v) ∧ OneCore ci d (d.opDone ci id o v) ∧ Tab.get? ((d.opDone ci id o v).core ci).ops id = none ∧
    (d.opDone ci id o v).readW ci o.group o.lane (dstOf w) = v % 2 ^ 32 ∧
    (d.opDone ci id o v).strand? ci k = some { st with pc := (st.pc + 8) % 2 ^ 48, wait := .ready, backoff := 0 } := by
  have hcore : (d.dropOp ci id).core ci = { d.core ci with ops := Tab.del (d.core ci).ops id } := Dev.core_modCore_self _ _ _
  have hst : (d.dropOp ci id).strand? ci k = some st := by
    unfold Dev.strand?
    rw [hcore, hstrands]
    simp [Tab.get?]
  have hwst : ((d.dropOp ci id).writeW ci o.group o.lane (dstOf w) (v % 2 ^ 32)).strand? ci k = some st := by
    rw [writeW_strand?]
    exact hst
  have heq : d.opDone ci id o v = ((d.dropOp ci id).writeW ci o.group o.lane (dstOf w) (v % 2 ^ 32)).goto ci k (st.pc + 8) := by
    unfold Dev.opDone
    simp only [hcore, hstrands]
    have hadvance : ((d.dropOp ci id).writeW ci o.group o.lane (dstOf w) (v % 2 ^ 32)).advance ci k =
        ((d.dropOp ci id).writeW ci o.group o.lane (dstOf w) (v % 2 ^ 32)).goto ci k (st.pc + 8) := by
      unfold Dev.advance
      rw [hwst]
    simp only [List.filter_cons, List.filter_nil, Wait.onOps, hwait, hopc, show [0x48, 0x49, 0x50, 0x52].contains 0x50 = true from rfl,
      if_true, List.map_cons, List.map_nil, List.foldl_cons, List.foldl_nil]
    rw [answer_load hst hwait hopc hlanes hdst hsize, hadvance]
  have hwrite := writeW_issueOnly (d.dropOp ci id) ci o.group o.lane (dstOf w) (v % 2 ^ 32)
  obtain ⟨hgo, hself, -, hreads⟩ := goto_spec hwst (st.pc + 8)
  have hdrop : OneCore ci d (d.dropOp ci id) := fun j hj => Dev.core_modCore_of_ne d _ hj
  have hall := hwrite.trans hgo
  refine ⟨opDone_coreSide _ _ _ _ _, ?_, ?_, ?_, ?_⟩
  · rw [heq]
    exact fun j hj => (hall.2.1 j hj).trans (hdrop j hj)
  · rw [heq, issueOnly_ops hall, hcore]
    exact Tab.get?_del_self _ _
  · rw [heq, hreads, readW_writeW_hit (d.dropOp ci id) _ (by rw [hcore]; exact hgroup) (by omega) (.inl rfl),
      if_pos (by omega), Nat.mod_mod]
  · rw [heq]
    exact hself

/-! ### The obligation -/

/-- Settles O16: an answer takes one step of the line's protocol, which the lemmas above give case by case. -/
theorem pursesAnswerAndAreAnswered : Obligations.PursesAnswerAndAreAnswered := by
  unfold Obligations.PursesAnswerAndAreAnswered
  refine ⟨⟨fun s core line x l hgrant hx hl => ⟨fun hin => ?_, fun hfwd hdir => ?_⟩, fun s core line l v hl hv => ?_,
    fun s line x hx => ⟨exec_dirAck_of_awaited hx, fun hinv hf hwb hqueue core m hreq hm hroom => ?_⟩⟩,
    fun s core line r rest htake hcore hline => ⟨fun g hop hg hops hl1 => ?_,
      fun id o k st w hop hops hclean hstrands hwait hopc hlanes hgroup hdst hsize => ?_⟩⟩
  · obtain ⟨hl1, htxn⟩ := invalidateAt_spec hx hl hin
    refine ⟨_, invalidated x core l, exec_invalidationAtCore hgrant, rfl, ?_, htxn, rfl, fun w hw => ?_, fun j hj => ?_⟩
    · exact (congrArg (Tab.get? · line) hl1).trans (Tab.get?_del_self _ _)
    · unfold invalidated
      rw [hw]
    · exact (congrArg (Tab.get? · j) hl1).trans (Tab.get?_del_of_ne _ hj)
  · exact ⟨_, exec_forwardAtCore hgrant, rfl, forwardAt_spec hx hl hfwd hdir⟩
  · exact ⟨_, exec_purseEvict s core line, rfl, evictArrives_spec hl hv⟩
  · exact ⟨_, exec_dirAck s line, rfl, dirAck_write hx hinv hf hwb hqueue hreq hm hroom⟩
  · obtain ⟨hmem, hmiss, hregs, l, hl, hst, hdata, hpoison⟩ :=
      deliver_grant (d := respTaken s.dev rest) hcore hline hop hg hops hl1
    have hside := deliver_memorySide (respTaken s.dev rest) r
    refine ⟨_, l, (exec_memoryResponse_grant htake hop).trans (congrArg _ (keeping_of_kept hside.time hside.fuses)), rfl,
      congrArg (·.resps) hmem, hl, hst, hdata, hpoison, hmiss, fun slot lane code => ?_⟩
    exact (hregs slot lane code).trans (readW_respTaken s.dev rest core slot lane code)
  · have ho : Tab.get? (s.dev.core core).ops id = some o := by
      rw [hops]
      simp [Tab.get?]
    obtain ⟨hside, hone, hend, hread, hstrand⟩ :=
      opDone_load (d := respTaken s.dev rest) (v := r.value) hstrands hwait hopc hlanes hgroup hdst hsize
    exact ⟨_, (exec_memoryResponse_op htake hop ho hclean).trans
      (congrArg _ (keeping_of_kept hside.memorySide.time hside.memorySide.fuses)), rfl, congrArg (·.resps) (CoreSide.mem hside), hend,
      hread, hstrand, hside, hone⟩

end Sys2Proof.Proofs

/-! ## Mailbox messages: their checks and their answers (14 R462, R464, R466) -/

namespace Sys2Proof.Proofs
open Sys2Proof.Machine Sys2Proof.Safety

/-! ### Tables -/

theorem get?_map_key {α : Type} (f : Nat → α) {l : List Nat} {i : Nat} (h : i ∈ l) :
    Tab.get? (l.map (fun k => (k, f k))) i = some (f i) := by
  induction l with
  | nil => cases h
  | cons k l ih =>
    simp only [List.map_cons, Tab.get?]
    split
    · next hk => rw [hk]
    · next hk =>
      rcases List.mem_cons.mp h with rfl | hmem
      · exact absurd rfl hk
      · exact ih hmem

theorem get?_mapv {α β : Type} (t : Tab α) (f : α → β) (k : Nat) : Tab.get? (Tab.mapv t f) k = (Tab.get? t k).map f := by
  induction t with
  | nil => rfl
  | cons e r ih =>
    obtain ⟨j, a⟩ := e
    simp only [Tab.mapv, List.map_cons, Tab.get?] at ih ⊢
    split
    · rfl
    · exact ih

theorem get?_keep_key {α : Type} (t : Tab α) (q : Nat → Bool) (k : Nat) :
    Tab.get? (Tab.keep t (fun j _ => q j)) k = if q k then Tab.get? t k else none := by
  induction t with
  | nil => simp [Tab.keep, Tab.get?]
  | cons e r ih =>
    obtain ⟨j, a⟩ := e
    simp only [Tab.keep, List.filter_cons] at ih ⊢
    by_cases hj : j = k
    · subst hj
      by_cases hq : q j = true
      · simp [Tab.get?, hq]
      · simp only [hq, Bool.false_eq_true, if_false] at ih ⊢
        exact ih
    · by_cases hq : q j = true
      · simp only [hq, if_true, Tab.get?, if_neg hj]
        exact ih
      · simp only [hq, Bool.false_eq_true, if_false, Tab.get?, if_neg hj] at ih ⊢
        exact ih

theorem mem_of_get? {α : Type} {t : Tab α} {k : Nat} {a : α} (h : Tab.get? t k = some a) : (k, a) ∈ t := by
  induction t with
  | nil => cases h
  | cons e r ih =>
    obtain ⟨j, b⟩ := e
    simp only [Tab.get?] at h
    split at h
    · next hj =>
      cases h
      rw [hj]
      exact List.mem_cons_self
    · exact List.mem_cons_of_mem _ (ih h)

/-! ### The answer of a request (14 R462) -/

theorem findReq_spec {d : Dev} {f msg k : Nat} {a : Bool} {r : MbxReq} (h : d.findReq f msg a = some (k, r)) :
    d.mgmt.reqs[k]? = some r ∧ r.fn = f ∧ r.msg = msg ∧ r.accepted = a := by
  unfold Dev.findReq at h
  split at h
  · next j hj =>
    obtain ⟨q, hq, hjq⟩ := Option.map_eq_some_iff.mp h
    obtain ⟨rfl, rfl⟩ := Prod.mk.inj hjq
    obtain ⟨hlt, hp, -⟩ := List.findIdx?_eq_some_iff_getElem.mp hj
    rw [List.getElem?_eq_getElem hlt, Option.some.injEq] at hq
    rw [hq] at hp
    simp only [Bool.and_eq_true, beq_iff_eq] at hp
    obtain ⟨⟨hfn, hmsg⟩, hacc⟩ := hp
    exact ⟨by rw [List.getElem?_eq_getElem hlt, hq], hfn, hmsg, hacc⟩
  · cases h

theorem mailSide_of_vecSide {f : Nat} {d e : Dev} (h : VecSide f d e) : MailSide d e f := by
  obtain ⟨⟨he, -⟩, ho, hf⟩ := h
  refine ⟨?_, ho, ?_⟩
  · rw [he]
  · rw [hf]

theorem mailSide_trans {f : Nat} {d e g : Dev} (h : MailSide d e f) (k : MailSide e g f) : MailSide d g f := by
  obtain ⟨he, heo, hef⟩ := h
  obtain ⟨hg, hgo, hgf⟩ := k
  refine ⟨?_, fun j hj => (hgo j hj).trans (heo j hj), ?_⟩
  · rw [hg, he]
  · rw [hgf, hef]

theorem mailSide_kept {f : Nat} {d e : Dev} (h : MailSide d e f) : e.time = d.time ∧ e.fuses = d.fuses := by
  obtain ⟨he, -⟩ := h
  rw [he]
  exact ⟨rfl, rfl⟩

/-- The mailbox with a response: its 32 words, the request's SEQ, DONE, and BUSY clear (14 R462). -/
def responded (m : Mbx) (r : MbxReq) (status detail : Nat) (payload : List Byte) : Mbx :=
  { m with
    rsp := (List.range 32).map (fun i => (i, leNat (((responseTo r status detail payload).drop (8 * i)).take 8)))
    lastSeq := r.u 4 2, busy := false, done := true }

/-- The device when request `k` has left the list of those that wait. -/
def reqTaken (d : Dev) (k : Nat) : Dev := { d with mgmt := { d.mgmt with reqs := d.mgmt.reqs.eraseIdx k } }

theorem reqTaken_mailSide (d : Dev) (k f : Nat) : MailSide d (reqTaken d k) f := ⟨rfl, fun _ _ => rfl, rfl⟩

theorem respond_mailSide (d : Dev) (r : MbxReq) (status detail : Nat) (payload : List Byte) :
    MailSide d (d.modMbx r.fn (responded · r status detail payload)) r.fn := by
  refine ⟨rfl, fun g hg => func_modFunc_of_ne _ _ hg, ?_⟩
  unfold Dev.modMbx
  rw [func_modFunc_self]

/-- The answer of a live request stands in its function's mailbox, and at most an interrupt follows. -/
theorem reply_live {d : Dev} {k : Nat} {r : MbxReq} (h : d.mgmt.reqs[k]? = some r) (hlive : r.live = true) (status detail : Nat)
    (payload : List Byte) :
    VecSide r.fn ((reqTaken d k).modMbx r.fn (responded · r status detail payload)) (d.reply k status detail payload) := by
  unfold Dev.reply
  simp only [h, hlive, Bool.not_true, Bool.false_eq_true, if_false]
  split
  · exact raiseVec_vecSide _ _ _
  · exact VecSide.refl _ _

/-- A request that waits is answered, and nothing else happens. -/
theorem reply_answersWith {d : Dev} {k : Nat} {r : MbxReq} (h : d.mgmt.reqs[k]? = some r) (status detail : Nat)
    (payload : List Byte) : AnswersWith d (d.reply k status detail payload) k r status detail payload := by
  cases hlive : r.live with
  | false =>
    have heq : d.reply k status detail payload = reqTaken d k := by
      unfold Dev.reply
      simp only [h, hlive, Bool.not_false, if_true]
      rfl
    rw [heq]
    exact ⟨⟨rfl, fun hl => absurd (hlive.symm.trans hl) Bool.false_ne_true⟩, reqTaken_mailSide _ _ _⟩
  | true =>
    have hlast := reply_live h hlive status detail payload
    have hmbx : ((d.reply k status detail payload).func r.fn).mbx = responded (d.func r.fn).mbx r status detail payload := by
      obtain ⟨-, -, hf⟩ := hlast
      rw [hf]
      unfold Dev.modMbx
      rw [func_modFunc_self]
      rfl
    refine ⟨⟨reply_reqs _ _ _ _ _, fun _ => ?_⟩, mailSide_trans (mailSide_trans
      (reqTaken_mailSide d k r.fn) (respond_mailSide _ _ _ _ _)) (mailSide_of_vecSide hlast)⟩
    dsimp only
    rw [hmbx]
    refine ⟨rfl, rfl, rfl, fun i hi => ?_⟩
    unfold responded Tab.get
    dsimp only
    rw [get?_map_key (fun i => leNat (((responseTo r status detail payload).drop (8 * i)).take 8)) (List.mem_range.mpr hi)]
    rfl

/-- An instruction that answers a request and else makes `e` of the device. -/
theorem exec_answersWith {s : State} {c : Instr} {e d : Dev} {k status detail : Nat} {r : MbxReq} {payload : List Byte}
    (hexec : exec c s = .next (keeping s d)) (h : AnswersWith e d k r status detail payload) (ht : e.time = s.dev.time)
    (hf : e.fuses = s.dev.fuses) : exec c s = .next (withDev s d) := by
  obtain ⟨htime, hfuses⟩ := mailSide_kept h.2
  rw [hexec, keeping_of_kept (htime.trans ht) (hfuses.trans hf)]

/-! ### The checks of a message (14 R466) -/

theorem formed_req {d : Dev} {f msg k len : Nat} {named : List (Nat × Nat)} {r : MbxReq} (h : Formed d f msg k len named r) :
    d.mgmt.reqs[k]? = some r ∧ r.fn = f := by
  obtain ⟨⟨hfind, -⟩, -⟩ := h
  obtain ⟨hk, hfn, -⟩ := findReq_spec hfind
  exact ⟨hk, hfn⟩

theorem formed_notAccepted {d : Dev} {f msg k len : Nat} {named : List (Nat × Nat)} {r : MbxReq}
    (h : Formed d f msg k len named r) : d.findReq f msg true = none := by
  obtain ⟨⟨-, hnone, -⟩, -⟩ := h
  exact hnone

/-- A message of the right form from the physical function has three ends: a wrong field, a conflict, its effect. -/
theorem onMsg_formed {d : Dev} {msg k n : Nat} {named : List (Nat × Nat)} {r : MbxReq} (h : Formed d 0 msg k n named r)
    (fields conflict : MbxReq → Bool) (eff : Dev → Nat → MbxReq → Dev) :
    d.onMsg 0 msg d.isReady true (fun _ => n) named fields conflict eff =
      if fields r = false then d.reply k 3 0 [] else if conflict r = true then d.reply k 5 0 [] else eff d k r := by
  obtain ⟨⟨hfind, -, hserved, hblocked⟩, hready, hlen, hres⟩ := h
  unfold Dev.onMsg
  simp only [hfind, hserved, hblocked, hready, hlen, hres, Bool.not_true, Bool.or_self, Bool.false_eq_true, if_false,
    bne_self_eq_false, Bool.and_false, Bool.false_or, Bool.not_eq_true']

theorem onMsg_takesEffect {d : Dev} {msg k n : Nat} {named : List (Nat × Nat)} {r : MbxReq} (h : Formed d 0 msg k n named r)
    {fields conflict : MbxReq → Bool} (eff : Dev → Nat → MbxReq → Dev) (hfields : fields r = true) (hconflict : conflict r = false) :
    d.onMsg 0 msg d.isReady true (fun _ => n) named fields conflict eff = eff d k r := by
  rw [onMsg_formed h, if_neg (by simp [hfields]), if_neg (by simp [hconflict])]

theorem onMsg_conflicts {d : Dev} {msg k n : Nat} {named : List (Nat × Nat)} {r : MbxReq} (h : Formed d 0 msg k n named r)
    {fields conflict : MbxReq → Bool} (eff : Dev → Nat → MbxReq → Dev) (hfields : fields r = true) (hconflict : conflict r = true) :
    d.onMsg 0 msg d.isReady true (fun _ => n) named fields conflict eff = d.reply k 5 0 [] := by
  rw [onMsg_formed h, if_neg (by simp [hfields]), if_pos hconflict]

theorem onMsg_wrongField {d : Dev} {msg k n : Nat} {named : List (Nat × Nat)} {r : MbxReq} (h : Formed d 0 msg k n named r)
    {fields : MbxReq → Bool} (conflict : MbxReq → Bool) (eff : Dev → Nat → MbxReq → Dev) (hfields : fields r = false) :
    d.onMsg 0 msg d.isReady true (fun _ => n) named fields conflict eff = d.reply k 3 0 [] := by
  rw [onMsg_formed h, if_pos hfields]

theorem partOrNone_iff (x : Nat) : partOrNone x = true ↔ x < 16 ∨ x = 0xFF := by
  unfold partOrNone
  simp

end Sys2Proof.Proofs

/-! ## Vault, tally, context, tag, port and power messages (14 R477-R480) -/

namespace Sys2Proof.Proofs
open Sys2Proof.Machine Sys2Proof.Safety

/-! ### VAULT_ALLOC and VAULT_PIN (04 R157, 14 R477) -/

theorem exec_vaultAlloc {s : State} {k : Nat} {r : MbxReq} (h : Formed s.dev 0 0x0103 k 5 [(0, 1), (2, 3)] r) (hp : r.p 0 1 ≤ 36)
    (hn : r.p 4 1 < 2) :
    exec (.vaultAlloc 0) s = .next (keeping s (({ s.dev with mem := { s.dev.mem with
      alloc := Tab.put s.dev.mem.alloc (r.p 0 1) (BitVec.ofNat 17 (r.p 2 2 + 2 ^ 16 * r.p 4 1)) } } : Dev).reply k 0 0 [])) := by
  show execVaultAlloc 0 s = _
  unfold execVaultAlloc
  exact on_eq_keeping (onMsg_takesEffect h _ (by simp [hp, hn]) rfl)

theorem exec_vaultPin {s : State} {k : Nat} {r : MbxReq} (h : Formed s.dev 0 0x0104 k 2 [(0, 2)] r) :
    exec (.vaultPin 0) s =
      .next (keeping s (({ s.dev with mem := { s.dev.mem with pinned := BitVec.ofNat 16 (r.p 0 2) } } : Dev).reply k 0 0 [])) := by
  show execVaultPin 0 s = _
  unfold execVaultPin
  exact on_eq_keeping (onMsg_takesEffect h _ rfl rfl)

/-! ### TALLY_OWN (06 R227, 14 R477) -/

/-- The tallies of `T`, and no others, are cleared and take an owner; whoever waited for them is woken with 0 (06 R227). -/
structure TalliesGiven (T : Nat → Prop) (owner : Option Nat) (d e : Dev) : Prop where
  frame : e = { d with tly := e.tly }
  given : ∀ n, T n → e.tally n = { Tally.none with owner := owner, moved := (d.tally n).moved }
  kept : ∀ n, ¬ T n → e.tally n = d.tally n
  waits : ∀ w, w ∈ e.tly.waiters ↔ w ∈ d.tly.waiters ∧ ¬ T w.tally
  woken : ∀ w ∈ d.tly.waiters, T w.tally → ⟨w.who, false⟩ ∈ e.tly.wakes
  wakes : ∀ w ∈ d.tly.wakes, w ∈ e.tly.wakes
  ops : e.tly.ops = d.tly.ops

theorem TalliesGiven.refl (owner : Option Nat) (d : Dev) : TalliesGiven (fun _ => False) owner d d :=
  ⟨rfl, fun _ h => h.elim, fun _ _ => rfl, fun w => by simp, fun _ _ h => h.elim, fun _ h => h, rfl⟩

theorem TalliesGiven.moved {T : Nat → Prop} {owner : Option Nat} {d e : Dev} (h : TalliesGiven T owner d e) (n : Nat) :
    (e.tally n).moved = (d.tally n).moved := by
  by_cases hn : T n
  · rw [h.given n hn]
  · rw [h.kept n hn]

theorem TalliesGiven.trans {T U : Nat → Prop} {owner : Option Nat} {d e g : Dev} (h : TalliesGiven T owner d e)
    (k : TalliesGiven U owner e g) : TalliesGiven (fun n => T n ∨ U n) owner d g where
  frame := by rw [k.frame, h.frame]
  given n hn := by
    by_cases hu : U n
    · rw [k.given n hu, h.moved n]
    · rw [k.kept n hu, h.given n (hn.resolve_right hu)]
  kept n hn := by
    rw [not_or] at hn
    rw [k.kept n hn.2, h.kept n hn.1]
  waits w := by rw [k.waits, h.waits, not_or, and_assoc]
  woken w hw hn := by
    by_cases ht : T w.tally
    · exact k.wakes _ (h.woken w hw ht)
    · exact k.woken w ((h.waits w).mpr ⟨hw, ht⟩) (hn.resolve_left ht)
  wakes w hw := k.wakes w (h.wakes w hw)
  ops := k.ops.trans h.ops

theorem TalliesGiven.congr {T U : Nat → Prop} {owner : Option Nat} {d e : Dev} (h : TalliesGiven T owner d e)
    (heq : ∀ n, U n ↔ T n) : TalliesGiven U owner d e := by
  rw [show U = T from funext fun n => propext (heq n)]
  exact h

theorem tallyClear_given (d : Dev) (n : Nat) (owner : Option Nat) : TalliesGiven (· = n) owner d (d.tallyClear n owner) where
  frame := rfl
  given m hm := by
    rw [hm]
    exact Tab.get_put_self _ _ _ _
  kept m hm := Tab.get_put_of_ne _ _ _ hm
  waits w := by simp [Dev.tallyClear, Dev.wakeWaiters, Dev.setTally]
  woken w hw hn := by
    refine List.mem_append_right _ (List.mem_map.mpr ⟨w, List.mem_filter.mpr ⟨hw, ?_⟩, rfl⟩)
    simp [hn]
  wakes w hw := List.mem_append_left _ hw
  ops := rfl

theorem foldl_tallyClear_given (owner : Option Nat) (l : List Nat) (d : Dev) :
    TalliesGiven (· ∈ l) owner d (l.foldl (fun (d : Dev) n => d.tallyClear n owner) d) := by
  induction l generalizing d with
  | nil => exact (TalliesGiven.refl owner d).congr (by simp)
  | cons n l ih => exact ((tallyClear_given d n owner).trans (ih _)).congr (by simp)

/-- The tally takes `owner`, unless it has it already. -/
def tallyTakes (owner : Option Nat) (d : Dev) (n : Nat) : Dev := if (d.tally n).owner == owner then d else d.tallyClear n owner

theorem tallyTakes_given (owner : Option Nat) (d : Dev) (n : Nat) :
    TalliesGiven (fun m => m = n ∧ (d.tally m).owner ≠ owner) owner d (tallyTakes owner d n) := by
  unfold tallyTakes
  split
  · next h => exact (TalliesGiven.refl owner d).congr fun m => ⟨fun ⟨hm, hne⟩ => hne (by rw [hm]; exact eq_of_beq h), False.elim⟩
  · next h =>
    exact (tallyClear_given d n owner).congr fun m => ⟨fun ⟨hm, _⟩ => hm, fun hm => ⟨hm, by rw [hm]; simpa using h⟩⟩

theorem range_tallyTakes_given (owner : Option Nat) (d : Dev) (a m : Nat) :
    TalliesGiven (fun n => a ≤ n ∧ n < a + m ∧ (d.tally n).owner ≠ owner) owner d
      ((List.range m).foldl (fun (d : Dev) i => tallyTakes owner d (a + i)) d) := by
  induction m with
  | zero => exact (TalliesGiven.refl owner d).congr fun n => ⟨fun ⟨_, _, _⟩ => by omega, False.elim⟩
  | succ m ih =>
    rw [List.range_succ, List.foldl_append, List.foldl_cons, List.foldl_nil]
    have hlast := tallyTakes_given owner ((List.range m).foldl (fun (d : Dev) i => tallyTakes owner d (a + i)) d) (a + m)
    refine (ih.trans hlast).congr fun n => ?_
    by_cases hn : n = a + m
    · rw [hn, ih.kept (a + m) (by omega)]
      simp
    · constructor
      · rintro ⟨hlo, hhi, hne⟩
        exact .inl ⟨hlo, by omega, hne⟩
      · rintro (⟨hlo, hhi, hne⟩ | ⟨heq, -⟩)
        · exact ⟨hlo, by omega, hne⟩
        · exact absurd heq hn

/-- The tallies that the range gives to its new owner. -/
def rangeGiven (d : Dev) (r : MbxReq) : Dev :=
  (List.range (r.p 2 2)).foldl (fun (d : Dev) i => tallyTakes (namedPart (r.p 4 1)) d (r.p 0 2 + i)) d

theorem exec_tallyOwn {s : State} {k : Nat} {r : MbxReq} (h : Formed s.dev 0 0x0105 k 5 [(0, 5)] r) (hn : 1 ≤ r.p 2 2)
    (hlast : r.p 0 2 + r.p 2 2 ≤ 16384) (hpart : r.p 4 1 < 16 ∨ r.p 4 1 = 0xFF) :
    exec (.tallyOwn 0) s = .next (keeping s
      (if s.dev.partNamed (r.p 4 1) = true then (rangeGiven s.dev r).reply k 0 0 [] else s.dev.reply k 5 0 [])) := by
  show execTallyOwn 0 s = _
  unfold execTallyOwn
  refine on_eq_keeping ?_
  have hfields : (decide (1 ≤ r.p 2 2) && decide (r.p 0 2 + r.p 2 2 ≤ 16384) && partOrNone (r.p 4 1)) = true := by
    simp [hn, hlast, (partOrNone_iff _).mpr hpart]
  split
  · next hnamed => exact onMsg_takesEffect h _ hfields (by simp [hnamed])
  · next hnamed => exact onMsg_conflicts h _ hfields (by simpa using hnamed)

theorem tallyOwn_spec {s : State} {k : Nat} {r : MbxReq} (h : Formed s.dev 0 0x0105 k 5 [(0, 5)] r) (hn : 1 ≤ r.p 2 2)
    (hlast : r.p 0 2 + r.p 2 2 ≤ 16384) (hpart : r.p 4 1 < 16 ∨ r.p 4 1 = 0xFF) :
    ∃ e, exec (.tallyOwn 0) s = .next (withDev s e) ∧
      (s.dev.partNamed (r.p 4 1) = false → AnswersWith s.dev e k r 5 0 []) ∧
      (s.dev.partNamed (r.p 4 1) = true → ∃ g, AnswersWith g e k r 0 0 [] ∧ TalliesGiven (fun n => r.p 0 2 ≤ n ∧
        n < r.p 0 2 + r.p 2 2 ∧ (s.dev.tally n).owner ≠ namedPart (r.p 4 1)) (namedPart (r.p 4 1)) s.dev g) := by
  have hexec := exec_tallyOwn h hn hlast hpart
  cases hnamed : s.dev.partNamed (r.p 4 1) with
  | false =>
    rw [hnamed, if_neg Bool.false_ne_true] at hexec
    have hans := reply_answersWith (formed_req h).1 5 0 []
    exact ⟨_, exec_answersWith hexec hans rfl rfl, fun _ => hans, fun hf => absurd hf Bool.false_ne_true⟩
  | true =>
    rw [hnamed, if_pos rfl] at hexec
    have hgiven : TalliesGiven _ _ s.dev (rangeGiven s.dev r) := range_tallyTakes_given _ _ _ _
    have hreq : (rangeGiven s.dev r).mgmt.reqs[k]? = some r := by
      rw [hgiven.frame]
      exact (formed_req h).1
    have hans := reply_answersWith hreq 0 0 []
    exact ⟨_, exec_answersWith hexec hans (by rw [hgiven.frame]) (by rw [hgiven.frame]), fun hf => absurd hf.symm Bool.false_ne_true,
      fun _ => ⟨_, hans, hgiven⟩⟩

/-! ### CTX_SET (05 R185, R194; 14 R479) -/

/-- The device with the context's cached translations dropped and its descriptor written. -/
def ctxWritten (d : Dev) (r : MbxReq) : Dev :=
  { d with mmu := { d.mmu with
    ctxs := Tab.put d.mmu.ctxs (r.p 0 1) r.ctxDesc, tlb := d.mmu.tlb.filter (fun e => !(e.ctx == r.p 0 1)) } }

theorem ctxWrite_eq (d : Dev) (k : Nat) (r : MbxReq) : d.ctxWrite k r = (ctxWritten d r).reply k 0 0 [] := rfl

/-- What CTX_SET does once its request has passed the checks, or has waited. -/
theorem exec_ctxSet_formed {s : State} {k : Nat} {r : MbxReq} (h : Formed s.dev 0 0x0200 k 16 [(0, 4), (8, 8)] r) (hv : r.p 1 1 < 2)
    (hp : r.p 2 1 < 16) (hf : r.p 3 1 < 16) (hroot : r.p 8 8 < 2 ^ 48) (halign : r.p 8 8 % 4096 = 0) :
    exec (.ctxSet 0) s = .next (keeping s
      (if (s.dev.part (r.p 2 1)).cfg.valid = false ∨ (s.dev.part (r.p 2 1)).cfg.func ≠ r.p 3 1 ∨
          s.dev.inWindow (r.p 2 1) (r.p 8 8) false = false then s.dev.reply k 5 0 []
       else if s.dev.ctxWaits r = true then s.dev.acceptReq k 0 else (ctxWritten s.dev r).reply k 0 0 [])) := by
  show execCtxSet 0 s = _
  unfold execCtxSet
  refine on_eq_keeping ?_
  have hfields : (decide (r.p 1 1 < 2) && decide (r.p 2 1 < 16) && decide (r.p 3 1 < 16) && decide (r.p 8 8 < 2 ^ 48) &&
      r.p 8 8 % 4096 == 0) = true := by
    simp only [hv, hp, hf, hroot, halign, decide_true, Bool.and_self, beq_self_eq_true]
  simp only [formed_notAccepted h]
  split
  · next hc =>
    refine onMsg_conflicts h _ hfields ?_
    simpa [or_assoc] using hc
  · next hc =>
    refine (onMsg_takesEffect h _ hfields ?_).trans ?_
    · simpa [and_assoc] using hc
    · rfl

theorem exec_ctxSet_accepted {s : State} {k : Nat} {r : MbxReq} (h : s.dev.findReq 0 0x0200 true = some (k, r)) :
    exec (.ctxSet 0) s =
      .next (keeping s (if s.dev.ctxWaits r = true then s.dev else (ctxWritten s.dev r).reply k 0 0 [])) := by
  show execCtxSet 0 s = _
  unfold execCtxSet
  refine on_eq_keeping ?_
  simp only [h]
  rfl

theorem exec_ctxSetTimeout {s : State} {k : Nat} {r : MbxReq} (h : s.dev.findReq 0 0x0200 true = some (k, r))
    (hwaits : s.dev.ctxWaits r = true) (hlate : r.late = true) :
    exec (.ctxSetTimeout 0) s = .next (keeping s (s.dev.reply k 6 0 [])) := by
  show execCtxSetTimeout 0 s = _
  unfold execCtxSetTimeout
  refine on_eq_keeping ?_
  simp only [h, hwaits, hlate, Bool.and_self, if_true]

theorem late_of {r : MbxReq} (hacc : r.accepted = true) (hphase : r.phase = 0) (hwaited : 500000 ≤ r.waited) : r.late = true := by
  unfold MbxReq.late
  simp [hacc, hphase, hwaited]

/-! ### TAG_RANGE (07 R248, 14 R480) -/

/-- Entry `x` lies in the range of `n` tags from `b`. -/
def inTags (x b n : Nat) : Bool := decide (b ≤ x) && decide (x < b + n)

/-- The device with a function's tag range set, and the tags of its old and its new range cleared. -/
def tagsSet (d : Dev) (r : MbxReq) : Dev :=
  ({ d with tags := Tab.keep d.tags (fun x _ => !(inTags x (d.func (r.p 0 1)).tagBase (d.func (r.p 0 1)).tagCount ||
    inTags x (r.p 2 2) (r.p 4 2))) } : Dev).modFunc (r.p 0 1) (fun u => { u with tagBase := r.p 2 2, tagCount := r.p 4 2 })

/-- The range reaches past the last tag, or meets the range of another function. -/
def tagConflict (d : Dev) (r : MbxReq) : Prop :=
  40960 < r.p 2 2 + r.p 4 2 ∨ ∃ g, g < 16 ∧ g ≠ r.p 0 1 ∧ r.p 2 2 < (d.func g).tagBase + (d.func g).tagCount ∧
    (d.func g).tagBase < r.p 2 2 + r.p 4 2

theorem tagConflict_iff (d : Dev) (r : MbxReq) :
    (decide (r.p 2 2 + r.p 4 2 > 40960) || (List.range 16).any (fun g => g != r.p 0 1 &&
      decide (r.p 2 2 < (d.func g).tagBase + (d.func g).tagCount) && decide ((d.func g).tagBase < r.p 2 2 + r.p 4 2))) = true ↔
      tagConflict d r := by
  unfold tagConflict
  simp [and_assoc]

theorem exec_tagRange_conflict {s : State} {k : Nat} {r : MbxReq} (h : Formed s.dev 0 0x0201 k 6 [(0, 1), (2, 4)] r)
    (hf : r.p 0 1 < 16) (hc : tagConflict s.dev r) : exec (.tagRange 0) s = .next (keeping s (s.dev.reply k 5 0 [])) := by
  show execTagRange 0 s = _
  unfold execTagRange
  exact on_eq_keeping (onMsg_conflicts h _ (by simp [hf]) ((tagConflict_iff s.dev r).mpr hc))

theorem exec_tagRange {s : State} {k : Nat} {r : MbxReq} (h : Formed s.dev 0 0x0201 k 6 [(0, 1), (2, 4)] r)
    (hf : r.p 0 1 < 16) (hc : ¬ tagConflict s.dev r) :
    exec (.tagRange 0) s = .next (keeping s ((tagsSet s.dev r).reply k 0 0 [])) := by
  show execTagRange 0 s = _
  unfold execTagRange
  exact on_eq_keeping (onMsg_takesEffect h _ (by simp [hf]) (Bool.eq_false_iff.mpr fun ht => hc ((tagConflict_iff s.dev r).mp ht)))

/-! ### INGEST_PORT (13 R431) -/

theorem portIdle_of_no_streams {d : Dev} {n : Nat} (h : (d.port n).streams = []) : d.portIdle n = d := by
  have hidle : ∀ k, d.stream n k = IngStream.idle := fun k => by
    unfold Dev.stream
    rw [h]
    rfl
  simp [Dev.portIdle, hidle, IngStream.idle]

/-- The device with a camera port set up and bound, down until its receiver locks. -/
def portSet (d : Dev) (r : MbxReq) : Dev :=
  { d with ports := Tab.put d.ports (r.p 0 1) { d.port (r.p 0 1) with
    up := false, bound := namedPart (r.p 1 1), phy := decide (r.p 2 1 = 1), width := r.p 3 1, rate := r.p 4 2 } }

/-- The fields of an INGEST_PORT that the device can have. -/
def PortFields (d : Dev) (r : MbxReq) : Prop :=
  r.p 0 1 < 8 ∧ d.plan.csi.getLsbD (r.p 0 1) = true ∧ (r.p 1 1 < 16 ∨ r.p 1 1 = 0xFF) ∧ r.p 2 1 < 2 ∧ r.p 3 1 < 3 ∧
    80 ≤ r.p 4 2 ∧ r.p 4 2 ≤ (if r.p 2 1 = 1 then 2500 else 4500)

theorem modPort_of_no_streams {d : Dev} {r : MbxReq} (h : (d.port (r.p 0 1)).streams = []) :
    d.modPort (r.p 0 1) (fun p => { p with
      up := false, bound := namedPart (r.p 1 1), phy := r.p 2 1 == 1, width := r.p 3 1, rate := r.p 4 2
      streams := if (d.port (r.p 0 1)).bound == namedPart (r.p 1 1) then p.streams
        else Tab.mapv p.streams (fun (t : IngStream) => { t with cfg := none }) }) = portSet d r := by
  unfold Dev.modPort portSet
  simp only [h, show Tab.mapv ([] : Tab IngStream) (fun (t : IngStream) => { t with cfg := none }) = [] from rfl, ite_self]
  rw [← h]
  rfl

theorem exec_ingestPort {s : State} {k : Nat} {r : MbxReq} (h : Formed s.dev 0 0x0400 k 6 [(0, 6)] r) (hfields : PortFields s.dev r)
    (hstreams : (s.dev.port (r.p 0 1)).streams = []) :
    exec (.ingestPort 0) s = .next (keeping s
      (if s.dev.partNamed (r.p 1 1) = false then s.dev.reply k 5 0 []
       else if r.p 1 1 < 16 then
         ({ portSet s.dev r with aud := { s.dev.aud with viol := Tab.del s.dev.aud.viol (violPortOff (r.p 0 1)) } } : Dev).acceptReq k 0
       else (portSet s.dev r).reply k 0 0 [])) := by
  obtain ⟨h0, hcsi, h1, h2, h3, h4, h5⟩ := hfields
  have hok : (decide (r.p 0 1 < 8) && s.dev.plan.csi.getLsbD (r.p 0 1) && partOrNone (r.p 1 1) && decide (r.p 2 1 < 2) &&
      decide (r.p 3 1 < 3) && decide (80 ≤ r.p 4 2) && decide (r.p 4 2 ≤ (if r.p 2 1 = 1 then 2500 else 4500))) = true := by
    simp only [h0, hcsi, (partOrNone_iff _).mpr h1, h2, h3, h4, h5, decide_true, Bool.and_self]
  show execIngestPort 0 s = _
  unfold execIngestPort
  refine on_eq_keeping ?_
  simp only [formed_notAccepted h]
  split
  · next hnamed => exact onMsg_conflicts h _ hok (by simp [hnamed])
  · next hnamed =>
    refine (onMsg_takesEffect h _ hok (by simpa using hnamed)).trans ?_
    rw [portIdle_of_no_streams hstreams, modPort_of_no_streams hstreams]
    by_cases hp : r.p 1 1 < 16
    · simp only [namedPart, if_pos hp]
      rfl
    · simp only [namedPart, if_neg hp]

theorem exec_ingestPort_accepted {s : State} {k : Nat} {r : MbxReq} (h : s.dev.findReq 0 0x0400 true = some (k, r)) :
    exec (.ingestPort 0) s = .next (keeping s (s.dev.reply k 0 0 [])) := by
  show execIngestPort 0 s = _
  unfold execIngestPort
  refine on_eq_keeping ?_
  simp only [h]

/-! ### The power messages (14 R478, R480; 18 R573) -/

/-- The device in which a point has been requested: the point due, and the voltage written at once for a higher one. -/
def pointRequested (d : Dev) (k point : Nat) : Dev :=
  { d with mgmt := { (accepting d k 0).mgmt with
    clk := { d.mgmt.clk with aNext := min point d.mgmt.pow.ceiling }
    pow := { d.mgmt.pow with
      pointReq := point
      avsMv := if d.time.aPoint < min point d.mgmt.pow.ceiling then Config.fusedMv (min point d.mgmt.pow.ceiling)
        else d.mgmt.pow.avsMv } } }

theorem retarget_eq (d : Dev) : d.retarget = { d with mgmt := { d.mgmt with
    clk := { d.mgmt.clk with aNext := min d.mgmt.pow.pointReq d.mgmt.pow.ceiling }
    pow := { d.mgmt.pow with
      avsMv := if d.time.aPoint < min d.mgmt.pow.pointReq d.mgmt.pow.ceiling
        then Config.fusedMv (min d.mgmt.pow.pointReq d.mgmt.pow.ceiling) else d.mgmt.pow.avsMv } } } := by
  unfold Dev.retarget Dev.modMgmt
  by_cases hup : d.time.aPoint < min d.mgmt.pow.pointReq d.mgmt.pow.ceiling
  · simp only [hup, if_true]
  · simp only [hup, if_false]

theorem exec_powerPoint {s : State} {k : Nat} {r : MbxReq} (h : Formed s.dev 0 0x0300 k 1 [(0, 1)] r) (hp : r.p 0 1 ≤ 2) :
    exec (.powerPoint 0) s = .next (withDev s (pointRequested s.dev k (r.p 0 1))) := by
  show execPowerPoint 0 s = _
  unfold execPowerPoint
  refine (on_eq_keeping (d := pointRequested s.dev k (r.p 0 1)) ((onMsg_takesEffect h _ (by simp [hp]) rfl).trans ?_)).trans rfl
  rw [retarget_eq]
  rfl

theorem exec_powerLimit {s : State} {k : Nat} {r : MbxReq} (h : Formed s.dev 0 0x0301 k 4 [(0, 4)] r) (hlo : 5000 ≤ r.p 0 4)
    (hhi : r.p 0 4 ≤ 40000) :
    exec (.powerLimit 0) s = .next (withDev s { s.dev with mgmt := { (accepting s.dev k 0).mgmt with
      pow := { s.dev.mgmt.pow with limitNext := some (r.p 0 4) } } }) := by
  show execPowerLimit 0 s = _
  unfold execPowerLimit
  exact (on_eq_keeping (onMsg_takesEffect h _ (by simp [hlo, hhi]) rfl)).trans rfl

theorem exec_powerLimit_outside {s : State} {k : Nat} {r : MbxReq} (h : Formed s.dev 0 0x0301 k 4 [(0, 4)] r)
    (hout : r.p 0 4 < 5000 ∨ 40000 < r.p 0 4) : exec (.powerLimit 0) s = .next (keeping s (s.dev.reply k 3 0 [])) := by
  show execPowerLimit 0 s = _
  unfold execPowerLimit
  refine on_eq_keeping (onMsg_wrongField h _ _ ?_)
  simp only [Bool.and_eq_false_iff, decide_eq_false_iff_not]
  omega

/-- What TELEMETRY answers, with the array supply's voltage `mv` (14 R480). -/
def telemetryOf (d : Dev) (mv : Nat) : List Byte :=
  toLe 4 d.mgmt.pow.lastMw ++ toLe 2 (d.mgmt.pow.lastTemp % (2 ^ 16 : Nat)).toNat ++ toLe 2 mv ++ toLe 1 d.time.aPoint ++
    toLe 3 0 ++ toLe 4 d.mgmt.pow.lastEpoch ++ toLe 2 (Config.fusedMv 0) ++ toLe 2 (Config.fusedMv 1) ++ toLe 2 (Config.fusedMv 2)

theorem exec_telemetry {s : State} {k : Nat} {r : MbxReq} (h : Formed s.dev 0 0x0302 k 0 [] r) :
    exec (.telemetry 0) s = .next (keeping s
      (s.dev.fresh.2.reply k 0 0 (telemetryOf s.dev (s.dev.mgmt.pow.avsRead.getD s.dev.fresh.1)))) := by
  show execTelemetry 0 s = _
  unfold execTelemetry
  exact on_eq_keeping (onMsg_takesEffect h _ rfl rfl)

theorem telemetry_answersWith {d : Dev} {k : Nat} {r : MbxReq} (h : d.mgmt.reqs[k]? = some r) (payload : List Byte) :
    AnswersWith d (d.fresh.2.reply k 0 0 payload) k r 0 0 payload := by
  have hans := reply_answersWith (d := d.fresh.2) h 0 0 payload
  exact ⟨hans.1, mailSide_trans ⟨rfl, fun _ _ => rfl, rfl⟩ hans.2⟩

end Sys2Proof.Proofs

/-! ## PART_RELEASE (14 R475) -/

namespace Sys2Proof.Proofs
open Sys2Proof.Machine Sys2Proof.Safety

/-! ### What the release's accesses and completions leave as it is -/

/-- The management plane and the clusters held are as they were, and every ledger stream is one that there was. -/
structure ReleaseSide (d e : Dev) : Prop where
  mgmt : e.mgmt = d.mgmt
  held : ∀ q, (e.part q).held = (d.part q).held
  streams : ∀ n x, Tab.get? e.ledger.streams n = some x → Tab.get? d.ledger.streams n = some x

theorem ReleaseSide.refl (d : Dev) : ReleaseSide d d := ⟨rfl, fun _ => rfl, fun _ _ h => h⟩

theorem ReleaseSide.trans {d e g : Dev} (h : ReleaseSide d e) (k : ReleaseSide e g) : ReleaseSide d g :=
  ⟨k.mgmt.trans h.mgmt, fun q => (k.held q).trans (h.held q), fun n x hx => h.streams n x (k.streams n x hx)⟩

theorem ReleaseSide.foldl {β : Type} {f : Dev → β → Dev} (h : ∀ d b, ReleaseSide d (f d b)) (l : List β) (d : Dev) :
    ReleaseSide d (l.foldl f d) := by
  induction l generalizing d with
  | nil => exact .refl d
  | cons b l ih => exact (h d b).trans (ih _)

theorem releaseSide_of_memorySide {d e : Dev} (h : MemorySide d e) : ReleaseSide d e := by
  obtain ⟨he, -, hp⟩ := h
  refine ⟨by rw [he], fun q => by rw [hp q], fun n x hx => ?_⟩
  rw [he] at hx
  exact hx

/-- Where nothing of the management plane, the partitions and the streams differs. -/
theorem releaseSide_of_kept {d e : Dev} (hm : e.mgmt = d.mgmt) (hp : e.parts = d.parts)
    (hs : e.ledger.streams = d.ledger.streams) : ReleaseSide d e :=
  ⟨hm, fun q => by unfold Dev.part; rw [hp], fun n x hx => hs ▸ hx⟩

/-! ### The mint (05 R202, R206) -/

theorem violPart_releaseSide (d : Dev) (p k : Nat) : ReleaseSide d (d.violPart p k) := by
  unfold Dev.violPart
  split
  · exact releaseSide_of_kept rfl rfl rfl
  · exact .refl d

theorem setPool_releaseSide (d : Dev) (p i : Nat) (x : Pool) : ReleaseSide d (d.setPool p i x) := releaseSide_of_kept rfl rfl rfl

theorem mintEmpty_releaseSide (d : Dev) (p i : Nat) : ReleaseSide d (d.mintEmpty p i) :=
  (setPool_releaseSide _ _ _ _).trans (violPart_releaseSide _ _ _)

theorem mapByte_memorySide (d : Dev) (x : Pool) (k : Nat) : MemorySide d (d.mapByte x k).2 := by
  have htr := translate_memorySide d x.ctx (x.metaDva + k) .write
  unfold Dev.mapByte
  generalize d.translate x.ctx (x.metaDva + k) .write = a at htr ⊢
  obtain ⟨a | ⟨pa, b⟩, e⟩ := a
  · exact htr
  · exact htr.trans (ncRead_memorySide e (rqUnit 35 0) 4 (pa / 128))

theorem setMapByte_memorySide (d : Dev) (x : Pool) (k v : Nat) : MemorySide d (d.setMapByte x k v) := by
  have htr := translate_memorySide d x.ctx (x.metaDva + k) .write
  unfold Dev.setMapByte
  generalize d.translate x.ctx (x.metaDva + k) .write = a at htr ⊢
  obtain ⟨a | ⟨pa, b⟩, e⟩ := a
  · exact htr
  · exact htr.trans (ncWrite_memorySide e _ _ _ _ _ _)

theorem setMapBit_memorySide (d : Dev) (x : Pool) (i : Nat) (v : Bool) : MemorySide d (d.setMapBit x i v) :=
  (mapByte_memorySide d x (i / 8)).trans (setMapByte_memorySide _ _ _ _)

theorem mintReturn_releaseSide (d : Dev) (p i user a : Nat) : ReleaseSide d (d.mintReturn p i user a) := by
  have hcount : ReleaseSide d (d.countGlobal 3 1) := by
    have haud : AudSide d (d.countGlobal 3 1) := count_audSide d (0x6A000 + 8 * 3) 1
    unfold AudSide at haud
    rw [haud]
    exact releaseSide_of_kept rfl rfl rfl
  unfold Dev.mintReturn
  dsimp only
  split
  · exact hcount.trans ((violPart_releaseSide _ _ _).trans (mintEmpty_releaseSide _ _ _))
  · split
    · exact hcount.trans (violPart_releaseSide _ _ _)
    · have hbit := mapByte_memorySide (d.countGlobal 3 1) ((d.countGlobal 3 1).pool p i)
        ((a - ((d.countGlobal 3 1).pool p i).base) / 2 ^ ((d.countGlobal 3 1).pool p i).sizeLog2 / 8)
      unfold Dev.mapBit
      generalize (d.countGlobal 3 1).mapByte _ _ = b at hbit ⊢
      obtain ⟨b, e⟩ := b
      have hread := hcount.trans (releaseSide_of_memorySide hbit)
      dsimp only
      split
      · next heq =>
        obtain ⟨-, rfl⟩ := Prod.mk.inj heq
        exact hread.trans (violPart_releaseSide _ _ _)
      · next heq =>
        obtain ⟨-, rfl⟩ := Prod.mk.inj heq
        exact hread.trans ((releaseSide_of_memorySide (setMapBit_memorySide _ _ _ _)).trans (setPool_releaseSide _ _ _ _))

/-! ### The ledger (09 R337, R342, R343) -/

theorem cmdDone_releaseSide (d : Dev) (x : CmdId) (status detail : Nat) : ReleaseSide d (d.cmdDone x status detail) :=
  releaseSide_of_kept rfl rfl rfl

theorem migFinish_releaseSide (d : Dev) : ReleaseSide d d.migFinish := by
  unfold Dev.migFinish
  refine ReleaseSide.trans (e := d.modLdg _) (releaseSide_of_kept rfl rfl rfl) (.foldl (fun e m => ?_) _ _)
  split
  · exact (mintReturn_releaseSide _ _ _ _ _).trans (cmdDone_releaseSide _ _ _ _)
  · exact cmdDone_releaseSide _ _ _ _

theorem modLdg_releaseSide (d : Dev) {f : Ledger → Ledger} (h : ∀ l, (f l).streams = l.streams) : ReleaseSide d (d.modLdg f) :=
  releaseSide_of_kept rfl rfl (h _)

theorem modEnt_releaseSide (d : Dev) (idx : Nat) (f : LEntry → LEntry) : ReleaseSide d (d.modEnt idx f) :=
  modLdg_releaseSide d fun _ => rfl

theorem dropStream_releaseSide (d : Dev) (n : Nat) :
    ReleaseSide d (d.modLdg (fun l => { l with streams := Tab.del l.streams n })) := by
  refine ⟨rfl, fun _ => rfl, fun j x hx => ?_⟩
  by_cases hj : j = n
  · rw [hj] at hx
    exact absurd ((Tab.get?_del_self d.ledger.streams n).symm.trans hx) nofun
  · exact (Tab.get?_del_of_ne d.ledger.streams hj).symm.trans hx

theorem evictsCheck_releaseSide (d : Dev) (idx : Nat) : ReleaseSide d (d.evictsCheck idx) := by
  unfold Dev.evictsCheck
  refine ReleaseSide.trans (e := d.modLdg _) (releaseSide_of_kept rfl rfl rfl) (.foldl (fun e c => ?_) _ _)
  split
  · exact (dropStream_releaseSide _ _).trans (cmdDone_releaseSide _ _ _ _)
  · exact cmdDone_releaseSide _ _ _ _

theorem ldgDrop_releaseSide (d : Dev) (idx : Nat) (giveBack : Bool) : ReleaseSide d (d.ldgDrop idx giveBack) := by
  have hclear : ∀ (e : Dev) f, (∀ l, (f l).streams = l.streams) → ReleaseSide e ((e.modLdg f).migFinish.evictsCheck idx) :=
    fun e f hf => (modLdg_releaseSide e hf).trans ((migFinish_releaseSide _).trans (evictsCheck_releaseSide _ _))
  unfold Dev.ldgDrop
  split
  · exact .refl d
  · dsimp only
    split
    · exact (mintReturn_releaseSide _ _ _ _ _).trans (hclear _ _ fun _ => rfl)
    · exact hclear _ _ fun _ => rfl

theorem ldgUnlease_releaseSide (d : Dev) (q idx : Nat) : ReleaseSide d (d.ldgUnlease q idx) := by
  have hfinish : ReleaseSide d ((((d.modLdg (fun l => { l with migrations := l.migrations.map (fun m =>
      if m.idx = idx then { m with slots := m.slots.filter (· != q) } else m) })).modEnt idx
      (fun e => { e with leases := e.leases - 1 }))).migFinish) := by
    refine ReleaseSide.trans (ReleaseSide.trans ?_ (modEnt_releaseSide _ _ _)) (migFinish_releaseSide _)
    exact modLdg_releaseSide d fun _ => rfl
  unfold Dev.ldgUnlease
  dsimp only
  split
  · split
    · exact hfinish.trans (ldgDrop_releaseSide _ _ _)
    · exact hfinish
  · exact hfinish

theorem slotRelease_releaseSide (d : Dev) (q : Nat) : ReleaseSide d (d.slotRelease q) := by
  unfold Dev.slotRelease
  split
  · exact .refl d
  · dsimp only
    refine ReleaseSide.trans ?_ (modLdg_releaseSide _ fun _ => rfl)
    exact ReleaseSide.foldl (f := fun (e : Dev) (i : LItem) => e.ldgUnlease q i.idx) (fun e i => ldgUnlease_releaseSide e q i.idx) _ _

theorem releaseSlots_releaseSide (d : Dev) (p : Nat) : ReleaseSide d (d.releaseSlots p) :=
  .foldl (fun e q => slotRelease_releaseSide e q) _ _

/-! ### The steps of a release -/

/-- Step 2 of R475: the partition's entries become free, its streams are removed and its query slots released. -/
def storesReleased (d : Dev) (p : Nat) : Dev :=
  ((((d.ledger.entries.filter (fun e => ((d.ledger.streams.filter (fun e => e.2.part == p)).map (·.1)).contains
    e.2.stream)).map (·.1)).foldl (fun (d : Dev) i => d.ldgDrop i false) d).modLdg
      (fun l => { l with streams := Tab.keep l.streams (fun _ s => s.part != p) })).releaseSlots p

/-- Of the ways of partition `p`'s two requesters only the next-line prefetch bit is left. -/
def waysTakenAway (d : Dev) (p : Nat) : Dev :=
  { d with mem := { d.mem with
    alloc := Tab.put (Tab.put d.mem.alloc p (BitVec.ofNat 17 (2 ^ 16 * b2n (d.nlp p)))) (16 + p)
      (BitVec.ofNat 17 (2 ^ 16 * b2n (d.nlp (16 + p)))) } }

/-- Step 3 of R475: the partition's two requesters have no ways, and what stood in them is written back and gone. -/
def waysReleased (d : Dev) (p : Nat) : Dev :=
  (waysTakenAway d p).emptyWays p (d.allocMask p ||| d.allocMask (16 + p))

/-- Step 3 of R475: the partition's contexts are invalid, and none of their translations is cached. -/
def ctxsReleased (d : Dev) (p : Nat) : Dev :=
  { d.tlbDrop (fun t => (d.ctx t.ctx).valid && (d.ctx t.ctx).part == p) with
    mmu := { (d.tlbDrop (fun t => (d.ctx t.ctx).valid && (d.ctx t.ctx).part == p)).mmu with
      ctxs := Tab.mapv d.mmu.ctxs (fun c => if c.valid && c.part == p then { c with valid := false } else c) } }

/-- Step 4 of R475: the partition holds no cluster, no pool and no loan. -/
def holdingsReleased (d : Dev) (p : Nat) : Dev :=
  { (d.dropPools p).modPart p (fun x => { x with held := 0, drainK := 0 }) with
    reserves := Tab.mapv d.reserves (fun r =>
      { r with holder := if r.holder == some p then none else r.holder
               suspended := if r.suspended == some p then none else r.suspended }) }

theorem releasePart_eq (d : Dev) (p : Nat) :
    d.releasePart p = holdingsReleased ((ctxsReleased (waysReleased (storesReleased d p) p) p).clearTallies p none) p := by
  unfold Dev.releasePart
  extract_lets streams ents dropped kept stores mask alloc mem ways mine flushed mmu ctxs cleared held
  have hstores : stores = storesReleased d p := rfl
  have hways : ways = waysReleased stores p := rfl
  have hctxs : ctxs = ctxsReleased ways p := rfl
  rw [← hstores, ← hways, ← hctxs]
  clear_value ctxs
  rfl

theorem storesReleased_spec (d : Dev) (p : Nat) :
    (storesReleased d p).mgmt = d.mgmt ∧ (∀ q, ((storesReleased d p).part q).held = (d.part q).held) ∧
    ∀ n x, Tab.get? (storesReleased d p).ledger.streams n = some x → x.part ≠ p := by
  unfold storesReleased
  have hdrop := ReleaseSide.foldl (fun (e : Dev) i => ldgDrop_releaseSide e i false) ((d.ledger.entries.filter (fun e =>
    ((d.ledger.streams.filter (fun e => e.2.part == p)).map (·.1)).contains e.2.stream)).map (·.1)) d
  generalize List.foldl (fun (d : Dev) i => d.ldgDrop i false) d _ = e at hdrop ⊢
  have hslots := releaseSlots_releaseSide (e.modLdg (fun l => { l with streams := Tab.keep l.streams (fun _ s => s.part != p) })) p
  refine ⟨hslots.mgmt.trans hdrop.mgmt, fun q => (hslots.held q).trans (hdrop.held q), fun n x hx => ?_⟩
  have hmem := mem_of_get? (hslots.streams n x hx)
  obtain ⟨-, hpart⟩ := List.mem_filter.mp hmem
  simpa using hpart

theorem emptyWays_memorySide (d : Dev) (p : Nat) (mask : BitVec 16) : MemorySide d (d.emptyWays p mask) := by
  refine MemorySide.foldl (fun e x => ?_) _ _
  refine MemorySide.trans (e := if x.2.dirty then e.memWrite (e.rqPart p) x.1 fullMask x.2.data x.2.poison else e) ?_
    (delVault_sliceSide _ _).memorySide
  split
  · exact (memWrite_behindSide _ _ _ _ _ _).sliceSide.memorySide
  · exact .refl e

theorem allocMask_congr {d e : Dev} (h : e.mem = d.mem) (r : Nat) : e.allocMask r = d.allocMask r := by
  unfold Dev.allocMask
  rw [h]

theorem part_congr {d e : Dev} (h : e.parts = d.parts) (q : Nat) : e.part q = d.part q := by
  unfold Dev.part
  rw [h]

theorem ctx_congr {d e : Dev} (h : e.mmu = d.mmu) (c : Nat) : e.ctx c = d.ctx c := by
  unfold Dev.ctx
  rw [h]

theorem setWidth_lockOnly (b : Bool) : (BitVec.ofNat 17 (2 ^ 16 * b2n b)).setWidth 16 = 0 := by
  cases b
  · decide
  · decide

theorem waysReleased_spec (d : Dev) (p : Nat) :
    (waysReleased d p).mgmt = d.mgmt ∧ (∀ q, ((waysReleased d p).part q).held = (d.part q).held) ∧
    (waysReleased d p).ledger = d.ledger ∧ (waysReleased d p).allocMask p = 0 ∧ (waysReleased d p).allocMask (16 + p) = 0 := by
  obtain ⟨he, -, hpart⟩ := emptyWays_memorySide (waysTakenAway d p) p (d.allocMask p ||| d.allocMask (16 + p))
  have halloc : (waysReleased d p).mem.alloc = (waysTakenAway d p).mem.alloc := by
    unfold waysReleased
    rw [he]
  refine ⟨?_, fun q => ?_, ?_, ?_, ?_⟩
  · unfold waysReleased
    rw [he]
    rfl
  · unfold waysReleased
    rw [hpart q]
    rfl
  · unfold waysReleased
    rw [he]
    rfl
  · unfold Dev.allocMask
    rw [halloc]
    unfold waysTakenAway
    dsimp only
    rw [Tab.get_put_of_ne _ _ _ (by omega), Tab.get_put_self]
    exact setWidth_lockOnly _
  · unfold Dev.allocMask
    rw [halloc]
    unfold waysTakenAway
    dsimp only
    rw [Tab.get_put_self]
    exact setWidth_lockOnly _

theorem ctxsReleased_spec (d : Dev) (p c : Nat) (h : ((ctxsReleased d p).ctx c).valid = true) : ((ctxsReleased d p).ctx c).part ≠ p := by
  have hctx : (ctxsReleased d p).ctx c = ((Tab.get? d.mmu.ctxs c).map (fun c =>
      if c.valid && c.part == p then { c with valid := false } else c)).getD CtxDesc.none :=
    congrArg (·.getD CtxDesc.none) (get?_mapv d.mmu.ctxs (fun c => if c.valid && c.part == p then { c with valid := false } else c) c)
  rw [hctx] at h ⊢
  cases hx : Tab.get? d.mmu.ctxs c with
  | none =>
    rw [hx] at h
    exact absurd h Bool.false_ne_true
  | some x =>
    rw [hx] at h
    simp only [Option.map_some, Option.getD_some] at h ⊢
    split at h
    · exact absurd h Bool.false_ne_true
    · next hne =>
      rw [if_neg hne]
      simpa [h] using hne

theorem ctxsReleased_kept (d : Dev) (p : Nat) :
    (ctxsReleased d p).mgmt = d.mgmt ∧ (ctxsReleased d p).ledger = d.ledger ∧ (ctxsReleased d p).mem = d.mem ∧
    (ctxsReleased d p).parts = d.parts := ⟨rfl, rfl, rfl, rfl⟩

/-- A partition whose tallies are cleared for no owner owns none. -/
theorem clearTallies_none_owner (d : Dev) (p n : Nat) : ((d.clearTallies p none).tally n).owner ≠ some p := by
  have hgiven : TalliesGiven (· ∈ d.talliesOf p) none d (d.clearTallies p none) := foldl_tallyClear_given none (d.talliesOf p) d
  by_cases hn : n ∈ d.talliesOf p
  · rw [hgiven.given n hn]
    exact nofun
  · rw [hgiven.kept n hn]
    intro howner
    cases hx : Tab.get? d.tly.tallies n with
    | none =>
      unfold Dev.tally Tab.get at howner
      rw [hx] at howner
      cases howner
    | some x =>
      have hox : x.owner = some p := by
        unfold Dev.tally Tab.get at howner
        rw [hx] at howner
        exact howner
      exact hn (List.mem_map.mpr ⟨(n, x), List.mem_filter.mpr ⟨mem_of_get? hx, by simp [hox]⟩, rfl⟩)

theorem clearTallies_kept (d : Dev) (p : Nat) (owner : Option Nat) :
    (d.clearTallies p owner).mgmt = d.mgmt ∧ (d.clearTallies p owner).ledger = d.ledger ∧ (d.clearTallies p owner).mem = d.mem ∧
    (d.clearTallies p owner).parts = d.parts ∧ (d.clearTallies p owner).mmu = d.mmu := by
  unfold Dev.clearTallies
  rw [(foldl_tallyClear_given owner (d.talliesOf p) d).frame]
  exact ⟨rfl, rfl, rfl, rfl, rfl⟩

theorem part_modPart_self (d : Dev) (p : Nat) (f : Part → Part) : (d.modPart p f).part p = f (d.part p) := Tab.get_put_self _ _ _ _

theorem part_modPart_of_ne (d : Dev) {p q : Nat} (f : Part → Part) (h : q ≠ p) : (d.modPart p f).part q = d.part q :=
  Tab.get_put_of_ne _ _ _ h

theorem holdingsReleased_held_self (d : Dev) (p : Nat) : ((holdingsReleased d p).part p).held = 0 :=
  congrArg Part.held (part_modPart_self (d.dropPools p) p (fun x => { x with held := 0, drainK := 0 }))

theorem holdingsReleased_part_of_ne (d : Dev) {p q : Nat} (h : q ≠ p) : (holdingsReleased d p).part q = d.part q :=
  part_modPart_of_ne (d.dropPools p) (fun x => { x with held := 0, drainK := 0 }) h

theorem holdingsReleased_reserves (d : Dev) (p j : Nat) {x : Reserve} (h : Tab.get? (holdingsReleased d p).reserves j = some x) :
    x.holder ≠ some p ∧ x.suspended ≠ some p := by
  have hmap : (Tab.get? d.reserves j).map (fun r : Reserve =>
      { r with holder := if r.holder == some p then none else r.holder
               suspended := if r.suspended == some p then none else r.suspended }) = some x :=
    (get?_mapv d.reserves _ j).symm.trans h
  obtain ⟨r, -, rfl⟩ := Option.map_eq_some_iff.mp hmap
  have hgone : ∀ o : Option Nat, (if o == some p then none else o) ≠ some p := by
    intro o
    split
    · exact nofun
    · next hne => exact fun ho => hne (by rw [ho]; exact beq_self_eq_true _)
  exact ⟨hgone _, hgone _⟩

/-- A released partition has no stream, context, tally, cluster, way, loan or pool; no other partition loses a cluster. -/
theorem releasePart_spec (d : Dev) (p : Nat) :
    (d.releasePart p).mgmt = d.mgmt ∧
    (∀ n x, Tab.get? (d.releasePart p).ledger.streams n = some x → x.part ≠ p) ∧
    (∀ c, ((d.releasePart p).ctx c).valid = true → ((d.releasePart p).ctx c).part ≠ p) ∧
    (∀ n, ((d.releasePart p).tally n).owner ≠ some p) ∧
    ((d.releasePart p).part p).held = 0 ∧ (d.releasePart p).allocMask p = 0 ∧ (d.releasePart p).allocMask (16 + p) = 0 ∧
    (∀ j x, Tab.get? (d.releasePart p).reserves j = some x → x.holder ≠ some p ∧ x.suspended ≠ some p) ∧
    (∀ j, j / 8 = p → Tab.get? (d.releasePart p).mint.pools j = none) ∧
    ∀ q, q ≠ p → ((d.releasePart p).part q).held = (d.part q).held := by
  obtain ⟨hmgmt, hheld, hstreams⟩ := storesReleased_spec d p
  obtain ⟨wmgmt, wheld, wledger, walloc, walloc'⟩ := waysReleased_spec (storesReleased d p) p
  obtain ⟨xmgmt, xledger, xmem, xparts⟩ := ctxsReleased_kept (waysReleased (storesReleased d p) p) p
  have xctx := ctxsReleased_spec (waysReleased (storesReleased d p) p) p
  obtain ⟨tmgmt, tledger, tmem, tparts, tmmu⟩ := clearTallies_kept (ctxsReleased (waysReleased (storesReleased d p) p) p) p none
  have howner := clearTallies_none_owner (ctxsReleased (waysReleased (storesReleased d p) p) p) p
  rw [releasePart_eq]
  generalize (ctxsReleased (waysReleased (storesReleased d p) p) p).clearTallies p none = t at *
  generalize ctxsReleased (waysReleased (storesReleased d p) p) p = x at *
  generalize waysReleased (storesReleased d p) p = w at *
  refine ⟨tmgmt.trans (xmgmt.trans (wmgmt.trans hmgmt)), fun n y hy => hstreams n y ?_, fun c hc => ?_, howner, ?_,
    (allocMask_congr (tmem.trans xmem) p).trans walloc, (allocMask_congr (tmem.trans xmem) (16 + p)).trans walloc',
    fun j y hy => holdingsReleased_reserves t p j hy, fun j hj => ?_, fun q hq => ?_⟩
  · rw [← wledger, ← xledger, ← tledger]
    exact hy
  · have hctx : (holdingsReleased t p).ctx c = x.ctx c := ctx_congr tmmu c
    rw [hctx] at hc ⊢
    exact xctx c hc
  · exact holdingsReleased_held_self t p
  · refine (get?_keep_key t.mint.pools (fun k => k / 8 != p) j).trans ?_
    simp [hj]
  · rw [holdingsReleased_part_of_ne t hq, part_congr (tparts.trans xparts) q]
    exact (wheld q).trans (hheld q)

/-! ### The message -/

theorem exec_partRelease_accepted {s : State} {k : Nat} {r : MbxReq} (h : s.dev.findReq 0 0x0106 true = some (k, r))
    (hphase : r.phase = 0) :
    exec (.partRelease 0) s = .next (keeping s (if s.dev.releaseDrained (r.p 0 1) = true ∨ 3 ≤ s.dev.dp.step then
      (s.dev.releasePart (r.p 0 1)).acceptReq k 1 else s.dev)) := by
  show execPartRelease 0 s = _
  unfold execPartRelease
  refine on_eq_keeping ?_
  simp only [h, Dev.releaseGo, hphase, decide_true, Bool.true_and, Bool.or_eq_true, decide_eq_true_eq]

theorem exec_partRelease_outside {s : State} {k : Nat} {r : MbxReq} (h : Formed s.dev 0 0x0106 k 1 [(0, 1)] r) (hp : 16 ≤ r.p 0 1) :
    exec (.partRelease 0) s = .next (keeping s (s.dev.reply k 3 0 [])) := by
  show execPartRelease 0 s = _
  unfold execPartRelease
  refine on_eq_keeping ?_
  simp only [formed_notAccepted h]
  exact onMsg_wrongField h _ _ (by simpa using hp)

theorem exec_partRelease_invalid {s : State} {k : Nat} {r : MbxReq} (h : Formed s.dev 0 0x0106 k 1 [(0, 1)] r) (hp : r.p 0 1 < 16)
    (hvalid : (s.dev.part (r.p 0 1)).cfg.valid = false) : exec (.partRelease 0) s = .next (keeping s (s.dev.reply k 5 0 [])) := by
  show execPartRelease 0 s = _
  unfold execPartRelease
  refine on_eq_keeping ?_
  simp only [formed_notAccepted h]
  exact onMsg_conflicts h _ (by simpa using hp) (by simp [hvalid])

theorem exec_partRelease_next (s : State) : ∃ d, exec (.partRelease 0) s = .next (keeping s d) := by
  show ∃ d, execPartRelease 0 s = .next (keeping s d)
  unfold execPartRelease
  exact ⟨_, on_eq_keeping rfl⟩

theorem exec_partReleaseTimeout {s : State} {k : Nat} {r : MbxReq} (h : s.dev.findReq 0 0x0106 true = some (k, r))
    (hlate : r.late = true) :
    exec (.partReleaseTimeout 0) s =
      .next (keeping s ((s.dev.modPart (r.p 0 1) (fun x => { x with drainK := 0 })).reply k 6 0 [])) := by
  show execPartReleaseTimeout 0 s = _
  unfold execPartReleaseTimeout
  refine on_eq_keeping ?_
  simp only [h, hlate, if_true]

end Sys2Proof.Proofs

/-! ## The messages that set resources (14 Tables 14-7 and 14-8) -/

namespace Sys2Proof.Proofs
open Sys2Proof.Machine Sys2Proof.Safety

/-- An accepted or refused request, when nothing but the answer happens. -/
theorem exec_replies {s : State} {c : Instr} {k status detail : Nat} {r : MbxReq} (hreq : s.dev.mgmt.reqs[k]? = some r)
    (hexec : exec c s = .next (keeping s (s.dev.reply k status detail []))) :
    ∃ t, exec c s = .next t ∧ t.pending = s.pending ∧ AnswersWith s.dev t.dev k r status detail [] :=
  have hans := reply_answersWith hreq status detail []
  ⟨_, exec_answersWith hexec hans rfl rfl, rfl, hans⟩

theorem vaultAlloc_answers {s : State} {k : Nat} {r : MbxReq} (h : Formed s.dev 0 0x0103 k 5 [(0, 1), (2, 3)] r) (hp : r.p 0 1 ≤ 36)
    (hn : r.p 4 1 < 2) :
    ∃ t, exec (.vaultAlloc 0) s = .next t ∧ t.pending = s.pending ∧ AnswersWith { s.dev with mem := { s.dev.mem with
      alloc := Tab.put s.dev.mem.alloc (r.p 0 1) (BitVec.ofNat 17 (r.p 2 2 + 2 ^ 16 * r.p 4 1)) } } t.dev k r 0 0 [] :=
  have hans := reply_answersWith (d := { s.dev with mem := { s.dev.mem with
    alloc := Tab.put s.dev.mem.alloc (r.p 0 1) (BitVec.ofNat 17 (r.p 2 2 + 2 ^ 16 * r.p 4 1)) } }) (formed_req h).1 0 0 []
  ⟨_, exec_answersWith (exec_vaultAlloc h hp hn) hans rfl rfl, rfl, hans⟩

theorem vaultPin_answers {s : State} {k : Nat} {r : MbxReq} (h : Formed s.dev 0 0x0104 k 2 [(0, 2)] r) :
    ∃ t, exec (.vaultPin 0) s = .next t ∧ t.pending = s.pending ∧
      AnswersWith { s.dev with mem := { s.dev.mem with pinned := BitVec.ofNat 16 (r.p 0 2) } } t.dev k r 0 0 [] :=
  have hans := reply_answersWith (d := { s.dev with mem := { s.dev.mem with pinned := BitVec.ofNat 16 (r.p 0 2) } })
    (formed_req h).1 0 0 []
  ⟨_, exec_answersWith (exec_vaultPin h) hans rfl rfl, rfl, hans⟩

theorem ctxWritten_answers {s : State} {c : Instr} {k : Nat} {r : MbxReq} (hreq : s.dev.mgmt.reqs[k]? = some r)
    (hexec : exec c s = .next (keeping s ((ctxWritten s.dev r).reply k 0 0 []))) :
    ∃ t, exec c s = .next t ∧ t.pending = s.pending ∧ AnswersWith (ctxWritten s.dev r) t.dev k r 0 0 [] :=
  have hans := reply_answersWith (d := ctxWritten s.dev r) hreq 0 0 []
  ⟨_, exec_answersWith hexec hans rfl rfl, rfl, hans⟩

theorem inTags_iff (x b n : Nat) : inTags x b n = true ↔ b ≤ x ∧ x < b + n := by
  unfold inTags
  simp

/-- The tags of the old and of the new range are cleared, and no others. -/
theorem tagsSet_get? (d : Dev) (r : MbxReq) (x : Nat) :
    ((inTags x (d.func (r.p 0 1)).tagBase (d.func (r.p 0 1)).tagCount || inTags x (r.p 2 2) (r.p 4 2)) = true →
      Tab.get? (tagsSet d r).tags x = none) ∧
    ((inTags x (d.func (r.p 0 1)).tagBase (d.func (r.p 0 1)).tagCount || inTags x (r.p 2 2) (r.p 4 2)) = false →
      Tab.get? (tagsSet d r).tags x = Tab.get? d.tags x) := by
  have hkeep : Tab.get? (tagsSet d r).tags x = _ := get?_keep_key d.tags (fun x =>
    !(inTags x (d.func (r.p 0 1)).tagBase (d.func (r.p 0 1)).tagCount || inTags x (r.p 2 2) (r.p 4 2))) x
  rw [hkeep]
  exact ⟨fun h => by simp [h], fun h => by simp [h]⟩

theorem tagRange_answers {s : State} {k : Nat} {r : MbxReq} (h : Formed s.dev 0 0x0201 k 6 [(0, 1), (2, 4)] r) (hf : r.p 0 1 < 16)
    (hc : ¬ tagConflict s.dev r) :
    ∃ t, exec (.tagRange 0) s = .next t ∧ t.pending = s.pending ∧ AnswersWith (tagsSet s.dev r) t.dev k r 0 0 [] :=
  have hans := reply_answersWith (d := tagsSet s.dev r) (formed_req h).1 0 0 []
  ⟨_, exec_answersWith (exec_tagRange h hf hc) hans rfl rfl, rfl, hans⟩

/-- What an answer leaves of a function but its mailbox and vectors. -/
theorem mailSide_tags {d t : Dev} {f : Nat} (h : MailSide d t f) (g : Nat) :
    (t.func g).tagBase = (d.func g).tagBase ∧ (t.func g).tagCount = (d.func g).tagCount := by
  obtain ⟨-, ho, hf⟩ := h
  by_cases hg : g = f
  · rw [hg, hf]
    exact ⟨rfl, rfl⟩
  · rw [ho g hg]
    exact ⟨rfl, rfl⟩

theorem mailSide_tables {d t : Dev} {f : Nat} (h : MailSide d t f) : t.tags = d.tags ∧ t.tly = d.tly := by
  obtain ⟨he, -⟩ := h
  rw [he]
  exact ⟨rfl, rfl⟩

theorem tagsSet_answered {s t : State} {k : Nat} {r : MbxReq} (hfn : r.fn = 0)
    (hans : AnswersWith (tagsSet s.dev r) t.dev k r 0 0 []) :
    Answered s.dev t.dev k r 0 0 [] ∧ (t.dev.func (r.p 0 1)).tagBase = r.p 2 2 ∧ (t.dev.func (r.p 0 1)).tagCount = r.p 4 2 ∧
    t.dev.tags = (tagsSet s.dev r).tags ∧
    MailSide { s.dev with
      tags := t.dev.tags
      funcs := Tab.put s.dev.funcs (r.p 0 1) { s.dev.func (r.p 0 1) with tagBase := r.p 2 2, tagCount := r.p 4 2 } } t.dev 0 := by
  obtain ⟨hanswered, hside⟩ := hans
  have htags : t.dev.tags = (tagsSet s.dev r).tags := (mailSide_tables hside).1
  obtain ⟨hbase, hcount⟩ := mailSide_tags hside (r.p 0 1)
  have hself : (tagsSet s.dev r).func (r.p 0 1) = { s.dev.func (r.p 0 1) with tagBase := r.p 2 2, tagCount := r.p 4 2 } :=
    func_modFunc_self _ _ _
  refine ⟨hanswered, hbase.trans (by rw [hself]), hcount.trans (by rw [hself]), htags, ?_⟩
  rw [hfn] at hside
  rw [htags]
  exact hside

/-- The tallies that were given away, seen in the device that has answered. -/
theorem talliesGiven_answered {T : Nat → Prop} {owner : Option Nat} {d g e : Dev} {k : Nat} {r : MbxReq}
    (hg : TalliesGiven T owner d g) (hans : AnswersWith g e k r 0 0 []) :
    AnswersWith { d with tly := e.tly } e k r 0 0 [] ∧
    (∀ n, T n → e.tally n = { Tally.none with owner := owner, moved := (d.tally n).moved }) ∧
    (∀ n, ¬ T n → e.tally n = d.tally n) ∧ (∀ w, w ∈ e.tly.waiters ↔ w ∈ d.tly.waiters ∧ ¬ T w.tally) ∧
    (∀ w ∈ d.tly.waiters, T w.tally → ⟨w.who, false⟩ ∈ e.tly.wakes) ∧ e.tly.ops = d.tly.ops := by
  have htly : e.tly = g.tly := (mailSide_tables hans.2).2
  have htally : ∀ n, e.tally n = g.tally n := fun n => by
    unfold Dev.tally
    rw [htly]
  refine ⟨?_, fun n hn => (htally n).trans (hg.given n hn), fun n hn => (htally n).trans (hg.kept n hn), ?_, ?_, ?_⟩
  · rw [htly, ← hg.frame]
    exact hans
  · rw [htly]
    exact hg.waits
  · rw [htly]
    exact hg.woken
  · rw [htly]
    exact hg.ops

/-- CTX_SET of the right form conflicts, waits, or is written at once. -/
theorem ctxSet_formed {s : State} {k : Nat} {r : MbxReq} (h : Formed s.dev 0 0x0200 k 16 [(0, 4), (8, 8)] r) (hv : r.p 1 1 < 2)
    (hp : r.p 2 1 < 16) (hf : r.p 3 1 < 16) (hroot : r.p 8 8 < 2 ^ 48) (halign : r.p 8 8 % 4096 = 0) {conflict : Prop}
    (hconflict : conflict ↔ ((s.dev.part (r.p 2 1)).cfg.valid = false ∨ (s.dev.part (r.p 2 1)).cfg.func ≠ r.p 3 1 ∨
      s.dev.inWindow (r.p 2 1) (r.p 8 8) false = false)) :
    ∃ t, exec (.ctxSet 0) s = .next t ∧ t.pending = s.pending ∧ (conflict → AnswersWith s.dev t.dev k r 5 0 []) ∧
      (¬ conflict → s.dev.ctxWaits r = true → t.dev = accepting s.dev k 0) ∧
      (¬ conflict → s.dev.ctxWaits r = false → AnswersWith (ctxWritten s.dev r) t.dev k r 0 0 []) := by
  have hexec := exec_ctxSet_formed h hv hp hf hroot halign
  have hreq := (formed_req h).1
  by_cases hc : conflict
  · rw [if_pos (hconflict.mp hc)] at hexec
    obtain ⟨t, ht, hpend, hans⟩ := exec_replies hreq hexec
    exact ⟨t, ht, hpend, fun _ => hans, fun hn => absurd hc hn, fun hn => absurd hc hn⟩
  · rw [if_neg (mt hconflict.mpr hc)] at hexec
    cases hw : s.dev.ctxWaits r with
    | true =>
      rw [hw, if_pos rfl] at hexec
      exact ⟨_, hexec, rfl, fun hy => absurd hy hc, fun _ _ => rfl, fun _ hn => absurd hn.symm Bool.false_ne_true⟩
    | false =>
      rw [hw, if_neg Bool.false_ne_true] at hexec
      obtain ⟨t, ht, hpend, hans⟩ := ctxWritten_answers hreq hexec
      exact ⟨t, ht, hpend, fun hy => absurd hy hc, fun _ hn => absurd hn Bool.false_ne_true, fun _ _ => hans⟩

/-- CTX_SET of an accepted request is written once its context is idle, and can time out before. -/
theorem ctxSet_accepted {s : State} {k : Nat} {r : MbxReq} (h : s.dev.findReq 0 0x0200 true = some (k, r)) :
    (s.dev.ctxWaits r = false →
      ∃ t, exec (.ctxSet 0) s = .next t ∧ t.pending = s.pending ∧ AnswersWith (ctxWritten s.dev r) t.dev k r 0 0 []) ∧
    (s.dev.ctxWaits r = true → exec (.ctxSet 0) s = .next s) ∧
    (s.dev.ctxWaits r = true → r.accepted = true → r.phase = 0 → 500000 ≤ r.waited →
      ∃ t, exec (.ctxSetTimeout 0) s = .next t ∧ t.pending = s.pending ∧ AnswersWith s.dev t.dev k r 6 0 []) := by
  have hexec := exec_ctxSet_accepted h
  have hreq := (findReq_spec h).1
  refine ⟨fun hw => ?_, fun hw => ?_, fun hw hacc hphase hwaited => ?_⟩
  · rw [hw, if_neg Bool.false_ne_true] at hexec
    exact ctxWritten_answers hreq hexec
  · rw [hw, if_pos rfl] at hexec
    exact hexec
  · exact exec_replies hreq (exec_ctxSetTimeout h hw (late_of hacc hphase hwaited))

/-- INGEST_PORT of the right form names an invalid partition, unbinds the port, or binds it. -/
theorem ingestPort_formed {s : State} {k : Nat} {r : MbxReq} (h : Formed s.dev 0 0x0400 k 6 [(0, 6)] r) (hfields : PortFields s.dev r)
    (hstreams : (s.dev.port (r.p 0 1)).streams = []) :
    ∃ t, exec (.ingestPort 0) s = .next t ∧ t.pending = s.pending ∧
      (s.dev.partNamed (r.p 1 1) = false → AnswersWith s.dev t.dev k r 5 0 []) ∧
      (r.p 1 1 = 0xFF → AnswersWith (portSet s.dev r) t.dev k r 0 0 []) ∧
      (r.p 1 1 ≠ 0xFF → s.dev.partNamed (r.p 1 1) = true → t.dev = { portSet s.dev r with
        mgmt := (accepting s.dev k 0).mgmt
        aud := { s.dev.aud with viol := Tab.del s.dev.aud.viol (0x70600 + 4 * r.p 0 1) } }) := by
  have hexec := exec_ingestPort h hfields hstreams
  have hreq := (formed_req h).1
  obtain ⟨-, -, hpart, -⟩ := hfields
  cases hnamed : s.dev.partNamed (r.p 1 1) with
  | false =>
    rw [hnamed, if_pos rfl] at hexec
    obtain ⟨t, ht, hpend, hans⟩ := exec_replies hreq hexec
    refine ⟨t, ht, hpend, fun _ => hans, fun hff => ?_, fun _ hn => absurd hn Bool.false_ne_true⟩
    rw [hff] at hnamed
    exact absurd hnamed.symm Bool.false_ne_true
  | true =>
    rw [hnamed, if_neg (Bool.false_ne_true ∘ Eq.symm)] at hexec
    by_cases hp : r.p 1 1 < 16
    · rw [if_pos hp] at hexec
      exact ⟨_, hexec, rfl, fun hn => absurd hn.symm Bool.false_ne_true, fun hff => by omega, fun _ _ => rfl⟩
    · rw [if_neg hp] at hexec
      have hans := reply_answersWith (d := portSet s.dev r) hreq 0 0 []
      exact ⟨_, exec_answersWith hexec hans rfl rfl, rfl, fun hn => absurd hn.symm Bool.false_ne_true, fun _ => hans,
        fun hne => absurd (hpart.resolve_left hp) hne⟩

/-- Settles O48: a message of the right form has the ends of its checks, and each end is one of the lemmas above. -/
theorem resourcesAreSet : Obligations.ResourcesAreSet := by
  unfold Obligations.ResourcesAreSet
  refine ⟨fun s k r => vaultAlloc_answers, fun s k r => vaultPin_answers, fun s k r h hn hlast hpart => ?_,
    fun s k r => ⟨fun h hv hp hf hroot halign => ctxSet_formed h hv hp hf hroot halign Iff.rfl, ctxSet_accepted⟩,
    fun s k r h hf => ?_, fun s k r hfind hacc hphase hp => ⟨fun hdrained => ?_, fun hbusy hstep => ?_, fun hwaited => ?_⟩,
    fun s k r h => ?_, fun s k r => ⟨fun h hport hcsi hpart hphy hwidth hlo hhi hstreams => ?_, fun hfind => ?_⟩,
    fun s k r => ⟨exec_powerPoint, exec_powerLimit, fun h hout => ?_, fun h => ?_⟩⟩
  case _ =>
    obtain ⟨e, hexec, hbad, hgood⟩ := tallyOwn_spec h hn hlast hpart
    refine ⟨withDev s e, hexec, rfl, hbad, fun hnamed => ?_⟩
    obtain ⟨g, hans, hg⟩ := hgood hnamed
    exact talliesGiven_answered hg hans
  case _ =>
    by_cases hc : tagConflict s.dev r
    · obtain ⟨t, ht, hpend, hans⟩ := exec_replies (formed_req h).1 (exec_tagRange_conflict h hf hc)
      exact ⟨t, ht, hpend, fun _ => hans, fun hn => absurd hc hn⟩
    · obtain ⟨t, ht, hpend, hans⟩ := tagRange_answers h hf hc
      obtain ⟨hanswered, hbase, hcount, htags, hside⟩ := tagsSet_answered (formed_req h).2 hans
      refine ⟨t, ht, hpend, fun hy => absurd hy hc, fun _ => ⟨hanswered, hbase, hcount, fun x hx => ?_, fun x hx => ?_, hside⟩⟩
      · rw [htags]
        exact (tagsSet_get? s.dev r x).1 (by rw [Bool.or_eq_true, inTags_iff, inTags_iff]; exact hx)
      · rw [htags]
        exact (tagsSet_get? s.dev r x).2 (by rw [Bool.eq_false_iff, ne_eq, Bool.or_eq_true, inTags_iff, inTags_iff]; exact hx)
  case _ =>
    have hexec := exec_partRelease_accepted hfind hphase
    rw [if_pos (.inl hdrained)] at hexec
    obtain ⟨hmgmt, hspec⟩ := releasePart_spec s.dev (r.p 0 1)
    generalize s.dev.releasePart (r.p 0 1) = e at hexec hmgmt hspec
    exact ⟨_, hexec, rfl, congrArg (fun m : Mgmt => m.reqs.modify k fun q => { q with accepted := true, phase := 1 }) hmgmt, hspec⟩
  case _ =>
    have hexec := exec_partRelease_accepted hfind hphase
    rw [if_neg (by simp [hbusy]; omega)] at hexec
    exact hexec
  case _ =>
    have hans := reply_answersWith (d := s.dev.modPart (r.p 0 1) (fun x => { x with drainK := 0 })) (findReq_spec hfind).1 6 0 []
    exact ⟨_, exec_answersWith (exec_partReleaseTimeout hfind (late_of hacc hphase hwaited)) hans rfl rfl, rfl, hans⟩
  case _ =>
    by_cases hp : r.p 0 1 < 16
    · cases hvalid : (s.dev.part (r.p 0 1)).cfg.valid with
      | false =>
        obtain ⟨t, ht, hpend, hans⟩ := exec_replies (formed_req h).1 (exec_partRelease_invalid h hp hvalid)
        exact ⟨t, ht, hpend, fun hge => absurd hp (by omega), fun _ _ => hans⟩
      | true =>
        obtain ⟨d, hexec⟩ := exec_partRelease_next s
        exact ⟨_, hexec, rfl, fun hge => absurd hp (by omega), fun _ hn => absurd hn.symm Bool.false_ne_true⟩
    · obtain ⟨t, ht, hpend, hans⟩ := exec_replies (formed_req h).1 (exec_partRelease_outside h (by omega))
      exact ⟨t, ht, hpend, fun _ => hans, fun hlt => absurd hlt hp⟩
  case _ => exact ingestPort_formed h ⟨hport, hcsi, hpart, hphy, hwidth, hlo, hhi⟩ hstreams
  case _ => exact exec_replies (findReq_spec hfind).1 (exec_ingestPort_accepted hfind)
  case _ => exact exec_replies (formed_req h).1 (exec_powerLimit_outside h hout)
  case _ =>
    have hans := telemetry_answersWith (formed_req h).1 (telemetryOf s.dev (s.dev.mgmt.pow.avsRead.getD s.dev.fresh.1))
    exact ⟨_, s.dev.mgmt.pow.avsRead.getD s.dev.fresh.1, exec_answersWith (exec_telemetry h) hans rfl rfl, rfl,
      fun v hv => by rw [hv]; rfl, hans⟩

end Sys2Proof.Proofs

/-! ## The mint and failed host reads (05 R189, R192, R202, R206, R207)

Both statements fail in a frame that leaves out what the model, with the spec, does beside the operation: the rings that hear a
tally's signal, and the purse that gives up sole ownership of a page table's line. -/

namespace Sys2Proof.Safety
open Sys2Proof.Machine

/-! ### What an access to memory leaves of the rings and the tallies -/

theorem MemorySide.ring {d e : Dev} (h : MemorySide d e) (f r : Nat) : e.ring f r = d.ring f r := by
  obtain ⟨-, hfunc, -⟩ := h
  unfold Dev.ring
  rw [hfunc f]

theorem MemorySide.tly {d e : Dev} (h : MemorySide d e) : e.tly = d.tly := by
  obtain ⟨he, -⟩ := h
  rw [he]

end Sys2Proof.Safety

namespace Sys2Proof.Proofs
open Sys2Proof.Machine Sys2Proof.Safety

theorem mapBit_memorySide (d : Dev) (x : Pool) (k : Nat) : MemorySide d (d.mapBit x k).2 := mapByte_memorySide d x (k / 8)

theorem tally_congr {d e : Dev} (h : e.tly = d.tly) (n : Nat) : e.tally n = d.tally n := by
  unfold Dev.tally
  rw [h]

theorem keeping_ring (s : State) (d : Dev) (f r : Nat) : (keeping s d).dev.ring f r = d.ring f r := rfl

/-! ### The rings that hear a tally (07 R258) -/

/-- A ring after a signal of tally `n`: a device-written ring that waits on it reads its slot again. -/
def hearing (n : Nat) (x : Ring) : Ring :=
  if x.kind && x.dbTally == n && x.st == .active then { x with slotEmpty := false } else x

theorem ringsHear_ring (d : Dev) (n f r : Nat) : (d.ringsHear n).ring f r = hearing n (d.ring f r) := by
  unfold Dev.ringsHear Dev.ring Dev.func Tab.get
  simp only [get?_mapv]
  cases Tab.get? d.funcs f with
  | none => rfl
  | some u =>
    simp only [Option.map_some, Option.getD_some, get?_mapv]
    cases Tab.get? u.rings r with
    | none => rfl
    | some x => rfl

/-- A ring that waits, device-written, for a signal of tally `n`. -/
def Hears (d : Dev) (n f r : Nat) : Prop := (d.ring f r).kind = true ∧ (d.ring f r).dbTally = n ∧ (d.ring f r).st = .active

theorem hearing_slotEmpty {d : Dev} {n f r : Nat} (h : Hears d n f r) : (hearing n (d.ring f r)).slotEmpty = false := by
  obtain ⟨hkind, htally, hst⟩ := h
  unfold hearing
  rw [hkind, htally, hst, if_pos (by simp)]

/-- An increment by 1 of an owned tally that is not lost is heard by every ring whose doorbell it is. -/
theorem agentSignal_ring {d : Dev} {p n : Nat} (howned : d.tallyOwned p n = true) (hlost : (d.tally n).lost = false)
    (src : TallySrc) (f r : Nat) : (d.agentSignal src p n true 1).ring f r = hearing n (d.ring f r) := by
  have hcount : MemorySide d (d.countGlobal 4 1) := count_memorySide d _ _
  have hkept : ((d.countGlobal 4 1).tally n).lost = false := by rw [tally_congr hcount.tly]; exact hlost
  have hmoves : d.agentSignal src p n true 1 =
      (((d.countGlobal 4 1).tallyTo src n (((d.countGlobal 4 1).tally n).value + 1)).tallyMoved n) := by
    unfold Dev.agentSignal Dev.tallySignal Dev.tallyAdd
    rw [if_pos howned, if_pos rfl]
    dsimp only
    rw [hkept, if_neg Bool.false_ne_true, if_neg (by decide), if_pos (by decide)]
  rw [hmoves, ← hcount.ring f r]
  exact ringsHear_ring _ _ _ _

/-! ### An object taken (05 R202, R207) -/

/-- The pool after its object at CURSOR is taken and its free count falls below LOW_WATER. -/
def taken (x : Pool) : Pool :=
  { x with cursor := (x.cursor + 1) % max 1 x.count, free := x.free - 1, minFree := min x.minFree (x.free - 1), below := true }

theorem firstClear_at {d : Dev} {x : Pool} (hcursor : x.cursor < x.count) (hbit : (d.mapBit x x.cursor).1 = false) :
    d.firstClear x x.cursor x.count = (some x.cursor, (d.mapBit x x.cursor).2) := by
  have hmod : x.cursor % max 1 x.count = x.cursor := Nat.mod_eq_of_lt (by omega)
  obtain ⟨n, hn⟩ : ∃ n, x.count = n + 1 := ⟨x.count - 1, by omega⟩
  have hpair : d.mapBit x x.cursor = (false, (d.mapBit x x.cursor).2) := by rw [← hbit]
  rw [hn] at hmod ⊢
  unfold Dev.firstClear
  rw [hn, hmod, hpair]

/-- A pool that falls from LOW_WATER with TALLY_EN signals its tally; before that, nothing but its bitmap's memory is touched. -/
theorem mintTake_falls {d : Dev} {p i : Nat} {x : Pool} (hx : d.pool p i = x) (hcursor : x.cursor < x.count)
    (hbit : (d.mapBit x x.cursor).1 = false) (hfree : x.free ≠ 0) (hlow : x.lowWater = x.free) (hen : x.tallyEn = true) :
    ∃ e, MemorySide d e ∧ d.mintTake p i =
      (some (x.base + x.cursor * 2 ^ x.sizeLog2), (e.setPool p i (taken x)).agentSignal .mint p x.tally true 1) := by
  refine ⟨(d.mapBit x x.cursor).2.setMapBit x x.cursor true,
    (mapBit_memorySide _ _ _).trans (setMapBit_memorySide _ _ _ _), ?_⟩
  have hfalls : (x.lowWater != 0 && x.free == x.lowWater) = true := by simp [hlow, hfree]
  unfold Dev.mintTake
  simp only [hx, if_neg hfree, firstClear_at hcursor hbit, hfalls, Bool.true_and, Bool.or_true, if_pos hen]
  rfl

/-- The MALLOC of a lane that takes a pool's free count below LOW_WATER wakes the rings whose doorbell tally the pool names. -/
theorem mintLanes_wakes_ring {d : Dev} {q : MintReq} {l f r : Nat} {x : Pool} (hx : d.pool q.part q.pool = x)
    (hcursor : x.cursor < x.count) (hbit : (d.mapBit x x.cursor).1 = false) (hfree : x.free ≠ 0) (hlow : x.lowWater = x.free)
    (hen : x.tallyEn = true) (howned : d.tallyOwned q.part x.tally = true) (hlost : (d.tally x.tally).lost = false)
    (hhears : Hears d x.tally f r) : ((d.mintLanes q [l]).ring f r).slotEmpty = false := by
  obtain ⟨e, hside, htake⟩ := mintTake_falls hx hcursor hbit hfree hlow hen
  have htally : (e.setPool q.part q.pool (taken x)).tally x.tally = d.tally x.tally := tally_congr hside.tly _
  have hring : (e.setPool q.part q.pool (taken x)).ring f r = d.ring f r := hside.ring f r
  have hanswer : d.mintLanes q [l] = ((e.setPool q.part q.pool (taken x)).agentSignal .mint q.part x.tally true 1).answer
      q.core q.strand l l (x.base + x.cursor * 2 ^ x.sizeLog2) := by
    unfold Dev.mintLanes
    rw [htake]
    rfl
  rw [hanswer, (answer_coreSide _ _ _ _ _ _).memorySide.ring, agentSignal_ring (by unfold Dev.tallyOwned; rw [htally]; exact howned)
    (by rw [htally]; exact hlost), hring]
  exact hearing_slotEmpty hhears

/-- The device when call `k` has left the mint's queue. -/
def callTaken (d : Dev) (k : Nat) : Dev := { d with mint := { d.mint with calls := d.mint.calls.eraseIdx k } }

/-- MINT_CALL serves a MALLOC of a pool that kernels may use lane by lane (05 R202, R206). -/
theorem exec_mintCall_malloc {s : State} {k : Nat} {q : MintReq} (hq : s.dev.mint.calls[k]? = some q) (hrun : s.dev.running = true)
    (hfirst : (s.dev.mint.calls.take k).any (fun x => x.part == q.part && x.pool == q.pool) = false)
    (hafter : q.after.any (fun id => Tab.has (s.dev.core q.core).ops id) = false) (hmalloc : q.free = none)
    (husable : (!(((callTaken s.dev k).countGlobal 3 1).pool q.part q.pool).valid ||
      !bitOf (((callTaken s.dev k).countGlobal 3 1).pool q.part q.pool).users 0) = false) :
    exec (.mintCall k) s = .next (keeping s (((callTaken s.dev k).countGlobal 3 1).mintLanes q q.lanes)) := by
  show execMintCall k s = _
  unfold callTaken at husable ⊢
  unfold execMintCall
  refine on_eq_keeping ?_
  simp only [hq, hrun, hfirst, hafter, hmalloc, husable, Bool.not_true, Bool.or_self, Bool.false_eq_true, if_false]

/-! ### A device with one table -/

/-- A running device whose context 0 has a table at 0x1000 that is its own upper levels, with further entries `entries`: DVA
0x200000 is mapped by the entry at 0x1008 (05 R187, R189). -/
def oneTable (entries : Mem) : Dev :=
  { Dev.blank with
    mmu := { Dev.blank.mmu with dramSize := 2 ^ 21, ctxs := [(0, { valid := true, part := 0, func := 0, root := 1 })] }
    parts := [(0, { Part.zero with wins := [(0, { v := true, w := true, base := 0, size := 1 })] })]
    mem := { MemSys.blank with dramLost := false, dram := (0x1000, 0x01) :: (0x1001, 0x10) :: entries } }

/-! ### MALLOC of a pool whose tally is a doorbell -/

/-- One free object of one, at LOW_WATER, with TALLY_EN for tally 0; its bitmap is at DVA 0x200000, physical address 0. -/
def lastObject : Pool :=
  { valid := true, users := 1, sizeLog2 := 6, tallyEn := true, tally := 0, lowWater := 1, count := 1, ctx := 0
    metaDva := 0x200000, base := 0x200040, cursor := 0, free := 1, minFree := 1, below := false, exhausted := false }

/-- A MALLOC of one lane. -/
def oneLane : MintReq := { part := 0, pool := 0, core := 0, strand := 0, lanes := [0], free := none, after := [] }

/-- Ring 0 of function 0 is device-written and has found its slot empty; its doorbell tally is the pool's. -/
def emptySlot : Ring := { Ring.empty with en := true, kind := true, st := .active, slotEmpty := true }

/-- The block in which the call waits. -/
def doorbellPool : State :=
  { pending := []
    dev := { oneTable [(0x1008, 0x0B)] with
      funcs := [(0, { Func.reset 0 with rings := [(0, emptySlot)], bme := true })]
      tly := { Dev.blank.tly with tallies := [(0, { Tally.none with owner := some 0 })] }
      mint := { pools := [(0, lastObject)], calls := [oneLane] } } }

/-- The device as the call is served. -/
def doorbellServed : Dev := (callTaken doorbellPool.dev 0).countGlobal 3 1

theorem doorbellServed_bit_clear : (doorbellServed.mapBit lastObject 0).1 = false := by decide +kernel

theorem mintCall_wakes_emptySlot {t : State} (h : exec (.mintCall 0) doorbellPool = .next t) :
    (t.dev.ring 0 0).slotEmpty = false := by
  have hserved : exec (.mintCall 0) doorbellPool = .next (keeping doorbellPool (doorbellServed.mintLanes oneLane [0])) :=
    exec_mintCall_malloc rfl rfl rfl rfl rfl rfl
  obtain rfl := Host.Outcome.next.inj (hserved.symm.trans h)
  rw [keeping_ring]
  exact mintLanes_wakes_ring (x := lastObject) rfl (by decide) doorbellServed_bit_clear (by decide) rfl rfl rfl rfl ⟨rfl, rfl, rfl⟩

/-- Refutes O21: MINT_CALL is said to touch nothing of a function but its vectors, and a MALLOC that takes its pool below
LOW_WATER signals the pool's tally (05 R207), which each device-written ring hears whose doorbell tally that is (07 R258). In
`doorbellPool` ring 0's slot counts as empty before the call and not after it. -/
theorem not_mintCallsAreQueuedAndServed : ¬ Obligations.MintCallsAreQueuedAndServed := by
  intro h
  obtain ⟨-, hserved⟩ := h
  obtain ⟨t, hexec, -, -, -, hside, -⟩ := hserved doorbellPool 0 oneLane rfl rfl (fun x hx => nomatch hx)
    (fun id hid => nomatch hid)
  have hwoken := mintCall_wakes_emptySlot hexec
  have hkept : t.dev.ring 0 0 = emptySlot := hside.ring 0 0
  rw [hkept] at hwoken
  exact absurd hwoken (by decide)

/-! ### COMMAND_FETCH through a table that a purse owns -/

/-- The table's line in a purse, exclusive and clean. -/
def ownedTable : L1Line := { st := .e, way := 0, data := 0, poison := 0, streaming := false, attr := 0 }

/-- Ring 0 of function 0 has one command to fetch, at DVA 0x200000, which is the first host page; the host refuses its line. Core 0
owns the line of the table. -/
def refusedFetch : State :=
  { pending := []
    dev := { oneTable [(0x1008, 0x0B), (0x100D, 0x80)] with
      funcs := [(0, { Func.reset 0 with
        rings := [(0, { Ring.empty with en := true, st := .active, base := 0x200, tail := 1 })], bme := true })]
      cores := [(0, { Core.empty with l1 := [(32, ownedTable)] })]
      mem := { (oneTable [(0x1008, 0x0B), (0x100D, 0x80)]).mem with
        dir := [(32, { way := 0, st := .x 0 })], refused := [2 ^ 40] } } }

theorem refusedFetch_translates : (refusedFetch.dev.xlate (feAgent 0 0) 0x200000 .read).1.toOption = some (2 ^ 47, 0) := by
  decide +kernel

theorem refusedFetch_refused : (refusedFetch.dev.xlate (feAgent 0 0) 0x200000 .read).2.hostRefuses 0 (2 ^ 47 / 128) = true := by
  decide +kernel

/-- The walk reads the table's line as a unit that is no core, so the owner keeps it in S (04 Table 4-9). -/
theorem commandFetch_shares_table {t : State} (h : exec (.commandFetch 0 0) refusedFetch = .next t) :
    (Tab.get? (t.dev.core 0).l1 32).map L1Line.st = some .s := by
  cases h
  decide +kernel

theorem eq_ok_of_toOption {ε α : Type} {x : Except ε α × Dev} {a : α} (h : x.1.toOption = some a) : x = (.ok a, x.2) := by
  obtain ⟨r, d⟩ := x
  cases r with
  | error e => cases h
  | ok b => cases h; rfl

/-- Refutes O22: COMMAND_FETCH of a command that the host refuses is said to leave every core as it was, and the table walk before
the refused read is coherent (05 R189; 04 R163). In `refusedFetch` core 0 holds the table's line in E before the fetch and in S
after it. -/
theorem not_invalidationsFaultRecordsAndFailedReads : ¬ Obligations.InvalidationsFaultRecordsAndFailedReads := by
  intro h
  obtain ⟨-, hreads⟩ := h
  obtain ⟨-, hfetch, -⟩ := hreads refusedFetch rfl
  obtain ⟨t, j, hexec, -, -, -, -, -, -, -, -, hcores, -⟩ := hfetch 0 0 (2 ^ 47) 0 _ rfl rfl rfl rfl (by decide)
    (eq_ok_of_toOption refusedFetch_translates) refusedFetch_refused
  have hshared := commandFetch_shares_table hexec
  rw [core_congr hcores 0] at hshared
  exact absurd hshared (by decide)

end Sys2Proof.Proofs

/-! ## The tally block (06 R222-R226, R231, R235) -/

namespace Sys2Proof.Proofs
open Sys2Proof.Machine Sys2Proof.Safety

/-! ### Ahead, as 64-bit serial numbers (00 R21) -/

theorem toBits_sub_toNat (a b : BitVec 64) : toBits 64 ((a.toNat : Int) - b.toNat) = (a - b).toNat := by
  have ha := a.isLt
  have hb := b.isLt
  unfold toBits
  rw [BitVec.toNat_sub]
  omega

theorem serialAhead_iff (a b : BitVec 64) :
    serialAhead a.toNat b.toNat 64 = true ↔ 1 ≤ (a - b).toNat ∧ (a - b).toNat ≤ 2 ^ 63 - 1 := by
  unfold serialAhead
  simp [toBits_sub_toNat]

/-! ### One tally changes -/

/-- The block has made tally `n` what `y` says: no other tally, no operation on its way and nothing outside `TallySide` differs. -/
structure TallyBecomes (n : Nat) (y : Tally) (d e : Dev) : Prop where
  side : TallySide d e
  ops : e.tly.ops = d.tly.ops
  here : e.tally n = y
  others : ∀ m, m ≠ n → e.tally m = d.tally m

theorem TallyBecomes.trans {n : Nat} {y z : Tally} {d e g : Dev} (h : TallyBecomes n y d e) (k : TallyBecomes n z e g) :
    TallyBecomes n z d g where
  side := by
    have hside := h.side
    have kside := k.side
    unfold TallySide at *
    rw [kside, hside]
  ops := k.ops.trans h.ops
  here := k.here
  others m hm := (k.others m hm).trans (h.others m hm)

theorem TallyBecomes.cores {n : Nat} {y : Tally} {d e : Dev} (h : TallyBecomes n y d e) : e.cores = d.cores := by rw [h.side]

theorem TallyBecomes.dp {n : Nat} {y : Tally} {d e : Dev} (h : TallyBecomes n y d e) : e.dp = d.dp := by rw [h.side]

theorem TallyBecomes.time {n : Nat} {y : Tally} {d e : Dev} (h : TallyBecomes n y d e) : e.time = d.time := by rw [h.side]

theorem TallyBecomes.fuses {n : Nat} {y : Tally} {d e : Dev} (h : TallyBecomes n y d e) : e.fuses = d.fuses := by rw [h.side]

theorem TallyBecomes.strand? {n : Nat} {y : Tally} {d e : Dev} (h : TallyBecomes n y d e) (ci sid : Nat) :
    e.strand? ci sid = d.strand? ci sid := by
  unfold Dev.strand?
  rw [core_congr h.cores]

theorem countGlobal_becomes (d : Dev) (e k n : Nat) : TallyBecomes n (d.tally n) d (d.countGlobal e k) := by
  have haud : AudSide d (d.countGlobal e k) := count_audSide d _ k
  rw [haud]
  exact ⟨rfl, rfl, rfl, fun _ _ => rfl⟩

theorem violPart_becomes (d : Dev) (p k n : Nat) : TallyBecomes n (d.tally n) d (d.violPart p k) := by
  unfold Dev.violPart
  split
  · exact ⟨rfl, rfl, rfl, fun _ _ => rfl⟩
  · exact ⟨rfl, rfl, rfl, fun _ _ => rfl⟩

/-- Violation counter `k` of a tally's owner, where it has one. -/
def ownerCounted (d : Dev) (owner : Option Nat) (k : Nat) : Dev :=
  match owner with
  | some p => d.violPart p k
  | none => d

theorem ownerCounted_becomes (d : Dev) (owner : Option Nat) (k n : Nat) : TallyBecomes n (d.tally n) d (ownerCounted d owner k) := by
  cases owner with
  | none => exact ⟨rfl, rfl, rfl, fun _ _ => rfl⟩
  | some p => exact violPart_becomes d p k n

theorem setTally_becomes (d : Dev) (n : Nat) (y : Tally) : TallyBecomes n y d (d.setTally n y) where
  side := rfl
  ops := rfl
  here := Tab.get_put_self _ _ _ _
  others _ hm := Tab.get_put_of_ne _ _ _ hm

theorem wakeWaiters_becomes (d : Dev) (n : Nat) (ok : Bool) (met : TallyWaiter → Bool) :
    TallyBecomes n (d.tally n) d (d.wakeWaiters n ok met) :=
  ⟨rfl, rfl, rfl, fun _ _ => rfl⟩

theorem ringsHear_becomes (d : Dev) (n : Nat) : TallyBecomes n (d.tally n) d (d.ringsHear n) :=
  ⟨rfl, rfl, rfl, fun _ _ => rfl⟩

theorem tallyTo_becomes (d : Dev) (src : TallySrc) (n : Nat) (v : BitVec 64) :
    TallyBecomes n { d.tally n with value := v, lastSrc := src.code d.fresh.1 } d (d.tallyTo src n v) := by
  have hfresh : TallyBecomes n (d.tally n) d d.fresh.2 := ⟨rfl, rfl, rfl, fun _ _ => rfl⟩
  have hset := hfresh.trans (setTally_becomes d.fresh.2 n { d.tally n with value := v, lastSrc := src.code d.fresh.1 })
  have hwoken := hset.trans (wakeWaiters_becomes _ n true (fun w => tallyMet v w.target))
  have hheard := hwoken.trans (ringsHear_becomes _ n)
  exact ⟨hheard.side, hheard.ops, hset.here, hheard.others⟩

/-- A SET or ADD that changes VALUE, with the mark that it moved in this epoch (15 R508). -/
theorem moves_becomes (d : Dev) (src : TallySrc) (n : Nat) (v : BitVec 64) :
    TallyBecomes n { d.tally n with value := v, lastSrc := src.code d.fresh.1, moved := true } d ((d.tallyTo src n v).tallyMoved n) := by
  have hto := tallyTo_becomes d src n v
  unfold Dev.tallyMoved
  rw [hto.here]
  exact hto.trans (setTally_becomes _ n _)

theorem tallyStale_becomes (d : Dev) (n : Nat) : TallyBecomes n { d.tally n with stale := true } d (d.tallyStale n) := by
  have hset := setTally_becomes d n { d.tally n with stale := true }
  have hcounted := hset.trans (ownerCounted_becomes _ (d.tally n).owner 7 n)
  rw [hset.here] at hcounted
  exact hcounted

/-! ### SET, ADD and REARM follow R222 -/

/-- The block performs an operation `act` on tally `n` by R222. -/
def Performs (act : TallyAct) (n : Nat) (d e : Dev) : Prop := ∃ y, TallyBecomes n y d e ∧ TallyRule act d.dp.count (d.tally n) y

/-- The block counts an operation before it looks at the tally (16 Table 16-4). -/
theorem performs_of_counted {act : TallyAct} {n : Nat} {d e : Dev} {y : Tally} (h : TallyBecomes n y (d.countGlobal 4 1) e)
    (hrule : TallyRule act d.dp.count (d.tally n) y) : Performs act n d e :=
  ⟨y, (countGlobal_becomes d 4 1 n).trans h, hrule⟩

theorem tallySet_performs (d : Dev) (src : TallySrc) (n : Nat) (v : BitVec 64) : Performs (.set v) n d (d.tallySet src n v) := by
  have hcount : (d.countGlobal 4 1).tally n = d.tally n := (countGlobal_becomes d 4 1 n).here
  unfold Dev.tallySet
  dsimp only
  rw [hcount]
  split
  · next hlost =>
    have hkept := hcount ▸ ownerCounted_becomes (d.countGlobal 4 1) (d.tally n).owner 8 n
    exact performs_of_counted hkept ⟨fun _ => rfl, fun h => by simp [hlost] at h, fun h => by simp [hlost] at h⟩
  · split
    · next heq =>
      have hkept := hcount ▸ ringsHear_becomes (d.countGlobal 4 1) n
      exact performs_of_counted hkept ⟨fun _ => rfl, fun _ h => by simp [heq] at h, fun _ h => by simp [heq] at h⟩
    · next hlost hne =>
      have hnot : ¬ ((d.tally n).lost = true ∨ v = (d.tally n).value) := not_or.mpr ⟨hlost, hne⟩
      split
      · next hahead =>
        have hmoves := hcount ▸ moves_becomes (d.countGlobal 4 1) src n v
        rw [serialAhead_iff] at hahead
        exact performs_of_counted hmoves
          ⟨fun h => absurd h hnot, fun h _ _ => ⟨rfl, h, rfl, rfl, rfl⟩, fun _ h => by omega⟩
      · next hbehind =>
        have hstale := hcount ▸ tallyStale_becomes (d.countGlobal 4 1) n
        rw [serialAhead_iff] at hbehind
        exact performs_of_counted hstale
          ⟨fun h => absurd h hnot, fun _ h1 h2 => absurd ⟨h1, h2⟩ hbehind, fun _ _ => rfl⟩

theorem tallyAdd_performs (d : Dev) (src : TallySrc) (n : Nat) (v : BitVec 64) : Performs (.add v) n d (d.tallyAdd src n v) := by
  have hcount : (d.countGlobal 4 1).tally n = d.tally n := (countGlobal_becomes d 4 1 n).here
  unfold Dev.tallyAdd
  dsimp only
  rw [hcount]
  split
  · next hlost =>
    have hkept := hcount ▸ ownerCounted_becomes (d.countGlobal 4 1) (d.tally n).owner 8 n
    exact performs_of_counted hkept ⟨fun _ => rfl, fun h => by simp [hlost] at h, fun h => by simp [hlost] at h⟩
  · split
    · next hzero =>
      have hkept := hcount ▸ ringsHear_becomes (d.countGlobal 4 1) n
      exact performs_of_counted hkept ⟨fun _ => rfl, fun _ h => absurd hzero h, fun _ h => by simp [hzero] at h⟩
    · next hlost hne =>
      have hnot : ¬ ((d.tally n).lost = true ∨ v = 0) := not_or.mpr ⟨hlost, hne⟩
      split
      · next hsmall =>
        have hmoves := hcount ▸ moves_becomes (d.countGlobal 4 1) src n ((d.tally n).value + v)
        exact performs_of_counted hmoves
          ⟨fun h => absurd h hnot, fun h _ _ => ⟨rfl, h, rfl, rfl, rfl⟩, fun _ h => by omega⟩
      · next hlarge =>
        have hstale := hcount ▸ tallyStale_becomes (d.countGlobal 4 1) n
        exact performs_of_counted hstale ⟨fun h => absurd h hnot, fun _ _ h => absurd h hlarge, fun _ _ => rfl⟩

/-- A tally whose marks a REARM has cleared; `gen` is the count of data-plane resets. -/
def unmarked (gen : Nat) (x : Tally) : Tally := { x with lost := false, stale := false, resetGen := gen % 256 }

theorem tallyRearm_performs (d : Dev) (src : TallySrc) (n : Nat) (v : BitVec 64) :
    Performs (.rearm v) n d (d.tallyRearm src n v) := by
  have hcount := countGlobal_becomes d 4 1 n
  have hset := setTally_becomes (d.countGlobal 4 1) n (unmarked d.dp.count (d.tally n))
  unfold Dev.tallyRearm
  dsimp only
  rw [hcount.here, hcount.dp]
  split
  · next heq =>
    have hvalue : (unmarked d.dp.count (d.tally n)).value = v := hset.here ▸ heq
    have hwoken := hset.trans (hset.here ▸ wakeWaiters_becomes _ n true (fun w => tallyMet v w.target))
    exact performs_of_counted hwoken ⟨hvalue, rfl, rfl, rfl, rfl⟩
  · have hto := hset.trans (hset.here ▸ tallyTo_becomes _ src n v)
    exact performs_of_counted hto ⟨rfl, rfl, rfl, rfl, rfl⟩

/-! ### WAIT reaches the block (06 R224, R226) -/

theorem tallyWait_becomes (d : Dev) (who : TallyWho) (n : Nat) (target : BitVec 64) :
    TallyBecomes n (d.tally n) d (d.tallyWait who n target) := by
  have hcount := countGlobal_becomes d 4 1 n
  rw [← hcount.here]
  unfold Dev.tallyWait
  dsimp only
  split
  · exact hcount.trans ⟨rfl, rfl, rfl, fun _ _ => rfl⟩
  · split
    · exact hcount.trans ⟨rfl, rfl, rfl, fun _ _ => rfl⟩
    · exact hcount.trans ⟨rfl, rfl, rfl, fun _ _ => rfl⟩

theorem tallyWait_lost {d : Dev} {n : Nat} (hlost : (d.tally n).lost = true) (who : TallyWho) (target : BitVec 64) :
    ⟨who, false⟩ ∈ (d.tallyWait who n target).tly.wakes := by
  unfold Dev.tallyWait
  dsimp only
  rw [(countGlobal_becomes d 4 1 n).here, if_pos hlost]
  exact List.mem_append_right _ (List.mem_singleton.mpr rfl)

theorem tallyWait_met {d : Dev} {n : Nat} {target : BitVec 64} (hmet : tallyMet (d.tally n).value target = true)
    (hlost : (d.tally n).lost = false) (who : TallyWho) : ⟨who, true⟩ ∈ (d.tallyWait who n target).tly.wakes := by
  unfold Dev.tallyWait
  dsimp only
  rw [(countGlobal_becomes d 4 1 n).here, hlost, if_neg Bool.false_ne_true, if_pos hmet]
  exact List.mem_append_right _ (List.mem_singleton.mpr rfl)

theorem tallyWait_registers {d : Dev} {n : Nat} {target : BitVec 64} (hmet : tallyMet (d.tally n).value target = false)
    (hlost : (d.tally n).lost = false) (who : TallyWho) : ⟨who, n, target⟩ ∈ (d.tallyWait who n target).tly.waiters := by
  unfold Dev.tallyWait
  dsimp only
  rw [(countGlobal_becomes d 4 1 n).here, hlost, hmet, if_neg Bool.false_ne_true, if_neg Bool.false_ne_true]
  exact List.mem_append_right _ (List.mem_singleton.mpr rfl)

/-! ### A strand's only answer (06 R230-R232) -/

theorem answer_of_only {d : Dev} {ci sid key lane v : Nat} {st : Strand} {w : BitVec 64} (hst : d.strand? ci sid = some st)
    (hwait : st.wait = .op w [key] []) : d.answer ci sid key lane v = d.finishOp ci sid st w [(lane, v)] := by
  unfold Dev.answer
  simp [hst, hwait]

theorem advance_spec {d : Dev} {ci sid : Nat} {st : Strand} (hst : d.strand? ci sid = some st) :
    (d.advance ci sid).strand? ci sid = some { st with pc := (st.pc + 8) % 2 ^ 48, wait := .ready, backoff := 0 } ∧
    ∀ slot lane code, (d.advance ci sid).readW ci slot lane code = d.readW ci slot lane code := by
  obtain ⟨-, hself, -, hreads⟩ := goto_spec hst (st.pc + 8)
  have hgoto : d.advance ci sid = d.goto ci sid (st.pc + 8) := by
    unfold Dev.advance
    rw [hst]
  rw [hgoto]
  exact ⟨hself, hreads⟩

theorem writeLanes_single {d : Dev} {ci lane slot dst n : Nat} (hdst : dst ≠ 0xFF) (v : Nat → Nat → Nat) :
    d.writeLanes ci [(lane, slot)] dst n v = d.writeN ci slot lane dst (v lane slot) n := by
  have hwriters : writers [(lane, slot)] dst = [(lane, slot)] := by simp [writers]
  unfold Dev.writeLanes
  rw [if_neg hdst, hwriters]
  rfl

/-- A TSIG is answered without a result. -/
theorem answer_tsig {d : Dev} {ci sid key lane : Nat} {st : Strand} {w : BitVec 64} (hst : d.strand? ci sid = some st)
    (hwait : st.wait = .op w [key] []) (hopc : opcOf w = 0x62) (v : Nat) : d.answer ci sid key lane v = d.advance ci sid := by
  rw [answer_of_only hst hwait]
  simp [Dev.finishOp, resultWords, hopc]

theorem wf_statusBit_ne_one {w : BitVec 64} (h : (subOf w).testBit 15 = false) : wf w 15 15 ≠ 1 := by
  unfold subOf wf fld at *
  rw [Nat.testBit_eq_decide_div_mod_eq, Nat.shiftRight_eq_div_pow] at h
  rw [Nat.shiftRight_eq_div_pow]
  simp only [decide_eq_false_iff_not] at h
  omega

/-- A one-lane TREAD of a VALUE is answered with a register pair. -/
theorem answer_tread {d : Dev} {ci sid key lane slot : Nat} {st : Strand} {w : BitVec 64} (hst : d.strand? ci sid = some st)
    (hwait : st.wait = .op w [key] []) (hopc : opcOf w = 0x64) (hvalue : (subOf w).testBit 15 = false)
    (hlanes : st.lanes = [(lane, slot)]) (hdst : dstOf w < 0x7F) (v : Nat) :
    d.answer ci sid key lane v = (d.writeN ci slot lane (dstOf w) v 2).advance ci sid := by
  have hwords : resultWords w = 2 := by
    simp [resultWords, hopc, wf_statusBit_ne_one hvalue]
  rw [answer_of_only hst hwait]
  simp [Dev.finishOp, hopc, hwords, hlanes, writeLanes_single (show dstOf w ≠ 0xFF by omega)]

/-- A one-lane TWAIT is answered with one word. -/
theorem answer_twait {d : Dev} {ci sid lane slot : Nat} {st : Strand} {w : BitVec 64} (hst : d.strand? ci sid = some st)
    (hwait : st.wait = .op w [slot] []) (hopc : opcOf w = 0x63) (hactive : d.active ci st w = [(lane, slot)]) (hdst : dstOf w < 0xC7)
    (v : Nat) : d.answer ci sid slot slot v = (d.writeW ci slot lane (dstOf w) (v % 2 ^ 32)).advance ci sid := by
  rw [answer_of_only hst hwait]
  simp [Dev.finishOp, hopc, hactive, writeLanes_single (show dstOf w ≠ 0xFF by omega), Dev.writeN]

theorem readP_writeN_two {d : Dev} {ci slot lane dst : Nat} (v : Nat) (hgroup : Tab.has (d.core ci).groups slot = true)
    (hdst : dst < 0x7F) : (d.writeN ci slot lane dst v 2).readP ci slot lane dst = v % 2 ^ 64 := by
  have hkept : Tab.has ((d.writeW ci slot lane dst (v % 2 ^ 32)).core ci).groups slot = true := by
    obtain ⟨-, -, -, -, hhas⟩ := writeW_issueOnly d ci slot lane dst (v % 2 ^ 32)
    rw [hhas]
    exact hgroup
  have hlow : (d.writeN ci slot lane dst v 2).readW ci slot lane dst = v % 2 ^ 32 := by
    simp only [Dev.writeN]
    rw [readW_writeW_miss _ _ (by omega) (by omega), readW_writeW_hit d _ hgroup (by omega) (.inl rfl), if_pos (by omega), Nat.mod_mod]
  have hhigh : (d.writeN ci slot lane dst v 2).readW ci slot lane (dst + 1) = v / 2 ^ 32 % 2 ^ 32 := by
    simp only [Dev.writeN]
    rw [readW_writeW_hit _ _ hkept (by omega) (.inl rfl), if_pos (by omega), Nat.mod_mod]
  unfold Dev.readP isReg
  rw [hlow, hhigh, if_pos (by simp; omega)]
  omega

/-! ### TALLY_OPERATION (06 R223) -/

/-- The device when operation `k` has left the list of those on their way. -/
def opTaken (d : Dev) (k : Nat) : Dev := { d with tly := { d.tly with ops := d.tly.ops.eraseIdx k } }

theorem exec_tallyOperation {s : State} {k : Nat} {o : TallyOp} (hop : s.dev.tly.ops[k]? = some o)
    (hfirst : ∀ x ∈ s.dev.tly.ops.take k, ¬ (x.src = o.src ∧ x.tally = o.tally)) (hreleased : s.dev.released o = true) :
    exec (.tallyOperation k) s = .next (keeping s ((opTaken s.dev k).tallyDo o)) := by
  have hnone : (s.dev.tly.ops.take k).any (fun x => x.src == o.src && x.tally == o.tally) = false := by
    simpa [List.any_eq_false] using hfirst
  show execTallyOperation k s = _
  unfold execTallyOperation
  refine on_eq_keeping ?_
  simp only [hop, hnone, hreleased, Bool.not_true, Bool.or_self, Bool.false_eq_true, if_false]
  rfl

theorem tallyDo_wait {d : Dev} {o : TallyOp} {core sid key : Nat} {target : BitVec 64} (howned : d.tallyOwned o.part o.tally = true)
    (hact : o.act = .wait target) (hanswer : o.answer = .strand core sid key) :
    d.tallyDo o = d.tallyWait (.core core sid key) o.tally target := by
  unfold Dev.tallyDo
  simp [howned, hact, hanswer]

theorem read_performs (d : Dev) (status : Bool) (n : Nat) : Performs (.read status) n d (d.countGlobal 4 1) :=
  ⟨_, countGlobal_becomes d 4 1 n, rfl⟩

/-- Any operation but a WAIT is performed and its strand answered; a READ of VALUE answers it. -/
theorem tallyDo_answers {d : Dev} {o : TallyOp} {core sid key : Nat} (howned : d.tallyOwned o.part o.tally = true)
    (hact : ∀ target, o.act ≠ .wait target) (hanswer : o.answer = .strand core sid key) :
    ∃ e v, d.tallyDo o = e.answer core sid key key v ∧ Performs o.act o.tally d e ∧
      (o.act = .read false → v = (d.tally o.tally).value.toNat) := by
  have hback : ∀ (e : Dev) v, e.tallyAnswer o v = e.answer core sid key key v := fun e v => by
    unfold Dev.tallyAnswer
    rw [hanswer]
  unfold Dev.tallyDo
  simp only [howned, Bool.not_true, Bool.false_eq_true, if_false, hback]
  cases h : o.act with
  | set v => exact ⟨_, _, rfl, tallySet_performs _ _ _ _, fun h => nomatch h⟩
  | add v => exact ⟨_, _, rfl, tallyAdd_performs _ _ _ _, fun h => nomatch h⟩
  | rearm v => exact ⟨_, _, rfl, tallyRearm_performs _ _ _ _, fun h => nomatch h⟩
  | wait target => exact absurd h (hact target)
  | read status =>
    refine ⟨_, _, rfl, read_performs _ _ _, fun hread => ?_⟩
    obtain rfl := TallyAct.read.inj hread
    rfl

theorem tallyOperation_waits {s : State} {k core sid key : Nat} {o : TallyOp} {target : BitVec 64}
    (hexec : exec (.tallyOperation k) s = .next (keeping s ((opTaken s.dev k).tallyDo o)))
    (howned : s.dev.tallyOwned o.part o.tally = true) (hact : o.act = .wait target) (hanswer : o.answer = .strand core sid key) :
    exec (.tallyOperation k) s = .next (withDev s ((opTaken s.dev k).tallyWait (.core core sid key) o.tally target)) := by
  have hbecomes := tallyWait_becomes (opTaken s.dev k) (.core core sid key) o.tally target
  rw [hexec, tallyDo_wait (d := opTaken s.dev k) howned hact hanswer]
  exact congrArg _ (keeping_of_kept hbecomes.time hbecomes.fuses)

theorem tallyOperation_answers {s : State} {k core sid key : Nat} {o : TallyOp}
    (hexec : exec (.tallyOperation k) s = .next (keeping s ((opTaken s.dev k).tallyDo o)))
    (howned : s.dev.tallyOwned o.part o.tally = true) (hact : ∀ target, o.act ≠ .wait target)
    (hanswer : o.answer = .strand core sid key) :
    ∃ e v, exec (.tallyOperation k) s = .next (withDev s (e.answer core sid key key v)) ∧
      Performs o.act o.tally (opTaken s.dev k) e ∧ (o.act = .read false → v = (s.dev.tally o.tally).value.toNat) := by
  obtain ⟨e, v, hdo, hperforms, hread⟩ := tallyDo_answers (d := opTaken s.dev k) howned hact hanswer
  refine ⟨e, v, ?_, hperforms, hread⟩
  obtain ⟨y, hbecomes, -⟩ := hperforms
  have hside := (answer_coreSide e core sid key key v).memorySide
  rw [hexec, hdo]
  exact congrArg _ (keeping_of_kept (hside.time.trans hbecomes.time) (hside.fuses.trans hbecomes.fuses))

/-- The answer of a one-lane TREAD of a VALUE: the pair of DST holds it. -/
theorem answer_tread_rdVal {d : Dev} {ci sid key lane slot : Nat} {st : Strand} {w : BitVec 64} (hst : d.strand? ci sid = some st)
    (hwait : st.wait = .op w [key] []) (hopc : opcOf w = 0x64) (hvalue : (subOf w).testBit 15 = false)
    (hlanes : st.lanes = [(lane, slot)]) (hgroup : Tab.has (d.core ci).groups slot = true) (hdst : dstOf w < 0x7F) (x : BitVec 64) :
    (d.answer ci sid key lane x.toNat).rdVal ci slot lane (dstOf w) 2 = x.toNat := by
  have hwritten : (d.writeN ci slot lane (dstOf w) x.toNat 2).strand? ci sid = some st := by rw [writeN_strand?, hst]
  obtain ⟨-, hreads⟩ := advance_spec hwritten
  rw [answer_tread hst hwait hopc hvalue hlanes hdst]
  calc
    _ = (d.writeN ci slot lane (dstOf w) x.toNat 2).readP ci slot lane (dstOf w) := by simp only [Dev.rdVal, if_true, Dev.readP, hreads]
    _ = x.toNat := by rw [readP_writeN_two _ hgroup hdst, Nat.mod_eq_of_lt x.isLt]

/-! ### TALLY_WAKE and TWAIT_TIMEOUT (06 R231, R235) -/

/-- The device when wake `k` has left the list of those on their way. -/
def wakeTaken (d : Dev) (k : Nat) : Dev := { d with tly := { d.tly with wakes := d.tly.wakes.eraseIdx k } }

/-- The device when a strand's TWAIT for a group is withdrawn, wherever it is on its way. -/
def withdrawn (d : Dev) (core sid slot : Nat) : Dev :=
  let e := d.unwait (.core core sid slot)
  { e with tly := { e.tly with ops := e.tly.ops.filter (fun o => o.answer != TallyAnswer.strand core sid slot) } }

theorem exec_tallyWake_core {s : State} {k core sid slot : Nat} {met : Bool}
    (hwake : s.dev.tly.wakes[k]? = some ⟨.core core sid slot, met⟩) :
    exec (.tallyWake k) s = .next (keeping s ((wakeTaken s.dev k).answer core sid slot slot (b2n met))) := by
  show execTallyWake k s = _
  unfold execTallyWake
  refine on_eq_keeping ?_
  simp only [hwake]
  rfl

theorem exec_twaitTimeout {s : State} {core sid slot : Nat} {st : Strand} {w : BitVec 64}
    (hst : s.dev.strand? core sid = some st) (hwait : st.wait = .op w [slot] []) (hopc : opcOf w = 0x63)
    (htimeout : fld (subOf w) 15 12 ≠ 0) :
    exec (.twaitTimeout core sid slot) s = .next (keeping s ((withdrawn s.dev core sid slot).answer core sid slot slot 0)) := by
  have htwait : twaitOf st slot = true := by
    unfold twaitOf
    simp [hwait, hopc, htimeout]
  show execTwaitTimeout core sid slot s = _
  unfold execTwaitTimeout
  refine on_eq_keeping ?_
  simp only [hst, htwait, Bool.not_true, Bool.false_eq_true, if_false]
  rfl

theorem withdrawn_waiters {d : Dev} {core sid slot : Nat} {x : TallyWaiter} (h : x ∈ (withdrawn d core sid slot).tly.waiters) :
    x.who ≠ .core core sid slot := by
  obtain ⟨-, hwho⟩ := List.mem_filter.mp h
  simpa using hwho

/-- The answer of a one-lane TWAIT: its result 0 or 1 is in DST and the strand goes on. -/
theorem answer_twait_spec {d : Dev} {ci sid lane slot v : Nat} {st : Strand} {w : BitVec 64} (hst : d.strand? ci sid = some st)
    (hwait : st.wait = .op w [slot] []) (hopc : opcOf w = 0x63) (hactive : d.active ci st w = [(lane, slot)])
    (hgroup : Tab.has (d.core ci).groups slot = true) (hdst : dstOf w < 0xC7) (hv : v < 2) :
    (d.answer ci sid slot slot v).readW ci slot lane (dstOf w) = v ∧
    (d.answer ci sid slot slot v).strand? ci sid = some { st with pc := (st.pc + 8) % 2 ^ 48, wait := .ready, backoff := 0 } := by
  have hwritten : (d.writeW ci slot lane (dstOf w) (v % 2 ^ 32)).strand? ci sid = some st := by rw [writeW_strand?, hst]
  obtain ⟨hself, hreads⟩ := advance_spec hwritten
  rw [answer_twait hst hwait hopc hactive hdst]
  refine ⟨?_, hself⟩
  rw [hreads, readW_writeW_hit d _ hgroup hdst (.inl rfl)]
  split
  · omega
  · omega

/-! ### The statement -/

/-- Settles O20: an operation either is a WAIT, which the block answers or registers, or is performed by R222 and then answered;
a strand with one answer to come takes it and goes on. -/
theorem tallyBlockPerformsAndAnswers : Obligations.TallyBlockPerformsAndAnswers := by
  unfold Obligations.TallyBlockPerformsAndAnswers
  refine ⟨fun s k core sid key o st w hop hfirst hreleased howned hanswer hst hwait => ?_,
    fun s core sid slot lane st w hst hwait hopc _ hactive hgroup hdst => ⟨fun k hwake => ?_, fun htimeout => ?_⟩⟩
  · have hexec := exec_tallyOperation hop hfirst hreleased
    by_cases hact : ∃ target, o.act = .wait target
    · obtain ⟨target, hact⟩ := hact
      have hbecomes := tallyWait_becomes (opTaken s.dev k) (.core core sid key) o.tally target
      refine ⟨_, tallyOperation_waits hexec howned hact hanswer, rfl, hbecomes.ops, ?_, hbecomes.others, fun target' hact' => ?_,
        fun hnot => absurd hact (hnot target), fun _ _ hread => absurd (hact.symm.trans hread) nofun⟩
      · rw [hact]
        exact hbecomes.here
      · obtain rfl := TallyAct.wait.inj (hact.symm.trans hact')
        exact ⟨(hbecomes.strand? core sid).trans hst, fun hmet hlost => tallyWait_met (d := opTaken s.dev k) hmet hlost _,
          fun hlost => tallyWait_lost (d := opTaken s.dev k) hlost _ _,
          fun hmet hlost => tallyWait_registers (d := opTaken s.dev k) hmet hlost _⟩
    · obtain ⟨e, v, hnext, ⟨y, hbecomes, hrule⟩, hread⟩ := tallyOperation_answers hexec howned (not_exists.mp hact) hanswer
      have hste : e.strand? core sid = some st := (hbecomes.strand? core sid).trans hst
      have htly : (e.answer core sid key key v).tly = e.tly := (answer_coreSide e core sid key key v).memorySide.tly
      refine ⟨_, hnext, rfl, (congrArg (·.ops) htly).trans hbecomes.ops, ?_,
        fun m hm => (tally_congr htly m).trans (hbecomes.others m hm), fun target hwaits => absurd ⟨target, hwaits⟩ hact,
        fun _ hopc => ?_, fun lane slot hvalue hopc hpair hkey hlanes hgroup hdst => ?_⟩
      · show TallyRule _ _ _ ((e.answer core sid key key v).tally o.tally)
        rw [tally_congr htly, hbecomes.here]
        exact hrule
      · show (e.answer core sid key key v).strand? core sid = _
        rw [answer_tsig hste hwait hopc]
        exact (advance_spec hste).1
      · subst hkey
        rw [hread hvalue]
        refine answer_tread_rdVal hste hwait hopc hpair hlanes ?_ hdst _
        rw [core_congr hbecomes.cores]
        exact hgroup
  · have hside := (answer_coreSide (wakeTaken s.dev k) core sid slot slot 1).memorySide
    obtain ⟨hresult, hstrand⟩ := answer_twait_spec (d := wakeTaken s.dev k) (v := 1) hst hwait hopc hactive hgroup hdst (by omega)
    exact ⟨_, (exec_tallyWake_core hwake).trans (congrArg _ (keeping_of_kept hside.time hside.fuses)), rfl,
      congrArg (·.wakes) hside.tly, hresult, hstrand, congrArg (·.tallies) hside.tly⟩
  · have hside := (answer_coreSide (withdrawn s.dev core sid slot) core sid slot slot 0).memorySide
    obtain ⟨hresult, hstrand⟩ := answer_twait_spec (d := withdrawn s.dev core sid slot) (v := 0) hst hwait hopc hactive hgroup hdst
      (by omega)
    refine ⟨_, (exec_twaitTimeout hst hwait hopc htimeout).trans (congrArg _ (keeping_of_kept hside.time hside.fuses)), rfl, hresult,
      fun x hx => ?_, congrArg (·.tallies) hside.tly, hstrand⟩
    have hx' : x ∈ ((withdrawn s.dev core sid slot).answer core sid slot slot 0).tly.waiters := hx
    rw [hside.tly] at hx'
    exact withdrawn_waiters hx'

end Sys2Proof.Proofs

/-! ## Command rings (07 R245-R272, R278, R279) -/

namespace Sys2Proof.Proofs
open Sys2Proof.Machine Sys2Proof.Safety

/-! ### One ring changes -/

theorem put_put_self {α : Type} (t : Tab α) (k : Nat) (a b : α) : Tab.put (Tab.put t k a) k b = Tab.put t k b := by
  induction t with
  | nil => simp [Tab.put]
  | cons e r ih =>
    obtain ⟨j, c⟩ := e
    by_cases hlt : k < j
    · simp [Tab.put, hlt]
    · by_cases heq : j = k
      · simp [Tab.put, heq]
      · simp [Tab.put, hlt, heq, ih]

theorem modRing_eq (d : Dev) (f r : Nat) (g : Ring → Ring) : d.modRing f r g = withRing d f r (g (d.ring f r)) := rfl

@[simp] theorem func_withRing_self (d : Dev) (f r : Nat) (x : Ring) :
    (withRing d f r x).func f = { d.func f with rings := Tab.put (d.func f).rings r x } := Tab.get_put_self _ _ _ _

@[simp] theorem ring_withRing_self (d : Dev) (f r : Nat) (x : Ring) : (withRing d f r x).ring f r = x := by
  unfold Dev.ring
  rw [func_withRing_self]
  exact Tab.get_put_self _ _ _ _

@[simp] theorem withRing_withRing (d : Dev) (f r : Nat) (x y : Ring) : withRing (withRing d f r x) f r y = withRing d f r y := by
  unfold withRing
  dsimp only
  rw [put_put_self]
  show { d with funcs := Tab.put d.funcs f { (withRing d f r x).func f with
    rings := Tab.put ((withRing d f r x).func f).rings r y } } = _
  rw [func_withRing_self, put_put_self]

theorem ring_withDev (s : State) (d : Dev) (f r : Nat) : (withDev s d).dev.ring f r = d.ring f r := rfl

/-- A meaning that only makes ring `r` of function `f` what `x` says. -/
theorem on_eq_withRing {g : Dev → Dev} {s : State} {f r : Nat} {x : Ring} (h : g s.dev = withRing s.dev f r x) :
    s.on g = .next (withDev s (withRing s.dev f r x)) :=
  on_eq_withDev h rfl rfl

theorem withRing_memorySide {d e : Dev} (h : MemorySide d e) (f r : Nat) (x : Ring) :
    MemorySide (withRing d f r x) (withRing e f r x) := by
  obtain ⟨hdev, hfunc, hpart⟩ := h
  refine ⟨by rw [hdev]; rfl, fun g => ?_, hpart⟩
  by_cases hg : g = f
  · subst hg
    rw [func_withRing_self, func_withRing_self, hfunc g]
  · have hkept : ∀ b : Dev, (withRing b f r x).func g = b.func g := fun b => Tab.get_put_of_ne _ _ _ hg
    rw [hkept, hkept]
    exact hfunc g

/-- After accesses to memory, ring `r` of function `f` becomes `x`. -/
theorem on_eq_memory_withRing {g : Dev → Dev} {s : State} {d : Dev} {f r : Nat} {x : Ring} (h : g s.dev = withRing d f r x)
    (hside : MemorySide s.dev d) : s.on g = .next (withDev s (withRing d f r x)) :=
  on_eq_withDev h hside.time hside.fuses

/-! ### What a unit's reads and writes leave alone -/

theorem foldl_memorySide {α β : Type} {g : Except AccFail α × Dev → β → Except AccFail α × Dev}
    (h : ∀ a b, MemorySide a.2 (g a b).2) (l : List β) (a : Except AccFail α × Dev) : MemorySide a.2 (l.foldl g a).2 := by
  induction l generalizing a with
  | nil => exact .refl _
  | cons b r ih => exact (h a b).trans (ih (g a b))

theorem agentRead1_memorySide (d : Dev) (a : Agent) (hostUc : Bool) (dva n : Nat) :
    MemorySide d (d.agentRead1 a hostUc dva n).2 := by
  have htr := xlate_memorySide d a dva .read
  unfold Dev.agentRead1
  generalize d.xlate a dva .read = q at htr ⊢
  obtain ⟨x | ⟨pa, attr⟩, e⟩ := q
  · exact htr
  · dsimp only
    split
    · exact htr.trans (recordFail_memorySide _ _ _ _ _ _ _)
    · split
      · exact htr.trans (ncRead_memorySide _ _ _ _)
      · exact htr.trans (ncRead_memorySide _ _ _ _)

theorem agentRead_memorySide (d : Dev) (a : Agent) (hostUc : Bool) (dva n : Nat) : MemorySide d (d.agentRead a hostUc dva n).2 := by
  refine foldl_memorySide (fun q p => ?_) _ (.ok [], d)
  obtain ⟨x | bs, e⟩ := q
  · exact .refl _
  · have hside := agentRead1_memorySide e a hostUc (p.1 % 2 ^ 48) p.2
    dsimp only
    generalize e.agentRead1 a hostUc (p.1 % 2 ^ 48) p.2 = q at hside ⊢
    obtain ⟨x | cs, e'⟩ := q
    · exact hside
    · exact hside

theorem agentWrite1_memorySide (d : Dev) (a : Agent) (hostUc : Bool) (dva : Nat) (bs : List Byte) (poison : Bool) :
    MemorySide d (d.agentWrite1 a hostUc dva bs poison).2 := by
  have htr := xlate_memorySide d a dva .write
  unfold Dev.agentWrite1
  generalize d.xlate a dva .write = q at htr ⊢
  obtain ⟨x | ⟨pa, attr⟩, e⟩ := q
  · exact htr
  · dsimp only
    split
    · exact htr.trans (recordFail_memorySide _ _ _ _ _ _ _)
    · exact htr.trans (ncWrite_memorySide _ _ _ _ _ _ _)

theorem agentWrite_memorySide (d : Dev) (a : Agent) (hostUc : Bool) (dva : Nat) (bs : List Byte) :
    MemorySide d (d.agentWrite a hostUc dva bs).2 := by
  refine foldl_memorySide (fun q p => ?_) _ (.ok (), d)
  obtain ⟨x | _, e⟩ := q
  · exact .refl _
  · exact agentWrite1_memorySide _ _ _ _ _ _

theorem memorySide_of_read {d e : Dev} {a : Agent} {hostUc : Bool} {dva n : Nat} {bs : List Byte}
    (h : d.agentRead a hostUc dva n = (.ok bs, e)) : MemorySide d e := by
  have hside := agentRead_memorySide d a hostUc dva n
  rw [h] at hside
  exact hside

theorem memorySide_of_write {d e : Dev} {a : Agent} {hostUc : Bool} {dva : Nat} {bs : List Byte}
    (h : d.agentWrite a hostUc dva bs = (.ok (), e)) : MemorySide d e := by
  have hside := agentWrite_memorySide d a hostUc dva bs
  rw [h] at hside
  exact hside

/-! ### A ring's configuration (07 R250, R251) -/

theorem configured_eq_self_iff (x : Ring) (v : Nat) :
    configured x v = x ↔ v.testBit 30 = x.kind ∧ v / 2 ^ 14 % 2 ^ 14 = x.dbTally ∧ v / 2 ^ 8 % 16 = x.weight ∧
      (if 6 ≤ v % 32 ∧ v % 32 ≤ 16 then v % 32 else x.log2n) = x.log2n := by
  cases x
  simp [configured]

/-- A ring as a configuration that is accepted starts it. -/
def ringStarted (x : Ring) : Ring :=
  { x with en := true, head := 0, tail := 0, done := 0, err := 0, cmds := [], slotIssued := false, slotEmpty := false
           st := if x.kind then .zeroing else .active }

/-- A ring that is switched off: the commands that have not started are dropped. -/
def ringStopped (x : Ring) : Ring :=
  let kept := x.cmds.filter (fun c => c.phase != .fetched)
  { x with en := false, cmds := kept, st := if kept = [] ∧ x.st ≠ .active then .disabled else .draining }

theorem ringEnable_withRing (d : Dev) (f r : Nat) (y : Ring) :
    (withRing d f r y).ringEnable f r =
      withRing d f r (if d.ringConfigOk f y then ringStarted y else { y with en := true, st := .error, err := 2 }) := by
  have hcheck : (withRing d f r y).ringConfigOk f y = d.ringConfigOk f y := rfl
  unfold Dev.ringEnable
  simp only [modRing_eq, ring_withRing_self, withRing_withRing, hcheck]
  split
  · rfl
  · rfl

theorem ringDisable_withRing (d : Dev) (f r : Nat) (y : Ring) : (withRing d f r y).ringDisable f r = withRing d f r (ringStopped y) := by
  unfold Dev.ringDisable ringStopped
  simp [modRing_eq]

/-- FE_RING_CFG: a change of an enabled ring, or EN of a draining one, is denied; else the configuration is written, and EN may rise
or fall. -/
theorem ringCfgWrite_eq (d : Dev) (f r v : Nat) :
    d.ringCfgWrite f r v =
      if ((d.ring f r).en = true ∧ configured (d.ring f r) v ≠ d.ring f r) ∨ (v.testBit 31 = true ∧ (d.ring f r).st = .draining) then
        d.denied f
      else
        let e := withRing d f r (configured (d.ring f r) v)
        if v.testBit 31 = true ∧ (d.ring f r).en = false then e.ringEnable f r
        else if v.testBit 31 = false ∧ (d.ring f r).en = true then e.ringDisable f r else e := by
  have hlow : fld v 4 0 = v % 32 := by rw [fld_eq]; simp
  have htally : fld v 27 14 = v / 2 ^ 14 % 2 ^ 14 := fld_eq v 27 14
  have hweight : fld v 11 8 = v / 2 ^ 8 % 16 := fld_eq v 11 8
  have hlog : (if (decide (6 ≤ v % 32) && decide (v % 32 ≤ 16)) = true then v % 32 else (d.ring f r).log2n) =
      if 6 ≤ v % 32 ∧ v % 32 ≤ 16 then v % 32 else (d.ring f r).log2n := by simp
  unfold Dev.ringCfgWrite bitOf
  simp only [hlow, htally, hweight, hlog, modRing_eq]
  refine ite_congr (propext ?_) (fun _ => rfl) (fun _ => ?_)
  · simp [configured_eq_self_iff, Decidable.imp_iff_not_or, or_assoc]
  · exact ite_congr (by simp) (fun _ => rfl) (fun _ => ite_congr (by simp) (fun _ => rfl) (fun _ => rfl))

theorem ringCfgWrite_rises {d : Dev} {f r v : Nat} (hen : v.testBit 31 = true) (hoff : (d.ring f r).en = false)
    (hst : (d.ring f r).st ≠ .draining) :
    d.ringCfgWrite f r v = withRing d f r (if d.ringConfigOk f (configured (d.ring f r) v) then ringStarted (configured (d.ring f r) v)
      else { configured (d.ring f r) v with en := true, st := .error, err := 2 }) := by
  rw [ringCfgWrite_eq, if_neg (by simp [hoff, hst]), ← ringEnable_withRing]
  exact if_pos ⟨hen, hoff⟩

theorem ringCfgWrite_denied {d : Dev} {f r v : Nat} (hon : (d.ring f r).en = true) (hnew : configured (d.ring f r) v ≠ d.ring f r) :
    d.ringCfgWrite f r v = d.denied f := by
  rw [ringCfgWrite_eq, if_pos (.inl ⟨hon, hnew⟩)]

theorem ringCfgWrite_falls {d : Dev} {f r v : Nat} (hen : v.testBit 31 = false) (hon : (d.ring f r).en = true)
    (hsame : configured (d.ring f r) v = d.ring f r) : d.ringCfgWrite f r v = withRing d f r (ringStopped (d.ring f r)) := by
  rw [ringCfgWrite_eq, if_neg (by simp [hen, hsame]), hsame, ← ringDisable_withRing]
  simp [hen, hon]

theorem exec_ringEnable_eq {f r v : Nat} (hf : f < 16) (hr : r < 16) (hen : v.testBit 31 = true) (s : State) :
    exec (.ringEnable f r v) s = s.on fun d => d.ringCfgWrite f r v := by
  show execRingEnable f r v s = _
  unfold execRingEnable bitOf
  simp [hf, hr, hen]

theorem exec_ringDisable_eq {f r v : Nat} (hf : f < 16) (hr : r < 16) (hen : v.testBit 31 = false) (s : State) :
    exec (.ringDisable f r v) s = s.on fun d => d.ringCfgWrite f r v := by
  show execRingDisable f r v s = _
  unfold execRingDisable bitOf
  simp [hf, hr, hen]

/-! ### The ends of zeroing and draining -/

theorem exec_ringIdle {s : State} {f r : Nat} {d1 : Dev} (hst : (s.dev.ring f r).st = .zeroing) (hrun : s.dev.running = true)
    (hwrite : s.dev.agentWrite (feAgent f (s.dev.ring f r).ctx) true ((s.dev.ring f r).base * 4096)
      (List.replicate (64 + 8 * 2 ^ (s.dev.ring f r).log2n) 0) = (.ok (), d1)) :
    exec (.ringIdle f r) s = .next (withDev s (withRing d1 f r { s.dev.ring f r with st := .active })) := by
  have hside := memorySide_of_write hwrite
  show execRingIdle f r s = _
  unfold execRingIdle Ring.baseDva Ring.entries
  refine on_eq_memory_withRing ?_ hside
  simp only [hst, hrun, hwrite, modRing_eq, hside.ring]
  rfl

theorem exec_ringDrained {s : State} {f r : Nat} (hst : (s.dev.ring f r).st = .draining) (hcmds : (s.dev.ring f r).cmds = []) :
    exec (.ringDrained f r) s = .next (withDev s (withRing s.dev f r { s.dev.ring f r with st := .disabled })) := by
  show execRingDrained f r s = _
  unfold execRingDrained
  exact on_eq_withRing (if_pos (by simp [hst, hcmds]))

/-- Settles O25: a write of FE_RING_CFG by the three cases of R250 and R251, and the two commands that end zeroing and draining. -/
theorem ringsAreEnabledAndDisabled : Obligations.RingsAreEnabledAndDisabled := by
  unfold Obligations.RingsAreEnabledAndDisabled
  intro s f r v hf hr
  refine ⟨fun hen hoff hst => ?_, fun hen hon hnew => ?_, fun hen hon hsame => ?_, fun hst hrun d1 hwrite => ?_, exec_ringDrained⟩
  · have hrises := ringCfgWrite_rises hen hoff hst
    refine ⟨fun hok => ?_, fun hbad => ?_⟩
    · rw [if_pos hok] at hrises
      exact (exec_ringEnable_eq hf hr hen s).trans (on_eq_withRing hrises)
    · rw [if_neg (by simp [hbad])] at hrises
      exact (exec_ringEnable_eq hf hr hen s).trans (on_eq_withRing hrises)
  · exact (exec_ringEnable_eq hf hr hen s).trans
      (on_eq_withDev ((ringCfgWrite_denied hon hnew).trans (denied_eq_counted hf)) rfl rfl)
  · exact (exec_ringDisable_eq hf hr hen s).trans (on_eq_withRing (ringCfgWrite_falls hen hon hsame))
  · have hside := memorySide_of_write hwrite
    exact ⟨_, exec_ringIdle hst hrun hwrite, rfl, ring_withRing_self _ _ _ _, withRing_memorySide hside f r _, rfl⟩

/-! ### Doorbells (07 R254) -/

theorem serialAhead32_iff (a b : Nat) :
    serialAhead a b 32 = true ↔ 1 ≤ toBits 32 ((a : Int) - b) ∧ toBits 32 ((a : Int) - b) ≤ 2 ^ 31 - 1 := by
  unfold serialAhead
  simp

theorem exec_doorbell_eq {f r v : Nat} (hf : f < 16) (hr : r < 16) (s : State) :
    exec (.doorbell f r v) s = s.on fun d => d.doorbell f r v := by
  show execDoorbell f r v s = _
  unfold execDoorbell
  simp [hf, hr]

theorem doorbell_denied {d : Dev} {f r : Nat} (h : (d.ring f r).st ≠ .active ∨ (d.ring f r).kind = true) (v : Nat) :
    d.doorbell f r v = d.denied f :=
  if_pos (by simpa using h)

section
variable {d : Dev} {f r v : Nat} (hst : (d.ring f r).st = .active) (hkind : (d.ring f r).kind = false) (hv : v < 2 ^ 32)
include hst hkind hv

/-- At a running host-written ring, TAIL moves to a value ahead of it that is at most N ahead of HEAD. -/
theorem doorbell_running :
    d.doorbell f r v =
      if serialAhead v (d.ring f r).tail 32 = false then d
      else if toBits 32 ((v : Int) - (d.ring f r).head) ≤ 2 ^ (d.ring f r).log2n then
        withRing d f r { d.ring f r with tail := v }
      else withRing d f r { d.ring f r with st := .error, err := 1 } := by
  unfold Dev.doorbell Ring.entries
  simp only [Nat.mod_eq_of_lt hv, modRing_eq]
  rw [if_neg (by simp [hst, hkind])]
  simp

theorem doorbell_not_ahead (hnot : ¬ (1 ≤ toBits 32 ((v : Int) - (d.ring f r).tail) ∧
    toBits 32 ((v : Int) - (d.ring f r).tail) ≤ 2 ^ 31 - 1)) : d.doorbell f r v = d := by
  rw [doorbell_running hst hkind hv, if_pos (Bool.eq_false_iff.mpr (mt (serialAhead32_iff _ _).mp hnot))]

variable (hlow : 1 ≤ toBits 32 ((v : Int) - (d.ring f r).tail)) (hhigh : toBits 32 ((v : Int) - (d.ring f r).tail) ≤ 2 ^ 31 - 1)
include hlow hhigh

theorem doorbell_moves (hroom : toBits 32 ((v : Int) - (d.ring f r).head) ≤ 2 ^ (d.ring f r).log2n) :
    d.doorbell f r v = withRing d f r { d.ring f r with tail := v } := by
  rw [doorbell_running hst hkind hv, if_neg (by simp [(serialAhead32_iff _ _).mpr ⟨hlow, hhigh⟩]), if_pos hroom]

theorem doorbell_overruns (hover : 2 ^ (d.ring f r).log2n < toBits 32 ((v : Int) - (d.ring f r).head)) :
    d.doorbell f r v = withRing d f r { d.ring f r with st := .error, err := 1 } := by
  rw [doorbell_running hst hkind hv, if_neg (by simp [(serialAhead32_iff _ _).mpr ⟨hlow, hhigh⟩]), if_neg (Nat.not_le.mpr hover)]

end

/-! ### Fetches (07 R255-R258, R588) -/

theorem fetched_eq_nil {x : Ring} (h : ∀ c ∈ x.cmds, c.phase ≠ .fetched) : x.cmds.filter (fun c => c.phase == .fetched) = [] := by
  simpa [List.filter_eq_nil_iff] using h

/-- A ring after command `c` has been copied from the place of HEAD. -/
def ringCopied (x : Ring) (c : Cmd) : Ring := { x with head := (x.head + 1) % 2 ^ 32, cmds := x.cmds ++ [c] }

theorem fetchMany_of_empty {d : Dev} {f r : Nat} (h : (d.ring f r).head = (d.ring f r).tail) (n : Nat) : d.fetchMany f r n = d := by
  cases n with
  | zero => rfl
  | succ n => exact if_pos h

theorem fetchMany_of_read {d e : Dev} {f r : Nat} {bs : List Byte} (h : (d.ring f r).head ≠ (d.ring f r).tail)
    (hread : d.agentRead (feAgent f (d.ring f r).ctx) true
      ((d.ring f r).base * 4096 + 64 * ((d.ring f r).head % 2 ^ (d.ring f r).log2n)) 64 = (.ok bs, e)) (n : Nat) :
    d.fetchMany f r (n + 1) =
      (withRing e f r (ringCopied (d.ring f r) (e.fetched f (d.ring f r).head 0 bs false))).fetchMany f r n := by
  have hring : e.ring f r = d.ring f r := (memorySide_of_read hread).ring f r
  rw [Dev.fetchMany]
  simp only [if_neg h, Ring.baseDva, Ring.entries, hread, modRing_eq, hring]
  rfl

/-- One published command is copied, and then the ring has none left. -/
theorem fetchMany_of_one {d e : Dev} {f r : Nat} {bs : List Byte} (hone : (d.ring f r).tail = ((d.ring f r).head + 1) % 2 ^ 32)
    (hne : (d.ring f r).tail ≠ (d.ring f r).head)
    (hread : d.agentRead (feAgent f (d.ring f r).ctx) true
      ((d.ring f r).base * 4096 + 64 * ((d.ring f r).head % 2 ^ (d.ring f r).log2n)) 64 = (.ok bs, e)) (n : Nat) :
    d.fetchMany f r (n + 1) = withRing e f r (ringCopied (d.ring f r) (e.fetched f (d.ring f r).head 0 bs false)) := by
  rw [fetchMany_of_read hne.symm hread, fetchMany_of_empty]
  rw [ring_withRing_self]
  exact hone.symm

theorem exec_commandFetch_slot {s : State} {f r : Nat} (hok : s.dev.feOk f r = true) (hst : (s.dev.ring f r).st = .active)
    (hkind : (s.dev.ring f r).kind = true) (hslot : (s.dev.ring f r).slotEmpty = false) :
    exec (.commandFetch f r) s = .next (withDev s (withRing s.dev f r { s.dev.ring f r with slotIssued := true })) := by
  show execCommandFetch f r s = _
  unfold execCommandFetch
  refine on_eq_withRing ?_
  simp [hok, hst, hkind, hslot, modRing_eq]

theorem exec_commandFetch_one {s : State} {f r : Nat} {bs : List Byte} {d1 : Dev} (hok : s.dev.feOk f r = true)
    (hst : (s.dev.ring f r).st = .active) (hnone : ∀ c ∈ (s.dev.ring f r).cmds, c.phase ≠ .fetched)
    (hkind : (s.dev.ring f r).kind = false) (hone : (s.dev.ring f r).tail = ((s.dev.ring f r).head + 1) % 2 ^ 32)
    (hne : (s.dev.ring f r).tail ≠ (s.dev.ring f r).head)
    (hread : s.dev.agentRead (feAgent f (s.dev.ring f r).ctx) true
      ((s.dev.ring f r).base * 4096 + 64 * ((s.dev.ring f r).head % 2 ^ (s.dev.ring f r).log2n)) 64 = (.ok bs, d1)) :
    exec (.commandFetch f r) s = .next (withDev s (withRing d1 f r
      (ringCopied (s.dev.ring f r) (d1.fetched f (s.dev.ring f r).head 0 bs false)))) := by
  show execCommandFetch f r s = _
  unfold execCommandFetch
  refine on_eq_memory_withRing ?_ (memorySide_of_read hread)
  simp only [hok, hst, hkind, fetched_eq_nil hnone]
  exact fetchMany_of_one hone hne hread 7

/-! ### The slots of a device-written ring (07 R258) -/

/-- The read of a slot has been issued and can be performed. -/
structure SlotAsked (d : Dev) (f r : Nat) : Prop where
  ok : d.feOk f r = true
  active : (d.ring f r).st = .active
  issued : (d.ring f r).slotIssued = true
  room : ∀ c ∈ (d.ring f r).cmds, c.phase ≠ .fetched

/-- The DVA of the slot at HEAD. -/
def slotDva (x : Ring) : Nat := x.base * 4096 + 64 + 8 * (x.head % 2 ^ x.log2n)

/-- The ring while its slot is being read. -/
def ringAsked (x : Ring) : Ring := { x with slotIssued := false }

theorem slotRead_goes {d : Dev} {f r : Nat} (h : SlotAsked d f r) :
    ¬ (!d.feOk f r || (d.ring f r).st != .active || !(d.ring f r).slotIssued ||
      decide (((d.ring f r).cmds.filter (fun c => c.phase == .fetched)).length ≥ 8)) = true := by
  simp [h.ok, h.active, h.issued, fetched_eq_nil h.room]

/-- What is accessed while the slot is read leaves the ring as the read takes it. -/
theorem slotRead_side {d e : Dev} {f r : Nat} (h : MemorySide (withRing d f r (ringAsked (d.ring f r))) e) (y : Ring) :
    MemorySide (withRing d f r y) (withRing e f r y) := by
  have hside := withRing_memorySide h f r y
  rw [withRing_withRing] at hside
  exact hside

theorem exec_slotRead_empty {s : State} {f r : Nat} {bs : List Byte} {d1 : Dev} (h : SlotAsked s.dev f r)
    (hread : (withRing s.dev f r (ringAsked (s.dev.ring f r))).agentRead (feAgent f (s.dev.ring f r).ctx) true
      (slotDva (s.dev.ring f r)) 8 = (.ok bs, d1)) (hzero : leNat bs = 0) :
    exec (.slotRead f r) s = .next (withDev s (withRing d1 f r { ringAsked (s.dev.ring f r) with slotEmpty := true })) := by
  have hside := memorySide_of_read hread
  have hring : d1.ring f r = ringAsked (s.dev.ring f r) := (hside.ring f r).trans (ring_withRing_self _ _ _ _)
  unfold ringAsked slotDva at hread
  show execSlotRead f r s = _
  unfold execSlotRead
  refine on_eq_withDev ?_ hside.time hside.fuses
  dsimp only
  rw [if_neg (slotRead_goes h)]
  simp only [modRing_eq, Ring.baseDva, Ring.entries, hread, if_pos hzero, hring]

theorem exec_slotRead_takes {s : State} {f r : Nat} {bs cs : List Byte} {d1 d2 d3 d4 : Dev} (h : SlotAsked s.dev f r)
    (hread : (withRing s.dev f r (ringAsked (s.dev.ring f r))).agentRead (feAgent f (s.dev.ring f r).ctx) true
      (slotDva (s.dev.ring f r)) 8 = (.ok bs, d1)) (hfull : leNat bs ≠ 0) (hkept : (leNat bs).testBit 4 = false)
    (hcmd : d1.agentRead (feAgent f (s.dev.ring f r).ctx) true (leNat bs / 64 % 2 ^ 42 * 64) 64 = (.ok cs, d2))
    (hzeroed : d2.agentWrite (feAgent f (s.dev.ring f r).ctx) true (slotDva (s.dev.ring f r)) (toLe 8 0) = (.ok (), d3))
    (hhead : d3.agentWrite (feAgent f (s.dev.ring f r).ctx) true ((s.dev.ring f r).base * 4096 + 8)
      (toLe 8 (((s.dev.ring f r).head + 1) % 2 ^ 32)) = (.ok (), d4)) :
    MemorySide (withRing s.dev f r (ringAsked (s.dev.ring f r))) d4 ∧
    exec (.slotRead f r) s = .next (withDev s (withRing d4 f r
      (ringCopied (ringAsked (s.dev.ring f r)) (d4.fetched f (s.dev.ring f r).head 0 cs (badSlot (leNat bs)))))) := by
  have hside : MemorySide (withRing s.dev f r (ringAsked (s.dev.ring f r))) d4 :=
    (((memorySide_of_read hread).trans (memorySide_of_read hcmd)).trans (memorySide_of_write hzeroed)).trans (memorySide_of_write hhead)
  have hring : d4.ring f r = ringAsked (s.dev.ring f r) := (hside.ring f r).trans (ring_withRing_self _ _ _ _)
  have haddr : fld (leNat bs) 47 6 = leNat bs / 64 % 2 ^ 42 := fld_eq _ _ _
  refine ⟨hside, ?_⟩
  unfold ringAsked slotDva at hread
  unfold slotDva at hzeroed
  show execSlotRead f r s = _
  unfold execSlotRead
  refine on_eq_withDev ?_ hside.time hside.fuses
  dsimp only
  rw [if_neg (slotRead_goes h)]
  simp only [modRing_eq, Ring.baseDva, Ring.entries, hread, if_neg hfull, bitOf, hkept, haddr, hcmd, Bool.false_eq_true, if_false,
    hzeroed, hhead, hring]
  rfl

/-- Settles O26: the doorbell's four cases, the two kinds of fetch, and a slot found empty or with a command. -/
theorem doorbellsAndFetches : Obligations.DoorbellsAndFetches := by
  unfold Obligations.DoorbellsAndFetches
  intro s f r hf hr
  refine ⟨fun v hv => ⟨fun hnot => ?_, fun hst hkind => ?_⟩, fun hok hst hnone => ⟨fun hkind hslot => ?_,
    fun hkind hone hne bs d1 hread => ?_, fun _ hissued bs d1 hread => ⟨fun hzero => ?_,
    fun hfull hkept cs d2 d3 d4 hcmd hzeroed hhead => ?_⟩⟩⟩
  · exact (exec_doorbell_eq hf hr s).trans (on_eq_withDev ((doorbell_denied hnot v).trans (denied_eq_counted hf)) rfl rfl)
  · refine ⟨fun hnot => ?_, fun hlow hhigh hroom => ?_, fun hlow hhigh hover => ?_⟩
    · exact (exec_doorbell_eq hf hr s).trans (on_eq_self (doorbell_not_ahead hst hkind hv hnot))
    · exact (exec_doorbell_eq hf hr s).trans (on_eq_withRing (doorbell_moves hst hkind hv hlow hhigh hroom))
    · exact (exec_doorbell_eq hf hr s).trans (on_eq_withRing (doorbell_overruns hst hkind hv hlow hhigh hover))
  · exact exec_commandFetch_slot hok hst hkind hslot
  · have hcopied := ring_withRing_self d1 f r
      (ringCopied (s.dev.ring f r) (d1.fetched f (s.dev.ring f r).head 0 bs false))
    refine ⟨_, exec_commandFetch_one hok hst hnone hkind hone hne hread, rfl, ?_, rfl, hcopied.trans ?_⟩
    · rw [ring_withDev, hcopied]
      exact withRing_memorySide (memorySide_of_read hread) f r _
    · unfold ringCopied
      rw [← hone]
  · refine ⟨_, exec_slotRead_empty ⟨hok, hst, hissued, hnone⟩ hread hzero, rfl, ?_, ring_withRing_self _ _ _ _⟩
    rw [ring_withDev, ring_withRing_self]
    exact slotRead_side (memorySide_of_read hread) _
  · obtain ⟨hside, hexec⟩ := exec_slotRead_takes ⟨hok, hst, hissued, hnone⟩ hread hfull hkept hcmd hzeroed hhead
    refine ⟨_, hexec, rfl, ?_, rfl, ring_withRing_self _ _ _ _⟩
    rw [ring_withDev, ring_withRing_self]
    exact slotRead_side hside _

/-! ### A command of a ring changes (07 R252, R266) -/

theorem ringOnly_withRing (d : Dev) (x : CmdId) (y : Ring) : RingOnly d (withRing d x.fn x.ring y) x := by
  unfold RingOnly
  rw [ring_withRing_self]

theorem ringOnly_modCmd (d : Dev) (x : CmdId) (g : Cmd → Cmd) : RingOnly d (d.modCmd x g) x := ringOnly_withRing d x _

theorem ringOnly_trans {d e t : Dev} {x : CmdId} (h : RingOnly d e x) (k : RingOnly e t x) : RingOnly d t x := by
  unfold RingOnly at *
  rw [h, withRing_withRing] at k
  exact k

theorem ringOnly_time_fuses {d t : Dev} {x : CmdId} (h : RingOnly d t x) : t.time = d.time ∧ t.fuses = d.fuses := by
  rw [h]
  exact ⟨rfl, rfl⟩

theorem cmd?_congr {d e : Dev} {x : CmdId} (h : (e.ring x.fn x.ring).cmds = (d.ring x.fn x.ring).cmds) : e.cmd? x = d.cmd? x := by
  unfold Dev.cmd?
  rw [h]

/-- The change of a command by its name shows when the command is next looked up; it keeps its place and its name. -/
theorem cmd?_modCmd {d : Dev} {x : CmdId} {c : Cmd} (h : d.cmd? x = some c) {g : Cmd → Cmd}
    (hname : ∀ o, (g o).count = o.count ∧ (g o).inner = o.inner) : (d.modCmd x g).cmd? x = some (g c) := by
  have hkeeps : ((fun o : Cmd => o.count == x.count && o.inner == x.inner) ∘
      fun o => if o.count = x.count && o.inner = x.inner then g o else o) = fun o => o.count == x.count && o.inner == x.inner := by
    funext o
    obtain ⟨hcount, hinner⟩ := hname o
    simp only [Function.comp]
    split
    · rw [hcount, hinner]
    · rfl
  have hfound := List.find?_some h
  unfold Dev.cmd? at h ⊢
  unfold Dev.modCmd
  rw [modRing_eq, ring_withRing_self, List.find?_map, hkeeps, h]
  simp only [Bool.and_eq_true, beq_iff_eq] at hfound
  simp [hfound]

theorem cmdDone_performed {d : Dev} {x : CmdId} {c : Cmd} (h : d.cmd? x = some c) (status detail : Nat) :
    Performed (d.cmdDone x status detail) x c status detail :=
  cmd?_modCmd h fun _ => ⟨rfl, rfl⟩

theorem cmdRuns_cmd? {d : Dev} {x : CmdId} {c : Cmd} (h : d.cmd? x = some c) : (d.cmdRuns x).cmd? x = some { c with phase := .running } :=
  cmd?_modCmd h fun _ => ⟨rfl, rfl⟩

/-! ### The meaning of a started command -/

theorem cmd?_of_started {d : Dev} {x : CmdId} {op : Nat} {c : Cmd} (h : Started d x op c) : d.cmd? x = some c := by
  obtain ⟨-, hcmd, -, -⟩ := h
  exact hcmd

/-- A ring command that has started takes its effect. -/
theorem runRing_of_started {s : State} {x : CmdId} {op : Nat} {c : Cmd} (h : Started s.dev x op c) {eff : Dev → Cmd → Nat → Dev}
    {d e : Dev} (heff : eff s.dev c (c.ctx.getD 0) = d) (hside : RingOnly e d x) (ht : e.time = s.dev.time)
    (hf : e.fuses = s.dev.fuses) : runRing x op eff s = .next (withDev s d) := by
  obtain ⟨hrun, hcmd, hphase, hop⟩ := h
  obtain ⟨hdt, hdf⟩ := ringOnly_time_fuses hside
  refine on_eq_withDev ?_ (hdt.trans ht) (hdf.trans hf)
  unfold Dev.runCmd
  simpa [hcmd, hphase, hop, hrun] using heff

theorem violPart_audSide (d : Dev) (p k : Nat) : AudSide d (d.violPart p k) := by
  unfold AudSide Dev.violPart
  split
  · rfl
  · rfl

/-- A command on a tally that its partition does not own is DENIED (07 R270, R271). -/
theorem tallyDenied_spec {d : Dev} {x : CmdId} {c : Cmd} (h : d.cmd? x = some c) (p : Nat) :
    Performed ((d.violPart p 9).cmdDone x 5 0) x c 5 0 ∧
    RingOnly { d with aud := ((d.violPart p 9).cmdDone x 5 0).aud } ((d.violPart p 9).cmdDone x 5 0) x := by
  have haud := violPart_audSide d p 9
  unfold AudSide at haud
  rw [haud]
  exact ⟨cmdDone_performed h 5 0, ringOnly_modCmd _ _ _⟩

/-! ### WAIT and REARM (07 R270, R271) -/

/-- A WAIT that reaches the tally block is answered at once or registered; nothing but its wake or its registration and the
counters differs. -/
theorem tallyWait_spec (d : Dev) (who : TallyWho) (n : Nat) (target : BitVec 64) :
    let e := d.tallyWait who n target
    e = { d with tly := e.tly, aud := e.aud } ∧ e.tly.tallies = d.tly.tallies ∧
    ((d.tally n).lost = true → e.tly.wakes = d.tly.wakes ++ [⟨who, false⟩]) ∧
    ((d.tally n).lost = false → tallyMet (d.tally n).value target = true → e.tly.wakes = d.tly.wakes ++ [⟨who, true⟩]) ∧
    ((d.tally n).lost = false → tallyMet (d.tally n).value target = false →
      e.tly.waiters = d.tly.waiters ++ [⟨who, n, target⟩]) := by
  have haud : AudSide d (d.countGlobal 4 1) := count_audSide d _ 1
  unfold AudSide at haud
  unfold Dev.tallyWait
  rw [haud]
  have htally : ({ d with aud := (d.countGlobal 4 1).aud } : Dev).tally n = d.tally n := rfl
  simp only [htally]
  cases hlost : (d.tally n).lost with
  | true => simp
  | false => cases hmet : tallyMet (d.tally n).value target with
    | true => simp
    | false => simp

theorem hearing_cmds (n : Nat) (x : Ring) : (hearing n x).cmds = x.cmds := by
  unfold hearing
  split
  · rfl
  · rfl

theorem ring_congr {d e : Dev} (h : e.funcs = d.funcs) (f r : Nat) : e.ring f r = d.ring f r := by
  unfold Dev.ring Dev.func
  rw [h]

/-- A REARM is heard by rings, and no ring's commands change. -/
theorem tallyRearm_cmds (d : Dev) (src : TallySrc) (n : Nat) (v : BitVec 64) (f r : Nat) :
    ((d.tallyRearm src n v).ring f r).cmds = (d.ring f r).cmds := by
  have hcount : (d.countGlobal 4 1).funcs = d.funcs := by
    rw [show (d.countGlobal 4 1) = { d with aud := (d.countGlobal 4 1).aud } from count_audSide d _ 1]
  unfold Dev.tallyRearm
  generalize d.countGlobal 4 1 = e at hcount ⊢
  dsimp only
  split
  · exact congrArg Ring.cmds (ring_congr hcount f r)
  · unfold Dev.tallyTo
    rw [ringsHear_ring, hearing_cmds]
    exact congrArg Ring.cmds (ring_congr hcount f r)

theorem exec_wait_owned {s : State} {x : CmdId} {c : Cmd} (h : Started s.dev x 1 c)
    (howned : s.dev.tallyOwned c.part (c.f 333 320) = true) :
    let e := (s.dev.cmdRuns x).tallyWait (.command x) (c.f 333 320) (BitVec.ofNat 64 (c.f 319 256))
    exec (.wait x) s = .next (withDev s e) ∧ RingOnly { s.dev with tly := e.tly, aud := e.aud } e x := by
  intro e
  obtain ⟨hframe, -⟩ := tallyWait_spec (s.dev.cmdRuns x) (.command x) (c.f 333 320) (BitVec.ofNat 64 (c.f 319 256))
  have hside : RingOnly { s.dev with tly := e.tly, aud := e.aud } e x := by
    have hruns : RingOnly { s.dev with tly := e.tly, aud := e.aud } { s.dev.cmdRuns x with tly := e.tly, aud := e.aud } x :=
      ringOnly_modCmd _ _ _
    rw [← hframe] at hruns
    exact hruns
  exact ⟨runRing_of_started h (if_pos howned) hside rfl rfl, hside⟩

theorem exec_wait_denied {s : State} {x : CmdId} {c : Cmd} (h : Started s.dev x 1 c)
    (hother : s.dev.tallyOwned c.part (c.f 333 320) = false) :
    exec (.wait x) s = .next (withDev s ((s.dev.violPart c.part 9).cmdDone x 5 0)) := by
  obtain ⟨-, hside⟩ := tallyDenied_spec (cmd?_of_started h) c.part
  exact runRing_of_started h (if_neg (by simp [hother])) hside rfl rfl

theorem exec_waitTimeout {s : State} {x : CmdId} {c : Cmd} (hcmd : s.dev.cmd? x = some c) (hop : c.op = 1) (hphase : c.phase = .running)
    (htimeout : c.f 351 336 ≠ 0) (hepochs : c.f 351 336 ≤ c.epochs) :
    exec (.waitTimeout x) s = .next (withDev s ((s.dev.unwait (.command x)).cmdDone x 3 (s.dev.tally (c.f 333 320)).value.toNat)) := by
  show execWaitTimeout x s = _
  unfold execWaitTimeout
  refine on_eq_withDev ?_ rfl rfl
  simp only [hcmd]
  exact if_pos (by simp [hop, hphase, htimeout, hepochs])

theorem exec_rearm_owned {s : State} {x : CmdId} {c : Cmd} (h : Started s.dev x 2 c)
    (howned : s.dev.tallyOwned c.part (c.f 333 320) = true) :
    exec (.rearm x) s = .next (withDev s
      ((s.dev.tallyRearm .frontEnd (c.f 333 320) (BitVec.ofNat 64 (c.f 319 256))).cmdDone x 0 0)) := by
  obtain ⟨y, hbecomes, -⟩ := tallyRearm_performs s.dev .frontEnd (c.f 333 320) (BitVec.ofNat 64 (c.f 319 256))
  exact runRing_of_started h (if_pos howned) (ringOnly_modCmd _ _ _) hbecomes.time hbecomes.fuses

theorem exec_rearm_denied {s : State} {x : CmdId} {c : Cmd} (h : Started s.dev x 2 c)
    (hother : s.dev.tallyOwned c.part (c.f 333 320) = false) :
    exec (.rearm x) s = .next (withDev s ((s.dev.violPart c.part 9).cmdDone x 5 0)) := by
  obtain ⟨-, hside⟩ := tallyDenied_spec (cmd?_of_started h) c.part
  exact runRing_of_started h (if_neg (by simp [hother])) hside rfl rfl

/-- A REARM that is performed: its command is done, its tally follows R222, and no other tally differs. -/
theorem rearm_spec {d : Dev} {x : CmdId} {c : Cmd} (h : d.cmd? x = some c) (n : Nat) (v : BitVec 64) :
    let e := (d.tallyRearm .frontEnd n v).cmdDone x 0 0
    Performed e x c 0 0 ∧ TallyRule (.rearm v) d.dp.count (d.tally n) (e.tally n) ∧ (∀ m, m ≠ n → e.tally m = d.tally m) ∧
    TallySide d e := by
  intro e
  obtain ⟨y, hbecomes, hrule⟩ := tallyRearm_performs d .frontEnd n v
  have hcmd : (d.tallyRearm .frontEnd n v).cmd? x = some c := (cmd?_congr (tallyRearm_cmds d _ n v _ _)).trans h
  have hside : TallySide d e := by
    have hdone : TallySide (d.tallyRearm .frontEnd n v) e := rfl
    have htally := hbecomes.side
    unfold TallySide at *
    rw [hdone, htally]
  refine ⟨cmdDone_performed hcmd 0 0, ?_, hbecomes.others, hside⟩
  show TallyRule _ _ _ ((d.tallyRearm .frontEnd n v).tally n)
  rw [hbecomes.here]
  exact hrule

/-! ### BATCH (07 R272) -/

/-- A BATCH that begins in its ring's place. -/
def batchBegun (d : Dev) (x : CmdId) (b : BatchSt) : Dev := (d.cmdRuns x).modCmd x (fun c => { c with batch := some b })

theorem batchBegun_spec {d : Dev} {x : CmdId} {c : Cmd} (h : d.cmd? x = some c) (b : BatchSt) :
    (batchBegun d x b).cmd? x = some { c with phase := .running, batch := some b } ∧ RingOnly d (batchBegun d x b) x :=
  ⟨cmd?_modCmd (cmdRuns_cmd? h) fun _ => ⟨rfl, rfl⟩, ringOnly_trans (ringOnly_modCmd _ _ _) (ringOnly_modCmd _ _ _)⟩

/-- A BATCH that R272 refuses: no commands, too many, a misaligned address, or one inside a BATCH. -/
def badBatch (x : CmdId) (c : Cmd) : Prop := c.f 332 320 = 0 ∨ 4096 < c.f 332 320 ∨ c.f 303 256 % 64 ≠ 0 ∨ x.inner ≠ 0

theorem exec_batch_bad {s : State} {x : CmdId} {c : Cmd} (h : Started s.dev x 8 c) (hbad : badBatch x c) :
    exec (.batch x) s = .next (withDev s (s.dev.cmdDone x 0x10 0)) :=
  runRing_of_started h (if_pos (by simpa [badBatch, or_assoc] using hbad)) (ringOnly_modCmd _ _ _) rfl rfl

theorem exec_batch_begins {s : State} {x : CmdId} {c : Cmd} (h : Started s.dev x 8 c) (hgood : ¬ badBatch x c) :
    exec (.batch x) s = .next (withDev s (batchBegun s.dev x ⟨c.f 303 256, c.f 332 320, 0⟩)) :=
  runRing_of_started h (if_neg (by simpa [badBatch, or_assoc] using hgood)) (batchBegun_spec (cmd?_of_started h) _).2 rfl rfl

/-! ### MAINT and TLB_INV (07 R278, R279) -/

/-- A MAINT that R278 refuses: no operation, or a requester that is not the partition's own. -/
def badMaint (c : Cmd) : Prop := c.f 354 352 = 0 ∨ 4 < c.f 354 352 ∨ (c.f 365 360 ≠ c.part ∧ c.f 365 360 ≠ 16 + c.part)

/-- The operation that a MAINT command begins. -/
def maintOf (x : CmdId) (c : Cmd) : MaintOp :=
  { who := .command x, op := c.f 354 352, ctx := c.ctx.getD 0, dva := c.f 303 256 / 128 * 128, left := c.f 343 320, req := c.f 365 360
    done := 0, conflicts := 0 }

/-- The device with a maintenance operation begun by a command. -/
def maintBegun (d : Dev) (x : CmdId) (m : MaintOp) : Dev :=
  Dev.cmdRuns { d with mem := { d.mem with maints := d.mem.maints ++ [m] } } x

theorem alignDown_eq (a n : Nat) : alignDown a n = a / n * n := by
  unfold alignDown
  have := Nat.div_add_mod' a n
  omega

theorem exec_maint_bad {s : State} {x : CmdId} {c : Cmd} (h : Started s.dev x 0x18 c) (hbad : badMaint c) :
    exec (.maint x) s = .next (withDev s (s.dev.cmdDone x 0x10 0)) :=
  runRing_of_started h (if_pos (by simpa [badMaint, or_assoc] using hbad)) (ringOnly_modCmd _ _ _) rfl rfl

theorem exec_maint_nothing {s : State} {x : CmdId} {c : Cmd} (h : Started s.dev x 0x18 c) (hgood : ¬ badMaint c)
    (hzero : c.f 343 320 = 0) : exec (.maint x) s = .next (withDev s (s.dev.cmdDone x 0 0)) :=
  runRing_of_started h ((if_neg (by simpa [badMaint, or_assoc] using hgood)).trans (if_pos hzero)) (ringOnly_modCmd _ _ _) rfl rfl

theorem exec_maint_begins {s : State} {x : CmdId} {c : Cmd} (h : Started s.dev x 0x18 c) (hgood : ¬ badMaint c)
    (hlines : c.f 343 320 ≠ 0) : exec (.maint x) s = .next (withDev s (maintBegun s.dev x (maintOf x c))) := by
  refine runRing_of_started h ((if_neg (by simpa [badMaint, or_assoc] using hgood)).trans ((if_neg hlines).trans ?_))
    (ringOnly_modCmd { s.dev with mem := { s.dev.mem with maints := s.dev.mem.maints ++ [maintOf x c] } } x _) rfl rfl
  rw [alignDown_eq]
  rfl

/-- The invalidation that a TLB_INV command of mode 0, 1 or 2 begins. -/
def invOf (x : CmdId) (c : Cmd) : InvOp :=
  { mode := if c.f 353 352 = 2 then 3 else c.f 353 352, ctx := if c.f 353 352 = 2 then x.fn else c.ctx.getD 0
    page := c.f 303 256 / 4096, pages := c.f 343 320, regs := false, cmd := some x }

/-- The device with an invalidation begun by a command. -/
def invBegun (d : Dev) (x : CmdId) (o : InvOp) : Dev := Dev.cmdRuns { d with mmu := { d.mmu with invs := d.mmu.invs ++ [o] } } x

theorem invStart_nothing {d : Dev} {x : CmdId} {o : InvOp} (hcmd : o.cmd = some x) (hmode : o.mode = 0) (hpages : o.pages = 0) :
    d.invStart o = d.cmdDone x 0 0 := by
  unfold Dev.invStart
  simp [hcmd, hmode, hpages]

theorem invStart_begins {d : Dev} {x : CmdId} {o : InvOp} (hcmd : o.cmd = some x) (hregs : o.regs = false)
    (hsome : ¬ (o.mode = 0 ∧ o.pages = 0)) : d.invStart o = invBegun d x o := by
  unfold Dev.invStart invBegun
  rw [if_neg (by simpa using hsome)]
  simp [hcmd, hregs]

theorem tlbMode_lt (c : Cmd) : c.f 353 352 < 4 := by
  unfold Cmd.f
  rw [fld_eq]
  exact Nat.mod_lt _ (by decide)

theorem invOf_mode_zero {x : CmdId} {c : Cmd} (h : (invOf x c).mode = 0) : c.f 353 352 = 0 := by
  unfold invOf at h
  dsimp only at h
  split at h
  · omega
  · exact h

theorem exec_tlbInv_bad {s : State} {x : CmdId} {c : Cmd} (h : Started s.dev x 0x19 c) (hmode : c.f 353 352 = 3) :
    exec (.tlbInv x) s = .next (withDev s (s.dev.cmdDone x 0x10 0)) := by
  refine runRing_of_started h ?_ (ringOnly_modCmd _ _ _) rfl rfl
  simp only [hmode]

theorem exec_tlbInv_starts {s : State} {x : CmdId} {c : Cmd} (h : Started s.dev x 0x19 c) (hmode : c.f 353 352 ≠ 3) {d e : Dev}
    (hstart : s.dev.invStart (invOf x c) = d) (hside : RingOnly e d x) (ht : e.time = s.dev.time) (hf : e.fuses = s.dev.fuses) :
    exec (.tlbInv x) s = .next (withDev s d) := by
  have hlt := tlbMode_lt c
  refine runRing_of_started h (Eq.trans ?_ hstart) hside ht hf
  unfold invOf
  obtain hzero | hone | htwo : c.f 353 352 = 0 ∨ c.f 353 352 = 1 ∨ c.f 353 352 = 2 := by omega
  · simp [hzero]
  · simp [hone]
  · simp [htwo]

/-! ### The statement -/

/-- Settles O28: each command either takes its whole effect, with its completion to come, or runs on. -/
theorem ringCommandsThatWait : Obligations.RingCommandsThatWait := by
  unfold Obligations.RingCommandsThatWait
  refine ⟨fun s x c h => ⟨fun howned => ?_, fun hother => ?_⟩, fun s x c hcmd hop hphase htimeout hepochs => ?_,
    fun s x c h => ⟨fun howned => ?_, fun hother => ?_⟩, fun s x c h => ?_, fun s x c h => ?_, fun s x c h => ?_⟩
  · obtain ⟨hexec, hside⟩ := exec_wait_owned h howned
    obtain ⟨hframe, htallies, hlost, hmet, hwaits⟩ :=
      tallyWait_spec (s.dev.cmdRuns x) (.command x) (c.f 333 320) (BitVec.ofNat 64 (c.f 319 256))
    refine ⟨_, hexec, rfl, ?_, htallies, hlost, hmet, hwaits, hside⟩
    exact (cmd?_congr (congrArg Ring.cmds (ring_congr (congrArg Dev.funcs hframe) _ _))).trans (cmdRuns_cmd? (cmd?_of_started h))
  · obtain ⟨hperformed, hside⟩ := tallyDenied_spec (cmd?_of_started h) c.part
    exact ⟨_, exec_wait_denied h hother, rfl, hperformed, hside⟩
  · have hcmd' : (s.dev.unwait (.command x)).cmd? x = some c := hcmd
    refine ⟨_, exec_waitTimeout hcmd hop hphase htimeout hepochs, rfl, cmdDone_performed hcmd' _ _, fun w hw => ?_, rfl,
      ringOnly_modCmd _ _ _⟩
    obtain ⟨-, hwho⟩ := List.mem_filter.mp hw
    simpa using hwho
  · obtain ⟨hperformed, hrule, hothers, hside⟩ :=
      rearm_spec (cmd?_of_started h) (c.f 333 320) (BitVec.ofNat 64 (c.f 319 256))
    exact ⟨_, exec_rearm_owned h howned, rfl, hperformed, hrule, hothers, hside⟩
  · obtain ⟨hperformed, hside⟩ := tallyDenied_spec (cmd?_of_started h) c.part
    exact ⟨_, exec_rearm_denied h hother, rfl, hperformed, hside⟩
  · by_cases hbad : badBatch x c
    · exact ⟨_, exec_batch_bad h hbad, rfl, ringOnly_modCmd _ _ _, fun _ => cmdDone_performed (cmd?_of_started h) _ _,
        fun hgood => absurd hbad hgood⟩
    · obtain ⟨hbegun, hside⟩ := batchBegun_spec (cmd?_of_started h) ⟨c.f 303 256, c.f 332 320, 0⟩
      exact ⟨_, exec_batch_begins h hbad, rfl, hside, fun hb => absurd hb hbad, fun _ => hbegun⟩
  · by_cases hbad : badMaint c
    · exact ⟨_, exec_maint_bad h hbad, rfl, ringOnly_modCmd _ _ _, fun _ => ⟨cmdDone_performed (cmd?_of_started h) _ _, rfl⟩,
        fun hgood => absurd hbad hgood, fun hgood => absurd hbad hgood⟩
    · by_cases hlines : c.f 343 320 = 0
      · exact ⟨_, exec_maint_nothing h hbad hlines, rfl, ringOnly_modCmd _ _ _, fun hb => absurd hb hbad,
          fun _ _ => ⟨cmdDone_performed (cmd?_of_started h) _ _, rfl⟩, fun _ hn => absurd hlines hn⟩
      · have hcmd : ({ s.dev with mem := { s.dev.mem with maints := s.dev.mem.maints ++ [maintOf x c] } } : Dev).cmd? x = some c :=
          cmd?_of_started h
        exact ⟨_, exec_maint_begins h hbad hlines, rfl, ringOnly_modCmd _ _ _, fun hb => absurd hb hbad,
          fun _ hn => absurd hn hlines, fun _ _ => ⟨cmdRuns_cmd? hcmd, rfl⟩⟩
  · by_cases hmode : c.f 353 352 = 3
    · exact ⟨_, exec_tlbInv_bad h hmode, rfl, ringOnly_modCmd _ _ _, fun _ => ⟨cmdDone_performed (cmd?_of_started h) _ _, rfl⟩,
        fun hzero => absurd (hzero.symm.trans hmode) (by decide), fun hn => absurd hmode hn⟩
    · by_cases hnothing : c.f 353 352 = 0 ∧ c.f 343 320 = 0
      · obtain ⟨hzero, hpages⟩ := hnothing
        have hstart : s.dev.invStart (invOf x c) = s.dev.cmdDone x 0 0 := invStart_nothing rfl (by simp [invOf, hzero]) hpages
        exact ⟨_, exec_tlbInv_starts h hmode hstart (ringOnly_modCmd _ _ _) rfl rfl, rfl, ringOnly_modCmd _ _ _,
          fun hb => absurd hb hmode, fun _ _ => ⟨cmdDone_performed (cmd?_of_started h) _ _, rfl⟩,
          fun _ hn => absurd ⟨hzero, hpages⟩ hn⟩
      · have hsome : ¬ ((invOf x c).mode = 0 ∧ (invOf x c).pages = 0) := fun ⟨hm, hp⟩ => hnothing ⟨invOf_mode_zero hm, hp⟩
        have hcmd : ({ s.dev with mmu := { s.dev.mmu with invs := s.dev.mmu.invs ++ [invOf x c] } } : Dev).cmd? x = some c :=
          cmd?_of_started h
        exact ⟨_, exec_tlbInv_starts h hmode (invStart_begins rfl rfl hsome) (ringOnly_modCmd _ _ _) rfl rfl, rfl,
          ringOnly_modCmd _ _ _, fun hb => absurd hb hmode, fun hm hp => absurd ⟨hm, hp⟩ hnothing,
          fun _ _ => ⟨cmdRuns_cmd? hcmd, rfl⟩⟩

/-! ### A receipt that the host refuses (05 R192; 07 R267; 17 R536) -/

/-- A command of STATUS 16 that has been performed, with a receipt to come at DVA 0x200000. -/
def receiptCmd : Cmd :=
  { count := 0, inner := 0, raw := BitVec.ofNat 512 (2 ^ 33 + 0x200000 * 2 ^ 128), ctx := some 0, part := 0, bad := false
    phase := .performed, status := 16, detail := 0, epochs := 0, batch := none, discarded := false }

/-- The command's name: the first of ring 0 of function 0. -/
def receiptId : CmdId := { fn := 0, ring := 0, count := 0, inner := 0 }

/-- The block in which the command's completion is due. DVA 0x200000 is the first host page, writable; function 0 may issue requests,
and the host refuses those for the page's first line. -/
def refusedReceipt : State :=
  { pending := []
    dev := { oneTable [(0x1008, 0x0B), (0x100D, 0x80)] with
      funcs := [(0, { Func.reset 0 with
        rings := [(0, { Ring.empty with en := true, st := .active, cmds := [receiptCmd] })], bme := true })]
      mem := { (oneTable [(0x1008, 0x0B), (0x100D, 0x80)]).mem with refused := [2 ^ 40] } } }

/-- The agent of the receipt: the front end for the command's partition. -/
def receiptAgent : Agent := { rq := { id := 36, part := some 0, func := 0 }, unit := 2, index := 0, ctx := 0 }

/-- The translation of the receipt's address. -/
def receiptXlate : Except AccFail (Nat × Nat) × Dev := refusedReceipt.dev.xlate receiptAgent (receiptCmd.f 175 128) .write

theorem receiptXlate_eq : receiptXlate = (.ok (2 ^ 47, 0), receiptXlate.2) :=
  eq_ok_of_toOption (by decide +kernel)

theorem receiptCmd_asks : receiptCmd.bit 33 = true ∧ receiptCmd.bit 34 = false ∧ receiptCmd.f 175 128 % 32 = 0 := by
  decide +kernel

/-- The posted write of the receipt is lost. -/
theorem commandComplete_loses_receipt {t : State} (h : exec (.commandComplete receiptId) refusedReceipt = .next t) :
    Mem.read t.dev.mem.host 0 = 0 := by
  cases h
  decide +kernel

/-- A receipt's first byte is STATUS. -/
theorem receipt_would_begin_with_status (bs : List Byte) : Mem.read (Mem.writeN receiptXlate.2.mem.host 0 (16 :: bs)) 0 = 16 := by
  have hhost : receiptXlate.2.mem.host = [] := by decide +kernel
  rw [hhost, Mem.writeN, Mem.read_writeN_outside _ _ (.inl (by decide))]
  rfl

/-- Refutes O27: COMMAND_COMPLETE is said to put the receipt into host memory whenever its address translates there and its function
may issue requests. A posted write to a line that the host refuses is lost (05 R192), so in `refusedReceipt` host memory keeps its
byte 0 where the receipt has its STATUS, 16. -/
theorem not_commandsStartAndComplete : ¬ Obligations.CommandsStartAndComplete := by
  intro h
  obtain ⟨-, hcomplete⟩ := h
  obtain ⟨t, hexec, -, -, -, -, -, hreceipt, -⟩ := hcomplete refusedReceipt receiptId receiptCmd rfl rfl rfl rfl rfl rfl
  obtain ⟨hbit, hnone, haligned⟩ := receiptCmd_asks
  obtain ⟨-, hhost⟩ := hreceipt 0 (2 ^ 47) 0 receiptXlate.2 hbit hnone rfl haligned receiptXlate_eq (Nat.le_refl _) rfl
  have hlost := commandComplete_loses_receipt hexec
  rw [hhost, Nat.sub_self] at hlost
  exact absurd ((receipt_would_begin_with_status _).symm.trans hlost) (by decide)

end Sys2Proof.Proofs
